-- ==== Sys2Proof/Word.lean ====
section
/-! DEFINITION. The units of the part: link bytes and tags as bit vectors, quantities as natural numbers with
the bounds of 00 section 4 (saturating and wrapping fields). -/

namespace Sys2Proof

/-- One byte of the control link (R183). -/
abbrev Byte := BitVec 8

/-- A message tag: 16 bits chosen by the call controller, or a notice number (R183, R188). -/
abbrev Tag := BitVec 16

/-- The largest value of a 16-bit count. -/
def max16 : Nat := 65535

/-- The largest value of a 32-bit field (00 section 4.2). -/
def max32 : Nat := 4294967295

/-- The largest value of a 48-bit carrier field (00 section 4.2). -/
def max48 : Nat := 281474976710655

/-- An addition to a field that saturates at `top` (00 section 4.1). -/
def satAdd (top a b : Nat) : Nat := if a + b ≤ top then a + b else top

/-- A 32-bit field that wraps (00 section 4.1). -/
def wrap32 (n : Nat) : Nat := n % 4294967296

end Sys2Proof
end

