-- ==== Sys2Proof/Syntax.lean ====
section
/-! DEFINITION. The commands of the part: one constructor for each row of spec/opcode_table.json.
A request carries its tag and its payload bytes (R183, R194); UNKNOWN_REQUEST carries its type byte as well. -/

namespace Sys2Proof

/-- What puts the part into its power-on state (R193). -/
inductive PowerCause where
  /-- Power is applied; RESET_N is high. -/
  | powerApplied
  /-- RESET_N has been low for this many microseconds and is still low. -/
  | resetPinLow (microseconds : Nat)
deriving DecidableEq, Repr

/-- One command of the part, in the order of the opcode table. The operand of LINK_BREAK is a stretch
of space on the line, in milliseconds, that follows on the stretches before it (R191; log 22). -/
inductive Instr where
  | powerOn (cause : PowerCause) (straps : BitVec 2)
  | frameReceived (bytes : List Byte)
  | linkBreak (spaceMs : Nat)
  | messageBegin
  | messageEnd
  | recordNoticeBegin
  | recordNoticeEnd
  | unknownRequest (type : Byte) (tag : Tag) (payload : List Byte)
  | linkEcho (tag : Tag) (payload : List Byte)
  | statusRead (tag : Tag) (payload : List Byte)
  | noticeEnable (tag : Tag) (payload : List Byte)
  | deviceRestart (tag : Tag) (payload : List Byte)
  | circuitBlockPlain (tag : Tag) (payload : List Byte)
  | circuitBlockDrain (tag : Tag) (payload : List Byte)
  | circuitBlockForced (tag : Tag) (payload : List Byte)
  | circuitUnblock (tag : Tag) (payload : List Byte)
  | remoteBlock (tag : Tag) (payload : List Byte)
  | remoteUnblock (tag : Tag) (payload : List Byte)
  | incomingSeize (tag : Tag) (payload : List Byte)
  | incomingRelease (tag : Tag) (payload : List Byte)
  | circuitAudit (tag : Tag) (payload : List Byte)
  | spanReport (tag : Tag) (payload : List Byte)
  | groupDefine (tag : Tag) (payload : List Byte)
  | groupChange (tag : Tag) (payload : List Byte)
  | groupMembers (tag : Tag) (payload : List Byte)
  | groupDelete (tag : Tag) (payload : List Byte)
  | groupRead (tag : Tag) (payload : List Byte)
  | prefixWrite (tag : Tag) (payload : List Byte)
  | prefixDelete (tag : Tag) (payload : List Byte)
  | prefixLookup (tag : Tag) (payload : List Byte)
  | planWrite (tag : Tag) (payload : List Byte)
  | planDelete (tag : Tag) (payload : List Byte)
  | planRead (tag : Tag) (payload : List Byte)
  | callSetup (tag : Tag) (payload : List Byte)
  | callRetry (tag : Tag) (payload : List Byte)
  | callAnswer (tag : Tag) (payload : List Byte)
  | callRelease (tag : Tag) (payload : List Byte)
  | callRead (tag : Tag) (payload : List Byte)
  | groupReport (tag : Tag) (payload : List Byte)
  | monitorSet (tag : Tag) (payload : List Byte)
  | monitorHold (tag : Tag) (payload : List Byte)
  | monitorResume (tag : Tag) (payload : List Byte)
  | monitorRead (tag : Tag) (payload : List Byte)
  | guardSet (tag : Tag) (payload : List Byte)
  | guardParameters (tag : Tag) (payload : List Byte)
  | guardRead (tag : Tag) (payload : List Byte)
  | clockSet (tag : Tag) (payload : List Byte)
  | clockRead (tag : Tag) (payload : List Byte)
  | bandMapWrite (tag : Tag) (payload : List Byte)
  | bandMapRead (tag : Tag) (payload : List Byte)
  | tariffWrite (tag : Tag) (payload : List Byte)
  | tariffCancel (tag : Tag) (payload : List Byte)
  | tariffDelete (tag : Tag) (payload : List Byte)
  | tariffRead (tag : Tag) (payload : List Byte)
  | carrierWrite (tag : Tag) (payload : List Byte)
  | carrierDelete (tag : Tag) (payload : List Byte)
  | carrierReport (tag : Tag) (payload : List Byte)
  | periodLength (tag : Tag) (payload : List Byte)
  | periodClose (tag : Tag) (payload : List Byte)
  | periodReport (tag : Tag) (payload : List Byte)
  | recordFetch (tag : Tag) (payload : List Byte)
  | queueThresholds (tag : Tag) (payload : List Byte)
  | drainMode (tag : Tag) (payload : List Byte)
  | queueRead (tag : Tag) (payload : List Byte)
  | oneSecondAdvance
  | pendingTariffSwitch
  | periodBoundary
  | increment (handle : Nat)
  | sweepVisit
  | sampleInstant
  | lineReturnsToMark
  | resetPinReturnsHigh
deriving DecidableEq, Repr

/-- The request codes of R183 and section 12.6: codes 0x00 to 0x35 are requests. -/
def isRequestCode (code : Nat) : Bool := code ≤ 0x35

/-- The type byte, tag and payload of a command that is a request (section 12.6); none for an event. -/
def Instr.request? : Instr → Option (Byte × Tag × List Byte)
  | .powerOn _ _ => none
  | .frameReceived _ => none
  | .linkBreak _ => none
  | .messageBegin => none
  | .messageEnd => none
  | .recordNoticeBegin => none
  | .recordNoticeEnd => none
  | .unknownRequest ty t p => some (ty, t, p)
  | .linkEcho t p => some (0x00, t, p)
  | .statusRead t p => some (0x01, t, p)
  | .noticeEnable t p => some (0x02, t, p)
  | .deviceRestart t p => some (0x03, t, p)
  | .circuitBlockPlain t p => some (0x04, t, p)
  | .circuitBlockDrain t p => some (0x04, t, p)
  | .circuitBlockForced t p => some (0x04, t, p)
  | .circuitUnblock t p => some (0x05, t, p)
  | .remoteBlock t p => some (0x06, t, p)
  | .remoteUnblock t p => some (0x07, t, p)
  | .incomingSeize t p => some (0x08, t, p)
  | .incomingRelease t p => some (0x09, t, p)
  | .circuitAudit t p => some (0x0A, t, p)
  | .spanReport t p => some (0x0B, t, p)
  | .groupDefine t p => some (0x0C, t, p)
  | .groupChange t p => some (0x0D, t, p)
  | .groupMembers t p => some (0x0E, t, p)
  | .groupDelete t p => some (0x0F, t, p)
  | .groupRead t p => some (0x10, t, p)
  | .prefixWrite t p => some (0x11, t, p)
  | .prefixDelete t p => some (0x12, t, p)
  | .prefixLookup t p => some (0x13, t, p)
  | .planWrite t p => some (0x14, t, p)
  | .planDelete t p => some (0x15, t, p)
  | .planRead t p => some (0x16, t, p)
  | .callSetup t p => some (0x17, t, p)
  | .callRetry t p => some (0x18, t, p)
  | .callAnswer t p => some (0x19, t, p)
  | .callRelease t p => some (0x1A, t, p)
  | .callRead t p => some (0x1B, t, p)
  | .groupReport t p => some (0x1C, t, p)
  | .monitorSet t p => some (0x1D, t, p)
  | .monitorHold t p => some (0x1E, t, p)
  | .monitorResume t p => some (0x1F, t, p)
  | .monitorRead t p => some (0x20, t, p)
  | .guardSet t p => some (0x21, t, p)
  | .guardParameters t p => some (0x22, t, p)
  | .guardRead t p => some (0x23, t, p)
  | .clockSet t p => some (0x24, t, p)
  | .clockRead t p => some (0x25, t, p)
  | .bandMapWrite t p => some (0x26, t, p)
  | .bandMapRead t p => some (0x27, t, p)
  | .tariffWrite t p => some (0x28, t, p)
  | .tariffCancel t p => some (0x29, t, p)
  | .tariffDelete t p => some (0x2A, t, p)
  | .tariffRead t p => some (0x2B, t, p)
  | .carrierWrite t p => some (0x2C, t, p)
  | .carrierDelete t p => some (0x2D, t, p)
  | .carrierReport t p => some (0x2E, t, p)
  | .periodLength t p => some (0x2F, t, p)
  | .periodClose t p => some (0x30, t, p)
  | .periodReport t p => some (0x31, t, p)
  | .recordFetch t p => some (0x32, t, p)
  | .queueThresholds t p => some (0x33, t, p)
  | .drainMode t p => some (0x34, t, p)
  | .queueRead t p => some (0x35, t, p)
  | .oneSecondAdvance => none
  | .pendingTariffSwitch => none
  | .periodBoundary => none
  | .increment _ => none
  | .sweepVisit => none
  | .sampleInstant => none
  | .lineReturnsToMark => none
  | .resetPinReturnsHigh => none

end Sys2Proof
end

