-- ==== Sys2Proof/Decode.lean ====
section
/-! DEFINITION. The command a table word spells. The rows of spec/opcode_table.json have no bits, so no word spells
a command (log 17). -/

namespace Sys2Proof

/-- The command that a word of `nbits` bits spells by the table's bits: none, for no row has bits (log 17). -/
def decodeTableWord (_nbits _w : Nat) : Option Instr := none

end Sys2Proof
end

