-- ==== Sys2Proof/Machine/Table.lean ====
section
/-! DEFINITION. Sparse tables: a list of (index, record) pairs with strictly rising indexes. An index that is not
listed has the record's value after power-on (log 16). -/

namespace Sys2Proof.Machine

/-- A sparse table of records by index. -/
abbrev Table (α : Type) := List (Nat × α)

/-- The record listed at an index. -/
def Table.find {α : Type} : Table α → Nat → Option α
  | [], _ => none
  | (k, v) :: rest, n => if k = n then some v else Table.find rest n

/-- Lists `v` at index `n`, in place of what was listed there. -/
def Table.put {α : Type} : Table α → Nat → α → Table α
  | [], n, v => [(n, v)]
  | (k, w) :: rest, n, v =>
    if n < k then (n, v) :: (k, w) :: rest
    else if n = k then (n, v) :: rest
    else (k, w) :: Table.put rest n v

/-- Lists nothing at index `n`. -/
def Table.erase {α : Type} (t : Table α) (n : Nat) : Table α :=
  t.filter fun e => e.1 != n

/-- Rewrites the record at index `n`, if one is listed. -/
def Table.modify {α : Type} (t : Table α) (n : Nat) (f : α → α) : Table α :=
  t.map fun e => if e.1 = n then (e.1, f e.2) else e

/-- Rewrites every listed record. -/
def Table.mapAll {α : Type} (t : Table α) (f : α → α) : Table α :=
  t.map fun e => (e.1, f e.2)

/-- Strictly rising indexes. -/
def Table.rising {α : Type} : Table α → Bool
  | [] => true
  | [_] => true
  | (k, _) :: (l, w) :: rest => decide (k < l) && Table.rising ((l, w) :: rest)

end Sys2Proof.Machine
end

