-- ==== Sys2Proof/WellFormed.lean ====
section
/-! DEFINITION. Which terms of `Instr` are commands of the part. A request's payload is free: a payload the
request does not admit is still a request, and the part refuses it in its reply (R194). What is checked here is
that a term is a command of its OWN row. -/

namespace Sys2Proof

/-- The three modes of CIRCUIT BLOCK (R5), in the order R5 lists them. -/
inductive BlockMode where
  | plain
  | drain
  | forced
deriving DecidableEq, Repr

/-- The mode byte of a CIRCUIT BLOCK (R5, R194). -/
def BlockMode.code : BlockMode → Byte
  | .plain => 0x01
  | .drain => 0x02
  | .forced => 0x03

/-- A CIRCUIT BLOCK payload of the right length (scope, target, mode: 4 bytes) whose mode byte names another of
the three modes belongs to that mode's row. -/
def namesOtherMode (m : BlockMode) (payload : List Byte) : Bool :=
  payload.length == 4 &&
    [BlockMode.plain, .drain, .forced].any fun m' => m' != m && payload[3]? == some m'.code

/-- A type byte as a complete message has it: bit 6 clear (R183, R184). -/
def isMessageType (type : Byte) : Bool := !type.getLsbD 6

/-- A type byte whose message is replied UNKNOWN_REQUEST (R184): bit 7 set, or a code that is no request's. -/
def isUnknownType (type : Byte) : Bool :=
  type.getLsbD 7 || !isRequestCode (type &&& 0x3F).toNat

/-- A term is a command of its row. -/
def Instr.wellFormed : Instr → Bool
  | .unknownRequest type _ _ => isMessageType type && isUnknownType type
  | .circuitBlockPlain _ p => !namesOtherMode .plain p
  | .circuitBlockDrain _ p => !namesOtherMode .drain p
  | .circuitBlockForced _ p => !namesOtherMode .forced p
  | .increment h => decide (h < 8192)
  | _ => true

end Sys2Proof
end

