-- ==== Sys2Proof/Machine/Records.lean ====
section
/-! DEFINITION. The records of the thirteen blocks, with the fields and values their rules give them. -/

namespace Sys2Proof.Machine

/-! ### Chapter 1: circuits and spans -/

/-- The usage of a circuit (R1). The call handle is present exactly while usage is OUTGOING. -/
inductive Usage where
  | idle
  | outgoing (handle : Nat)
  | incoming
deriving DecidableEq, Repr, Inhabited

/-- In use: OUTGOING or INCOMING. -/
def Usage.busy : Usage → Bool
  | .idle => false
  | .outgoing _ => true
  | .incoming => true

/-- A circuit record (R1). `group = none` is UNEQUIPPED. -/
structure Circuit where
  group : Option Nat
  usage : Usage
  localBlock : Bool
  remoteBlock : Bool
deriving DecidableEq, Repr, Inhabited

/-- The circuit record after power-on (R3). -/
def Circuit.powerOn : Circuit :=
  { group := none, usage := .idle, localBlock := false, remoteBlock := false }

/-- The outcome of one audited position (R19). -/
inductive AuditOutcome where
  | matched
  | corrected
  | mismatch
deriving DecidableEq, Repr, Inhabited

/-- The far end's view of a circuit (R19). -/
inductive FarView where
  | idle
  | busy
  | blocked
deriving DecidableEq, Repr, Inhabited

/-- What removed the last position of a drain watch (R11). -/
inductive DrainCause where
  | idle
  | unblocked
  | restart
deriving DecidableEq, Repr, Inhabited

/-- An open drain watch (R4); `positions` is the watch set in ascending order. -/
structure DrainWatch where
  positions : List Nat
  originTag : Tag
  merged : Nat
deriving DecidableEq, Repr, Inhabited

/-- A span record (R4). `watch = none` is a closed watch. -/
structure Span where
  watch : Option DrainWatch
  lastAudit : Option (List (Nat × AuditOutcome))
deriving DecidableEq, Repr, Inhabited

/-- The span record after power-on (R4). -/
def Span.powerOn : Span := { watch := none, lastAudit := none }

/-! ### Chapters 2 and 6: trunk groups and the monitor's fields in them -/

/-- Group kind (R25); `inward` is IN. -/
inductive GroupKind where
  | out
  | bothway
  | inward
deriving DecidableEq, Repr, Inhabited

inductive GroupAdmin where
  | inService
  | outOfService
deriving DecidableEq, Repr, Inhabited

inductive HuntMode where
  | lowFirst
  | highFirst
  | rotary
  | spread
deriving DecidableEq, Repr, Inhabited

/-- Glare control (R25, R39); `noCircuit` is NONE. -/
inductive GlareControl where
  | all
  | noCircuit
  | odd
  | even
deriving DecidableEq, Repr, Inhabited

/-- The definition fields of a group (R25). -/
structure GroupDefn where
  kind : GroupKind
  admin : GroupAdmin
  carrier : Nat
  tariff : Option Nat
  huntMode : HuntMode
  glareControl : GlareControl
  reservation : Nat
  guardReservation : Nat
  tBusy : Nat
  tCong : Nat
  oCong : Nat
  levelNotice : Bool
deriving DecidableEq, Repr, Inhabited

/-- A level, or the class of one sample (R97, R99). -/
inductive Level where
  | clear
  | busy
  | congested
deriving DecidableEq, Repr, Inhabited

/-- The classes of the last three samples (R97). -/
structure History where
  oldest : Level
  middle : Level
  newest : Level
deriving DecidableEq, Repr, Inhabited

def History.allClear : History := { oldest := .clear, middle := .clear, newest := .clear }

/-- A statistics set: eight counts (R97). -/
structure Stats where
  attempts : Nat
  seizures : Nat
  overflows : Nat
  glares : Nat
  crankbacks : Nat
  busySampleSum : Nat
  samplesTaken : Nat
  peakBusy : Nat
deriving DecidableEq, Repr, Inhabited

def Stats.zero : Stats :=
  { attempts := 0, seizures := 0, overflows := 0, glares := 0, crankbacks := 0,
    busySampleSum := 0, samplesTaken := 0, peakBusy := 0 }

/-- A defined group record (R25, R97). -/
structure Group where
  defn : GroupDefn
  members : List Nat
  busyCount : Nat
  rotary : Nat
  overflowCount : Nat
  history : History
  level : Level
  current : Stats
  previous : Stats
deriving DecidableEq, Repr, Inhabited

/-! ### Chapter 3: destination analysis -/

/-- A prefix entry (R43). -/
structure PrefixEntry where
  digits : List Nat
  plan : Nat
deriving DecidableEq, Repr, Inhabited

/-- The role of a plan entry (R48). -/
inductive Role where
  | first
  | alternate
deriving DecidableEq, Repr, Inhabited

structure PlanEntry where
  group : Nat
  role : Role
deriving DecidableEq, Repr, Inhabited

/-- A defined plan record (R48). -/
structure Plan where
  entries : List PlanEntry
  ceiling : Option Nat
  sticky : Option Nat
deriving DecidableEq, Repr, Inhabited

/-! ### Chapters 4 and 9: call contexts and rating contexts -/

inductive CallClass where
  | ordinary
  | priority
deriving DecidableEq, Repr, Inhabited

/-- The cause that closes a call (R67). -/
inductive CloseCause where
  | normal
  | abnormal
  | forced
  | restart
  | noRoute
deriving DecidableEq, Repr, Inhabited

/-- The cause of a CALL RETRY (R87). -/
inductive RetryCause where
  | downstream
  | fault
deriving DecidableEq, Repr, Inhabited

/-- A rating context (R137). `charge` and `billed` are those since the last record. -/
structure Rating where
  tariff : Nat
  factor : Nat
  residue : Nat
  charge : Nat
  billed : Nat
  totalCharge : Nat
  totalBilled : Nat
  nextDue : Nat
  sequence : Nat
  mark : Nat
  answerDay : Nat
  answerTime : Nat
  saturated : Bool
deriving DecidableEq, Repr, Inhabited

/-- A call context in state SEIZED (`answeredAt = none`) or ANSWERED (R59). A FREE context is not listed. -/
structure Call where
  serial : Nat
  cls : CallClass
  incomingGroup : Option Nat
  plan : Nat
  ceiling : Option Nat
  tried : List Nat
  group : Nat
  circuit : Nat
  role : Role
  carrier : Nat
  quote : Nat
  answeredAt : Option Nat
  rating : Option Rating
deriving DecidableEq, Repr, Inhabited

/-- State ANSWERED (R59). -/
def Call.answered (c : Call) : Bool := c.answeredAt.isSome

/-! ### Chapter 5: the outcomes of candidates -/

/-- A trace outcome or pass reason, in the order of R194. -/
inductive Verdict where
  | tried
  | backward
  | outOfService
  | carrier
  | congested
  | price
  | depth
  | reserved
  | noneIdle
  | seized
deriving DecidableEq, Repr, Inhabited

/-! ### Chapters 6 and 7: monitor and guard -/

inductive HoldState where
  | running
  | holdPending
  | held
deriving DecidableEq, Repr, Inhabited

/-- The monitor's device-wide fields (R96). -/
structure Monitor where
  sampleInterval : Nat
  statsInterval : Nat
  samplesInInterval : Nat
  hold : HoldState
  nextSample : Option Nat
deriving DecidableEq, Repr, Inhabited

inductive GuardSetting where
  | auto
  | forceOn
  | forceOff
deriving DecidableEq, Repr, Inhabited

inductive GuardState where
  | normal
  | guarded
deriving DecidableEq, Repr, Inhabited

/-- The cause of a GUARD notice (R117). -/
inductive GuardCause where
  | condition
  | cleared
  | setting
  | restart
deriving DecidableEq, Repr, Inhabited

/-- The inputs and outcome of an evaluation (R113). -/
structure GuardEval where
  seconds : Nat
  congested : Nat
  depth : Nat
  condition : Bool
deriving DecidableEq, Repr, Inhabited

/-- The Guard Control record (R113). -/
structure Guard where
  setting : GuardSetting
  state : GuardState
  clearCount : Nat
  gGroups : Nat
  qGuard : Nat
  depth : Nat
  lastEval : Option GuardEval
deriving DecidableEq, Repr, Inhabited

/-! ### Chapter 8: clock and tariffs -/

/-- The Time Base (R123). -/
structure TimeBase where
  seconds : Nat
  timeOfDay : Nat
  day : Nat
deriving DecidableEq, Repr, Inhabited

/-- A version of a tariff (R130). -/
structure Version where
  setup : Nat
  initial : Nat
  incr : Nat
  rate0 : Nat
  rate1 : Nat
  rate2 : Nat
  rate3 : Nat
  factorClear : Nat
  factorBusy : Nat
  factorCongested : Nat
deriving DecidableEq, Repr, Inhabited

/-- An instant of the clock (R123). -/
structure Instant where
  day : Nat
  time : Nat
deriving DecidableEq, Repr, Inhabited

/-- A pending version with its effective instant (R130). -/
structure PendingVersion where
  version : Version
  effective : Instant
deriving DecidableEq, Repr, Inhabited

/-- A defined tariff entry (R130). -/
structure Tariff where
  active : Version
  staged : Option PendingVersion
deriving DecidableEq, Repr, Inhabited

/-- What activated a pending version (R132). -/
inductive TariffCause where
  | advance
  | clockSet
deriving DecidableEq, Repr, Inhabited

/-! ### Chapter 10: carriers and periods -/

/-- An account (R152). -/
structure Account where
  accumulator : Nat
  recorded : Nat
  overflowCount : Nat
  overflowCharge : Nat
  saturated : Bool
deriving DecidableEq, Repr, Inhabited

def Account.zero : Account :=
  { accumulator := 0, recorded := 0, overflowCount := 0, overflowCharge := 0, saturated := false }

/-- A closed snapshot (R152). -/
structure Snapshot where
  account : Account
  pendingCalls : Nat
  complete : Bool
  read : Bool
deriving DecidableEq, Repr, Inhabited

/-- The snapshot a new carrier starts with (R153, R169). -/
def Snapshot.fresh : Snapshot :=
  { account := Account.zero, pendingCalls := 0, complete := true, read := true }

inductive CarrierAdmin where
  | active
  | suspended
deriving DecidableEq, Repr, Inhabited

/-- A defined carrier record (R151). -/
structure Carrier where
  admin : CarrierAdmin
  cap : Nat
  capReached : Bool
  cappedNotice : Bool
  openCalls : Nat
  account : Account
  snapshot : Snapshot
deriving DecidableEq, Repr, Inhabited

/-- The cause of a CAPPED notice (R155). -/
inductive CapCause where
  | addition
  | capWritten
deriving DecidableEq, Repr, Inhabited

/-- What started a period close (R157). -/
inductive PeriodCause where
  | boundary
  | request
deriving DecidableEq, Repr, Inhabited

/-- The sweep record (R157), and whether a visit is due before the next request or advance (R162). -/
structure Sweep where
  cause : PeriodCause
  nextHandle : Nat
  bySweep : Nat
  byTouch : Nat
  snapshotsLost : Nat
  visitBeforeRequest : Bool
  visitBeforeAdvance : Bool
deriving DecidableEq, Repr, Inhabited

/-- The period fields (R157), and a boundary judged and not yet taken (R125, R160). -/
structure Periods where
  number : Nat
  length : Nat
  closed : Option Nat
  sweep : Option Sweep
  deferred : Bool
  boundaryWaiting : Bool
deriving DecidableEq, Repr, Inhabited

/-! ### Chapter 11: settlement records -/

/-- What a FINAL record carries and a PARTIAL record does not (R170). -/
structure FinalPart where
  heldSeconds : Nat
  cause : CloseCause
deriving DecidableEq, Repr, Inhabited

/-- A settlement record (R170). `final = none` is kind PARTIAL. -/
structure Record where
  final : Option FinalPart
  serial : Nat
  handle : Nat
  sequence : Nat
  carrier : Nat
  group : Nat
  circuit : Nat
  tariff : Nat
  factor : Nat
  period : Nat
  answerDay : Nat
  answerTime : Nat
  billed : Nat
  charge : Nat
  saturated : Bool
deriving DecidableEq, Repr, Inhabited

/-- The last record counted in records lost (R172). -/
structure LostRecord where
  serial : Nat
  sequence : Nat
  carrier : Nat
  period : Nat
  charge : Nat
deriving DecidableEq, Repr, Inhabited

inductive DrainMode where
  | batch
  | stream
deriving DecidableEq, Repr, Inhabited

/-- The condition of a QUEUE notice (R174). -/
inductive QueueCondition where
  | almostEmpty
  | almostFull
deriving DecidableEq, Repr, Inhabited

/-- The cause of a QUEUE notice (R174). -/
inductive QueueCause where
  | count
  | thresholdWritten
deriving DecidableEq, Repr, Inhabited

/-- The Record Queue (R172). The count is the queue's length. -/
structure RecordQueue where
  queue : List Record
  mode : DrainMode
  ae : Nat
  af : Nat
  almostEmpty : Bool
  almostFull : Bool
  dropped : Nat
  lost : Nat
  lastLost : Option LostRecord
deriving DecidableEq, Repr, Inhabited

end Sys2Proof.Machine
end

