-- ==== Sys2Proof/Machine/Messages.lean ====
section
/-! DEFINITION. The messages of the part by their contents: what each reply and notice carries, in the order its
rule lists it. Their bytes are in Machine/Wire.lean. -/

namespace Sys2Proof.Machine

/-- The results of replies, in code order (section 12.6). -/
inductive Result where
  | ok
  | unknownRequest
  | badLength
  | badValue
  | noSuchObject
  | objectInUse
  | tableFull
  | duplicate
  | wrongState
  | overload
  | unroutable
  | noRoute
  | allRoutesTried
  | glareHeld
  | acceptedGlare
  | circuitBusy
  | wrongDirection
  | blocked
  | closeInProgress
deriving DecidableEq, Repr, Inhabited

/-- What TARIFF WRITE did (R131). -/
inductive TariffDisposition where
  | defined
  | activeReplaced
  | staged
  | restaged
deriving DecidableEq, Repr, Inhabited

/-- A circuit seized for a call: the fields a reply names (R85, R90, R93). -/
structure Seizure where
  group : Nat
  circuit : Nat
  position : Nat
  role : Role
  carrier : Nat
  quote : Nat
deriving DecidableEq, Repr, Inhabited

/-- The contents of a reply or a notice. -/
inductive Body where
  /-- A reply with a result and nothing after it: every refusal (R186), and OK with an empty payload. -/
  | result (r : Result)
  /-- R189. -/
  | echo (payload : List Byte)
  /-- R187: the flags and the request queue depth. A STATUS READ clears the flags shown here. -/
  | status (flags : BitVec 14) (depth : Nat)
  /-- R188: the enables before and after. -/
  | noticesEnabled (before after : BitVec 7)
  /-- R190: calls closed, FINAL records written, watches closed. -/
  | restarted (calls records watches : Nat)
  /-- R7: JOINED or OPENED, and the positions added. -/
  | drainTaken (joined : Bool) (added : Nat)
  /-- R8: calls lost and incoming seizures cleared. -/
  | forcedCleared (callsLost incomingCleared : Nat)
  /-- R9: positions removed from the watch set. -/
  | unblocked (removed : Nat)
  /-- R23. -/
  | audited (span first count matched corrected mismatched : Nat) (result : List (Nat × AuditOutcome))
  /-- R24: the 32 circuit records, the drain watch, the last audit result. -/
  | spanReport (circuits : List Circuit) (span : Span)
  /-- R29. -/
  | membersReplaced (added kept removed : Nat)
  /-- R31. -/
  | groupRead (defn : GroupDefn) (members : List Nat) (size busyCount available rotary overflowCount : Nat)
  /-- R45: the plan held before and the new plan when REPLACED (absent when ADDED; log 21), the entry count, whether the
  new plan is defined. -/
  | prefixWritten (replaced : Option (Nat × Nat)) (entryCount : Nat) (planDefined : Bool)
  /-- R46. -/
  | prefixDeleted (plan entryCount : Nat)
  /-- R47, routed. -/
  | lookupRouted (digits : List Nat) (plan entryCount : Nat)
  /-- R47, UNROUTABLE: the selected string and plan for PLAN_UNDEFINED, nothing for NO_MATCH. -/
  | lookupUnroutable (selected : Option (List Nat × Nat)) (entryCount : Nat)
  /-- R49. -/
  | planWritten (replaced : Bool) (firsts alternates prefixEntries seizedCalls : Nat)
  /-- R50. -/
  | planDeleted (prefixEntries : Nat)
  /-- R51: entries with alternate numbers, ceiling, sticky alternate with its group, candidate order, counts. -/
  | planRead (entries : List (PlanEntry × Option Nat)) (ceiling : Option Nat) (sticky : Option (Nat × Nat))
      (order : List Nat) (prefixEntries seizedCalls : Nat)
  /-- R75, UNROUTABLE. -/
  | setupUnroutable (selected : Option (List Nat × Nat))
  /-- R85. -/
  | setupDone (handle serial plan : Nat) (seizure : Seizure) (trace : List (Nat × Verdict))
  /-- R86, NO_ROUTE. -/
  | setupNoRoute (plan : Nat) (reason : Verdict) (trace : List (Nat × Verdict))
  /-- R89, ALL_ROUTES_TRIED. -/
  | retryAllTried (handle serial released : Nat)
  /-- R90, success. -/
  | retryDone (handle serial released : Nat) (seizure : Seizure) (trace : List (Nat × Verdict))
  /-- R90, failure: NO_ROUTE. -/
  | retryNoRoute (handle serial released : Nat) (reason : Verdict) (trace : List (Nat × Verdict))
  /-- R65: the serial, and for a rated call the factor and the charge made at answer. -/
  | answered (serial : Nat) (rated : Option (Nat × Nat))
  /-- R66: the serial, whether the call was ANSWERED, the records produced, the FINAL record's charge. -/
  | released (serial : Nat) (wasAnswered : Bool) (records : Nat) (finalCharge : Option Nat)
  /-- R70. -/
  | callRead (handle : Nat) (call : Call)
  /-- R105. -/
  | groupReport (group : Nat) (level : Level) (history : History) (overflowCount : Nat) (current previous : Stats)
      (samplesInInterval statsInterval : Nat) (hold : HoldState)
  /-- R106: the values in force, whether each was clamped, next sample. -/
  | monitorSet (sampleInterval statsInterval : Nat) (sampleClamped statsClamped : Bool) (nextSample : Option Nat)
  /-- R107. -/
  | holdTaken (hold : HoldState) (effective : Nat)
  /-- R109: RESUMED (from HELD) or CANCELLED. -/
  | resumed (fromHeld : Bool) (nextSample : Nat)
  /-- R110. -/
  | monitorRead (monitor : Monitor) (clear busy congested : Nat)
  /-- R118. -/
  | guardSet (settingBefore : GuardSetting) (stateBefore : GuardState) (setting : GuardSetting)
      (state : GuardState) (clearCount : Nat)
  /-- R119. -/
  | guardParameters (gGroups qGuard depth : Nat) (depthClamped : Bool)
  /-- R120. -/
  | guardRead (guard : Guard) (hold : HoldState)
  /-- R126: the clock before and after, device seconds, slot, band, tariffs activated. -/
  | clockSet (before after : Instant) (seconds slot band activated : Nat)
  /-- R127. -/
  | clockRead (seconds : Nat) (clock : Instant) (slot band staged : Nat) (earliest : Option Instant)
  /-- R129, write. -/
  | bandMapWritten (changed band : Nat)
  /-- R129, read. -/
  | bandMapRead (bands : List Nat) (slot band : Nat)
  /-- R131. -/
  | tariffWritten (disposition : TariffDisposition) (staged : Option Instant) (groups ratings : Nat)
  /-- R133. -/
  | tariffCancelled (effective : Instant)
  /-- R134. -/
  | tariffDeleted (stagedDiscarded : Bool)
  /-- R135. -/
  | tariffRead (tariff : Tariff) (groups ratings band rate : Nat)
  /-- R153: DEFINED or CHANGED, cap reached before and after, the accumulator. -/
  | carrierWritten (changed : Bool) (capBefore capAfter : Bool) (accumulator : Nat)
  /-- R154. -/
  | carrierDeleted (account : Account) (snapshot : Snapshot)
  /-- R165. -/
  | carrierReport (admin : CarrierAdmin) (cap : Nat) (capReached cappedNotice : Bool) (openCalls : Nat)
      (account : Account) (period : Nat)
  /-- R158. -/
  | periodLength (length : Nat) (clamped : Bool) (nextBoundary : Nat)
  /-- R161. -/
  | periodClosing (closed number snapshotsLost pendingCalls : Nat)
  /-- R166: the sweep's next handle is present while a sweep is in flight. -/
  | periodReport (number : Nat) (closed : Option Nat) (length : Nat) (sweep : Option Nat) (deferred : Bool)
      (snapshots : List (Nat × Snapshot))
  /-- R176. -/
  | fetched (records : List Record) (count : Nat)
  /-- R175. -/
  | thresholds (ae af : Nat) (aeClamped afClamped : Bool) (count : Nat) (almostEmpty almostFull : Bool)
  /-- R178. -/
  | drainMode (before after : DrainMode) (count : Nat) (inTransmission : Bool)
  /-- R180. -/
  | queueRead (count : Nat) (mode : DrainMode) (ae af : Nat) (almostEmpty almostFull : Bool)
      (inTransmission : Option (Nat × Nat)) (head : Option Record) (dropped lost : Nat)
      (lastLost : Option LostRecord)
  /-- LEVEL notice (R101). -/
  | noticeLevel (group : Nat) (old new : Level)
  /-- GUARD notice (R117): the measures for causes CONDITION and CLEARED. -/
  | noticeGuard (old new : GuardState) (setting : GuardSetting) (cause : GuardCause)
      (measures : Option (Nat × Nat)) (seconds : Nat)
  /-- CAPPED notice (R155). -/
  | noticeCapped (carrier cap accumulator : Nat) (cause : CapCause) (seconds : Nat)
  /-- TARIFF notice (R132). -/
  | noticeTariff (tariff : Nat) (effective : Instant) (cause : TariffCause) (clock : Instant) (seconds : Nat)
      (groups ratings : Nat)
  /-- QUEUE notice (R174). -/
  | noticeQueue (condition : QueueCondition) (count threshold : Nat) (cause : QueueCause) (mode : DrainMode)
  /-- PERIOD notice (R164). -/
  | noticePeriod (closed number : Nat) (cause : PeriodCause) (bySweep byTouch snapshotsLost seconds : Nat)
      (clock : Instant)
  /-- DRAIN DONE notice (R11). -/
  | noticeDrainDone (span : Nat) (originTag : Tag) (merged : Nat) (cause : DrainCause)
  /-- CALL REROUTED notice (R93). -/
  | noticeRerouted (handle serial : Nat) (seizure : Seizure)
  /-- CALL LOST notice (R93): cause NO_ROUTE with the reason of the failed reroute, or FORCED with none. -/
  | noticeLost (handle serial : Nat) (noRouteReason : Option Verdict)
  /-- RECORD notice (R177): the record and the count less 1. -/
  | noticeRecord (record : Record) (count : Nat)
deriving DecidableEq, Repr, Inhabited

/-- A message of the part: its code (type byte bits 5 to 0; bit 7 is 1 from the TS-8), its tag (R183) and its
contents. -/
structure Message where
  code : Nat
  tag : Tag
  body : Body
deriving DecidableEq, Repr, Inhabited

/-- A complete request in the request queue, or one being assembled (R184): its type byte with bit 6 clear, its
tag, the payload bytes kept (at most 4,096), and whether bytes beyond them were not kept. -/
structure Request where
  type : Byte
  tag : Tag
  payload : List Byte
  overlong : Bool
deriving DecidableEq, Repr, Inhabited

/-- The request whose whole payload is `payload` (R184: bytes beyond 4,096 are not kept). -/
def Request.ofPayload (type : Byte) (tag : Tag) (payload : List Byte) : Request :=
  { type := type, tag := tag, payload := payload.take 4096, overlong := decide (4096 < payload.length) }

/-- The Link Controller's state (R184 to R188, R191). -/
structure Link where
  requests : List Request
  sendList : List Message
  transmitter : Option Message
  assembly : Option Request
  received : List Byte
  lineBroken : Bool
  /-- The milliseconds, 0 to 19, for which the line has been at space with RESET_N high: the count of R191, which
  R193 begins at the pin's return. -/
  spaceMs : Nat
  flags : BitVec 14
  enables : BitVec 7
  noticeCounter : Tag
deriving DecidableEq, Repr, Inhabited

end Sys2Proof.Machine
end

