-- ==== Sys2Proof/Machine/Operands.lean ====
section
/-! DEFINITION. The operands of every request, read from its payload by the encoding of R194. A payload of the
wrong length gives BAD_LENGTH, then an operand out of its range gives BAD_VALUE; the checks on the objects named
belong to the meanings. -/

namespace Sys2Proof.Machine

/-! ### Reading fields -/

/-- The number in big-endian bytes (R194). -/
def bytesToNat (bs : List Byte) : Nat := bs.foldl (fun n b => n * 256 + b.toNat) 0

/-- Reads a number of `n` bytes. -/
def readNum (n : Nat) (bs : List Byte) : Option (Nat × List Byte) :=
  if bs.length < n then none else some (bytesToNat (bs.take n), bs.drop n)

/-- Reads an optional number of `n` bytes after its presence byte; any other presence byte is a wrong length. -/
def readOpt (n : Nat) (bs : List Byte) : Option (Option Nat × List Byte) :=
  match bs with
  | [] => none
  | p :: rest =>
    if p = 0x00 then some (none, rest)
    else if p = 0x01 then (readNum n rest).map fun e => (some e.1, e.2)
    else none

/-- Reads `count` numbers of `n` bytes each. -/
def readNums (n : Nat) : Nat → List Byte → Option (List Nat × List Byte)
  | 0, bs => some ([], bs)
  | count + 1, bs =>
    match readNum n bs with
    | none => none
    | some (v, rest) => (readNums n count rest).map fun e => (v :: e.1, e.2)

/-- Reads a list of numbers of `n` bytes each after its count of `c` bytes. -/
def readList (c n : Nat) (bs : List Byte) : Option (List Nat × List Byte) :=
  match readNum c bs with
  | none => none
  | some (count, rest) => readNums n count rest

/-- A whole payload: what a reader gives when nothing is left; BAD_LENGTH otherwise. -/
def whole {α : Type} (r : Option (α × List Byte)) : Except Result α :=
  match r with
  | some (v, []) => .ok v
  | _ => .error .badLength

/-- BAD_VALUE unless a check holds. -/
def valid (b : Bool) : Except Result Unit := if b then .ok () else .error .badValue

/-- BAD_VALUE for a code outside its list. -/
def named {α : Type} (v : Option α) : Except Result α :=
  match v with
  | some a => .ok a
  | none => .error .badValue

/-- A request without operands: a payload that is not empty is BAD_LENGTH. -/
def parseEmpty (p : List Byte) : Except Result Unit := if p = [] then .ok () else .error .badLength

/-- A field of two states (R194). -/
def boolOf : Nat → Option Bool
  | 0 => some false
  | 1 => some true
  | _ => none

/-! ### Named values, coded from 0x01 in the order their rules list them -/

def kindOf : Nat → Option GroupKind
  | 1 => some .out
  | 2 => some .bothway
  | 3 => some .inward
  | _ => none

def groupAdminOf : Nat → Option GroupAdmin
  | 1 => some .inService
  | 2 => some .outOfService
  | _ => none

def huntModeOf : Nat → Option HuntMode
  | 1 => some .lowFirst
  | 2 => some .highFirst
  | 3 => some .rotary
  | 4 => some .spread
  | _ => none

def glareControlOf : Nat → Option GlareControl
  | 1 => some .all
  | 2 => some .noCircuit
  | 3 => some .odd
  | 4 => some .even
  | _ => none

def roleOf : Nat → Option Role
  | 1 => some .first
  | 2 => some .alternate
  | _ => none

def classOf : Nat → Option CallClass
  | 1 => some .ordinary
  | 2 => some .priority
  | _ => none

def retryCauseOf : Nat → Option RetryCause
  | 1 => some .downstream
  | 2 => some .fault
  | _ => none

/-- The causes CALL RELEASE may give; FORCED and RESTART are the part's own (R66). -/
def releaseCauseOf : Nat → Option CloseCause
  | 1 => some .normal
  | 2 => some .abnormal
  | _ => none

def farViewOf : Nat → Option FarView
  | 1 => some .idle
  | 2 => some .busy
  | 3 => some .blocked
  | _ => none

def guardSettingOf : Nat → Option GuardSetting
  | 1 => some .auto
  | 2 => some .forceOn
  | 3 => some .forceOff
  | _ => none

def carrierAdminOf : Nat → Option CarrierAdmin
  | 1 => some .active
  | 2 => some .suspended
  | _ => none

def drainModeOf : Nat → Option DrainMode
  | 1 => some .batch
  | 2 => some .stream
  | _ => none

def blockModeOf : Nat → Option BlockMode
  | 1 => some .plain
  | 2 => some .drain
  | 3 => some .forced
  | _ => none

/-- The codes of a whole list, or nothing when one is outside its list. -/
def codes {α : Type} (f : Nat → Option α) : List Nat → Option (List α)
  | [] => some []
  | n :: rest =>
    match f n, codes f rest with
    | some a, some as => some (a :: as)
    | _, _ => none

/-! ### Chapter 1 -/

/-- A circuit or a span named by a request (R5). -/
inductive Scope where
  | circuit (n : Nat)
  | span (n : Nat)
deriving DecidableEq, Repr

/-- The circuits in scope, in ascending order (R5). -/
def Scope.circuits : Scope → List Nat
  | .circuit n => [n]
  | .span sp => (List.range 32).map fun p => sp * 32 + p

/-- The span of a scope. -/
def Scope.spanIndex : Scope → Nat
  | .circuit n => n / 32
  | .span sp => sp

/-- A scope byte and a target number, judged for range (R5). -/
def scopeOf (scope target : Nat) : Except Result Scope :=
  if scope = 1 then
    if target ≤ 8191 then .ok (.circuit target) else .error .badValue
  else if scope = 2 then
    if target ≤ 255 then .ok (.span target) else .error .badValue
  else .error .badValue

/-- CIRCUIT UNBLOCK, REMOTE BLOCK, REMOTE UNBLOCK: scope (1 byte) and target (2 bytes; log 15). -/
def parseScope (p : List Byte) : Except Result Scope := do
  let (scope, target) ← whole do
    let (scope, bs) ← readNum 1 p
    let (target, bs) ← readNum 2 bs
    some ((scope, target), bs)
  scopeOf scope target

/-- CIRCUIT BLOCK (R5). -/
def parseBlock (p : List Byte) : Except Result (Scope × BlockMode) := do
  let (scope, target, mode) ← whole do
    let (scope, bs) ← readNum 1 p
    let (target, bs) ← readNum 2 bs
    let (mode, bs) ← readNum 1 bs
    some ((scope, target, mode), bs)
  let sc ← scopeOf scope target
  let m ← named (blockModeOf mode)
  .ok (sc, m)

/-- INCOMING SEIZE, INCOMING RELEASE (R15, R18). -/
def parseCircuit (p : List Byte) : Except Result Nat := do
  let n ← whole (readNum 2 p)
  valid (decide (n ≤ 8191))
  .ok n

/-- CIRCUIT AUDIT: the span, the first position and one far view for each audited position (R19). -/
def parseAudit (p : List Byte) : Except Result (Nat × Nat × List FarView) := do
  let (span, first, count, views) ← whole do
    let (span, bs) ← readNum 1 p
    let (first, bs) ← readNum 1 bs
    let (count, bs) ← readNum 1 bs
    let (views, bs) ← readNums 1 count bs
    some ((span, first, count, views), bs)
  valid (decide (span ≤ 255 ∧ first ≤ 31 ∧ 1 ≤ count ∧ count ≤ 32))
  valid (decide (first + count ≤ 32))
  let vs ← named (codes farViewOf views)
  .ok (span, first, vs)

/-- A one-byte index: SPAN REPORT, GROUP DELETE, GROUP READ, TARIFF CANCEL, TARIFF DELETE, TARIFF READ, and with
its own bound the carrier requests (R24, R30, R31, R133 to R135, R154, R165). -/
def parseIndex (bound : Nat) (p : List Byte) : Except Result Nat := do
  let n ← whole (readNum 1 p)
  valid (decide (n ≤ bound))
  .ok n

/-! ### Chapter 2 -/

/-- The definition fields as they stand in a payload, in the order of R25. -/
structure RawDefn where
  kind : Nat
  admin : Nat
  carrier : Nat
  tariff : Option Nat
  huntMode : Nat
  glareControl : Nat
  reservation : Nat
  guardReservation : Nat
  tBusy : Nat
  tCong : Nat
  oCong : Nat
  levelNotice : Nat
deriving DecidableEq, Repr

/-- Reads the definition fields (R25, R194). -/
def readDefn (bs : List Byte) : Option (RawDefn × List Byte) := do
  let (kind, bs) ← readNum 1 bs
  let (admin, bs) ← readNum 1 bs
  let (carrier, bs) ← readNum 1 bs
  let (tariff, bs) ← readOpt 1 bs
  let (huntMode, bs) ← readNum 1 bs
  let (glareControl, bs) ← readNum 1 bs
  let (reservation, bs) ← readNum 2 bs
  let (guardReservation, bs) ← readNum 2 bs
  let (tBusy, bs) ← readNum 2 bs
  let (tCong, bs) ← readNum 2 bs
  let (oCong, bs) ← readNum 2 bs
  let (levelNotice, bs) ← readNum 1 bs
  some ({ kind := kind, admin := admin, carrier := carrier, tariff := tariff, huntMode := huntMode,
          glareControl := glareControl, reservation := reservation, guardReservation := guardReservation,
          tBusy := tBusy, tCong := tCong, oCong := oCong, levelNotice := levelNotice }, bs)

/-- The ranges of the definition fields (R27): enumerated fields, K to T_cong, O_cong, carrier, tariff, and no
tariff with carrier 0. -/
def RawDefn.check (r : RawDefn) : Except Result GroupDefn := do
  let kind ← named (kindOf r.kind)
  let admin ← named (groupAdminOf r.admin)
  let huntMode ← named (huntModeOf r.huntMode)
  let glareControl ← named (glareControlOf r.glareControl)
  let levelNotice ← named (boolOf r.levelNotice)
  valid (decide (r.reservation ≤ 512 ∧ r.guardReservation ≤ 512 ∧ r.tBusy ≤ 512 ∧ r.tCong ≤ 512))
  valid (decide (1 ≤ r.oCong ∧ r.oCong ≤ 65535 ∧ r.carrier ≤ 63))
  valid (match r.tariff with
    | some t => decide (t ≤ 255 ∧ r.carrier ≠ 0)
    | none => true)
  .ok { kind := kind, admin := admin, carrier := r.carrier, tariff := r.tariff, huntMode := huntMode,
        glareControl := glareControl, reservation := r.reservation, guardReservation := r.guardReservation,
        tBusy := r.tBusy, tCong := r.tCong, oCong := r.oCong, levelNotice := levelNotice }

/-- A member list: 1 to 512 circuits, none above 8,191, none twice (R27). -/
def membersValid (m : List Nat) : Bool :=
  decide (1 ≤ m.length ∧ m.length ≤ 512) && m.all (fun n => decide (n ≤ 8191)) && decide m.Nodup

/-- GROUP DEFINE (R27). -/
def parseGroupDefine (p : List Byte) : Except Result (Nat × GroupDefn × List Nat) := do
  let (g, raw, members) ← whole do
    let (g, bs) ← readNum 1 p
    let (raw, bs) ← readDefn bs
    let (members, bs) ← readList 2 2 bs
    some ((g, raw, members), bs)
  valid (decide (g ≤ 255))
  let defn ← raw.check
  valid (membersValid members)
  .ok (g, defn, members)

/-- GROUP CHANGE (R28). -/
def parseGroupChange (p : List Byte) : Except Result (Nat × GroupDefn) := do
  let (g, raw) ← whole do
    let (g, bs) ← readNum 1 p
    let (raw, bs) ← readDefn bs
    some ((g, raw), bs)
  valid (decide (g ≤ 255))
  let defn ← raw.check
  .ok (g, defn)

/-- GROUP MEMBERS (R29). -/
def parseGroupMembers (p : List Byte) : Except Result (Nat × List Nat) := do
  let (g, members) ← whole do
    let (g, bs) ← readNum 1 p
    let (members, bs) ← readList 2 2 bs
    some ((g, members), bs)
  valid (decide (g ≤ 255))
  valid (membersValid members)
  .ok (g, members)

/-! ### Chapter 3 -/

/-- A digit string or a destination: 1 to 16 digits, each 0 to 9 (R43, R44). -/
def digitsValid (d : List Nat) : Bool :=
  decide (1 ≤ d.length ∧ d.length ≤ 16) && d.all fun x => decide (x ≤ 9)

/-- PREFIX WRITE (R45). -/
def parsePrefixWrite (p : List Byte) : Except Result (List Nat × Nat) := do
  let (digits, plan) ← whole do
    let (digits, bs) ← readList 1 1 p
    let (plan, bs) ← readNum 2 bs
    some ((digits, plan), bs)
  valid (digitsValid digits && decide (plan ≤ 1023))
  .ok (digits, plan)

/-- PREFIX DELETE, PREFIX LOOKUP (R46, R47). -/
def parseDigits (p : List Byte) : Except Result (List Nat) := do
  let digits ← whole (readList 1 1 p)
  valid (digitsValid digits)
  .ok digits

/-- Reads `count` plan entries of a group and a role. -/
def readEntries : Nat → List Byte → Option (List (Nat × Nat) × List Byte)
  | 0, bs => some ([], bs)
  | count + 1, bs => do
    let (g, bs) ← readNum 1 bs
    let (role, bs) ← readNum 1 bs
    let (rest, bs) ← readEntries count bs
    some ((g, role) :: rest, bs)

/-- A plan entry with a named role. -/
def entryOf (e : Nat × Nat) : Option PlanEntry :=
  (roleOf e.2).map fun role => { group := e.1, role := role }

/-- The entries of a plan, each with a named role. -/
def entriesOf : List (Nat × Nat) → Option (List PlanEntry)
  | [] => some []
  | e :: rest =>
    match entryOf e, entriesOf rest with
    | some a, some as => some (a :: as)
    | _, _ => none

/-- PLAN WRITE (R49). -/
def parsePlanWrite (p : List Byte) : Except Result (Nat × List PlanEntry × Option Nat) := do
  let (plan, raw, ceiling) ← whole do
    let (plan, bs) ← readNum 2 p
    let (count, bs) ← readNum 1 bs
    let (raw, bs) ← readEntries count bs
    let (ceiling, bs) ← readOpt 4 bs
    some ((plan, raw, ceiling), bs)
  valid (decide (plan ≤ 1023 ∧ 1 ≤ raw.length ∧ raw.length ≤ 8))
  let entries ← named (entriesOf raw)
  valid (entries.all (fun e => decide (e.group ≤ 255)) && decide (entries.map PlanEntry.group).Nodup)
  .ok (plan, entries, ceiling)

/-- PLAN DELETE, PLAN READ (R50, R51). -/
def parsePlan (p : List Byte) : Except Result Nat := do
  let n ← whole (readNum 2 p)
  valid (decide (n ≤ 1023))
  .ok n

/-! ### Chapters 4 and 5 -/

/-- The operands of CALL SETUP (R74). -/
structure SetupOperands where
  destination : List Nat
  cls : CallClass
  incoming : Option Nat
  ceiling : Option Nat
deriving DecidableEq, Repr

/-- CALL SETUP (R74). -/
def parseSetup (p : List Byte) : Except Result SetupOperands := do
  let (dest, cls, incoming, ceiling) ← whole do
    let (dest, bs) ← readList 1 1 p
    let (cls, bs) ← readNum 1 bs
    let (incoming, bs) ← readOpt 1 bs
    let (ceiling, bs) ← readOpt 4 bs
    some ((dest, cls, incoming, ceiling), bs)
  valid (digitsValid dest)
  let c ← named (classOf cls)
  valid (incoming.all fun g => decide (g ≤ 255))
  .ok { destination := dest, cls := c, incoming := incoming, ceiling := ceiling }

/-- CALL RETRY (R87). -/
def parseRetry (p : List Byte) : Except Result (Nat × RetryCause × Option Nat) := do
  let (h, cause, serial) ← whole do
    let (h, bs) ← readNum 2 p
    let (cause, bs) ← readNum 1 bs
    let (serial, bs) ← readOpt 4 bs
    some ((h, cause, serial), bs)
  valid (decide (h ≤ 8191))
  let c ← named (retryCauseOf cause)
  .ok (h, c, serial)

/-- CALL ANSWER (R65). -/
def parseAnswer (p : List Byte) : Except Result (Nat × Option Nat) := do
  let (h, serial) ← whole do
    let (h, bs) ← readNum 2 p
    let (serial, bs) ← readOpt 4 bs
    some ((h, serial), bs)
  valid (decide (h ≤ 8191))
  .ok (h, serial)

/-- CALL RELEASE (R66). -/
def parseRelease (p : List Byte) : Except Result (Nat × CloseCause × Option Nat) := do
  let (h, cause, serial) ← whole do
    let (h, bs) ← readNum 2 p
    let (cause, bs) ← readNum 1 bs
    let (serial, bs) ← readOpt 4 bs
    some ((h, cause, serial), bs)
  valid (decide (h ≤ 8191))
  let c ← named (releaseCauseOf cause)
  .ok (h, c, serial)

/-- CALL READ (R70). -/
def parseHandle (p : List Byte) : Except Result Nat := do
  let h ← whole (readNum 2 p)
  valid (decide (h ≤ 8191))
  .ok h

/-! ### Chapters 6 and 7 -/

/-- GROUP REPORT: the group and whether CLEAR_CURRENT is asked (R105). -/
def parseGroupReport (p : List Byte) : Except Result (Nat × Bool) := do
  let (g, option) ← whole do
    let (g, bs) ← readNum 1 p
    let (option, bs) ← readNum 1 bs
    some ((g, option), bs)
  valid (decide (g ≤ 255 ∧ (option = 1 ∨ option = 2)))
  .ok (g, option == 2)

/-- Two numbers 0 to 65,535: MONITOR SET, QUEUE THRESHOLDS (R106, R175). -/
def parseTwo (p : List Byte) : Except Result (Nat × Nat) :=
  whole do
    let (a, bs) ← readNum 2 p
    let (b, bs) ← readNum 2 bs
    some ((a, b), bs)

/-- One number 0 to 65,535: PERIOD LENGTH, RECORD FETCH (R158, R176). -/
def parseOne (p : List Byte) : Except Result Nat := whole (readNum 2 p)

/-- GUARD SET (R118). -/
def parseGuardSet (p : List Byte) : Except Result GuardSetting := do
  let n ← whole (readNum 1 p)
  named (guardSettingOf n)

/-- GUARD PARAMETERS: the thresholds are refused out of range, the depth is not (R119). -/
def parseGuardParameters (p : List Byte) : Except Result (Nat × Nat × Nat) := do
  let (g, q, d) ← whole do
    let (g, bs) ← readNum 2 p
    let (q, bs) ← readNum 2 bs
    let (d, bs) ← readNum 2 bs
    some ((g, q, d), bs)
  valid (decide (g ≤ 256 ∧ q ≤ 64))
  .ok (g, q, d)

/-! ### Chapter 8 -/

/-- CLOCK SET: time of day, then day number (R126). -/
def parseClockSet (p : List Byte) : Except Result Instant := do
  let (time, day) ← whole do
    let (time, bs) ← readNum 4 p
    let (day, bs) ← readNum 2 bs
    some ((time, day), bs)
  valid (decide (time ≤ 86399 ∧ day ≤ 65535))
  .ok { day := day, time := time }

/-- BAND MAP WRITE: exactly 48 bands (R129). -/
def parseBandMap (p : List Byte) : Except Result (List Nat) := do
  let bands ← whole (readNums 1 48 p)
  valid (bands.all fun b => decide (b ≤ 3))
  .ok bands

/-- Reads a version whose numbers take 4 bytes each (R131). -/
def readVersion (bs : List Byte) : Option (Version × List Byte) := do
  let (setup, bs) ← readNum 4 bs
  let (initial, bs) ← readNum 4 bs
  let (incr, bs) ← readNum 4 bs
  let (rate0, bs) ← readNum 4 bs
  let (rate1, bs) ← readNum 4 bs
  let (rate2, bs) ← readNum 4 bs
  let (rate3, bs) ← readNum 4 bs
  let (factorClear, bs) ← readNum 4 bs
  let (factorBusy, bs) ← readNum 4 bs
  let (factorCongested, bs) ← readNum 4 bs
  some ({ setup := setup, initial := initial, incr := incr, rate0 := rate0, rate1 := rate1, rate2 := rate2,
          rate3 := rate3, factorClear := factorClear, factorBusy := factorBusy,
          factorCongested := factorCongested }, bs)

/-- Reads an optional effective instant: day, then time of day, 4 bytes each (R130, R131). -/
def readInstant (bs : List Byte) : Option (Option Instant × List Byte) :=
  match bs with
  | [] => none
  | p :: rest =>
    if p = 0x00 then some (none, rest)
    else if p = 0x01 then do
      let (day, bs) ← readNum 4 rest
      let (time, bs) ← readNum 4 bs
      some (some { day := day, time := time }, bs)
    else none

/-- The ranges of a version (R130, R131). -/
def Version.inRange (v : Version) : Bool :=
  decide (v.setup ≤ 65535 ∧ 1 ≤ v.initial ∧ v.initial ≤ 3600 ∧ 1 ≤ v.incr ∧ v.incr ≤ 600) &&
  decide (v.rate0 ≤ 999999 ∧ v.rate1 ≤ 999999 ∧ v.rate2 ≤ 999999 ∧ v.rate3 ≤ 999999) &&
  decide (v.factorClear ≤ 255 ∧ v.factorBusy ≤ 255 ∧ v.factorCongested ≤ 255)

/-- TARIFF WRITE (R131). -/
def parseTariffWrite (p : List Byte) : Except Result (Nat × Version × Option Instant) := do
  let (t, v, effective) ← whole do
    let (t, bs) ← readNum 4 p
    let (v, bs) ← readVersion bs
    let (effective, bs) ← readInstant bs
    some ((t, v, effective), bs)
  valid (decide (t ≤ 255))
  valid v.inRange
  valid (effective.all fun i => decide (i.day ≤ 65535 ∧ i.time ≤ 86399))
  .ok (t, v, effective)

/-! ### Chapters 10 to 12 -/

/-- The operands of CARRIER WRITE (R153). -/
structure CarrierOperands where
  carrier : Nat
  admin : CarrierAdmin
  cap : Nat
  cappedNotice : Bool
deriving DecidableEq, Repr

/-- CARRIER WRITE: the cap is an unsigned 64-bit number (R153). -/
def parseCarrierWrite (p : List Byte) : Except Result CarrierOperands := do
  let (c, admin, cap, enable) ← whole do
    let (c, bs) ← readNum 1 p
    let (admin, bs) ← readNum 1 bs
    let (cap, bs) ← readNum 8 bs
    let (enable, bs) ← readNum 1 bs
    some ((c, admin, cap, enable), bs)
  valid (decide (c ≤ 63 ∧ cap ≤ max48))
  let a ← named (carrierAdminOf admin)
  let e ← named (boolOf enable)
  .ok { carrier := c, admin := a, cap := cap, cappedNotice := e }

/-- DRAIN MODE (R178). -/
def parseDrainMode (p : List Byte) : Except Result DrainMode := do
  let n ← whole (readNum 1 p)
  named (drainModeOf n)

/-- NOTICE ENABLE: one byte, bit 7 clear (R188). -/
def parseNoticeEnable (p : List Byte) : Except Result (BitVec 7) :=
  match p with
  | [b] => if b.getLsbD 7 then .error .badValue else .ok (b.setWidth 7)
  | _ => .error .badLength

end Sys2Proof.Machine
end

