-- ==== Sys2Proof/Config.lean ====
section
/-! DEFINITION. The free values: constants without a body. -/

namespace Sys2Proof.Config

open Sys2Proof.Machine

/-- R184 gives a message of more than 4,096 bytes BAD_LENGTH and a message of unknown code UNKNOWN_REQUEST, and
does not say which of the two a message gets that is both. Free (log 8). -/
opaque overlongUnknownIsBadLength : Bool

/-- What a read of an undefined group gives where the rules say the group is always defined (log 9). -/
opaque absentGroup : Group

/-- What a read of an undefined plan gives where the rules say the plan is always defined (log 9). -/
opaque absentPlan : Plan

/-- What a read of an undefined carrier gives where the rules say the carrier is always defined (log 9). -/
opaque absentCarrier : Carrier

/-- What a read of an undefined tariff gives where the rules say the tariff is always defined (log 9). -/
opaque absentVersion : Version

/-- The tariff index of a foreign group that names none, which the rules exclude (log 9). -/
opaque absentTariff : Nat

end Sys2Proof.Config
end

