-- ==== Sys2Proof/Machine/State.lean ====
section
/-! DEFINITION. The state of the part, its outcomes that stop, and its state after power-on. -/

namespace Sys2Proof.Machine

/-- What stops the machine. Nothing does: the spec gives the part no event that stops it, so no meaning raises a
fault (INVENTORY.md, Faults). Safe: no constructor hides behaviour. -/
inductive Fault
deriving DecidableEq, Repr

/-- What has no meaning. -/
inductive Refusal where
  /-- Raised by a refused arm of `exec` alone: an instruction without a meaning. Safe. -/
  | notModelled (mnemonic : String)
  /-- Raised by a meaning given an ill-formed term, one whose operands spell a command of ANOTHER row (log 18):
  the command is run under its own row. Safe. -/
  | otherRow
deriving DecidableEq, Repr

/-- The state of the part (INVENTORY.md, State). -/
structure State where
  resetLow : Bool
  rateStraps : BitVec 2
  circuits : Table Circuit
  spans : Table Span
  groups : Table Group
  prefixes : List PrefixEntry
  plans : Table Plan
  calls : Table Call
  serialCounter : Nat
  monitor : Monitor
  guard : Guard
  time : TimeBase
  bandMap : List Nat
  tariffs : Table Tariff
  carriers : Table Carrier
  periods : Periods
  records : RecordQueue
  link : Link
  pending : List Instr
deriving DecidableEq, Repr, Inhabited

/-- Carrier 0, the home network, as power-on leaves it (R151, R169); its notice enable: log 7. -/
def Carrier.home : Carrier :=
  { admin := .active, cap := 0, capReached := false, cappedNotice := false, openCalls := 0,
    account := Account.zero, snapshot := Snapshot.fresh }

def Monitor.powerOn : Monitor :=
  { sampleInterval := 5, statsInterval := 180, samplesInInterval := 0, hold := .running, nextSample := some 5 }

def Guard.powerOn : Guard :=
  { setting := .auto, state := .normal, clearCount := 0, gGroups := 0, qGuard := 48, depth := 2, lastEval := none }

def Periods.powerOn : Periods :=
  { number := 0, length := 1440, closed := none, sweep := none, deferred := false, boundaryWaiting := false }

def RecordQueue.powerOn : RecordQueue :=
  { queue := [], mode := .batch, ae := 16, af := 64, almostEmpty := true, almostFull := false,
    dropped := 0, lost := 0, lastLost := none }

def Link.powerOn : Link :=
  { requests := [], sendList := [], transmitter := none, assembly := none, received := [],
    lineBroken := false, spaceMs := 0, flags := 0, enables := 0, noticeCounter := 0 }

/-- The part after power-on, running (R3, R4, R26, R58, R73, R112, R122, R123, R128, R130, R150, R169, R182,
R192); what no rule gives: log 7. -/
def State.reset : State :=
  { resetLow := false
    rateStraps := 0
    circuits := []
    spans := []
    groups := []
    prefixes := []
    plans := []
    calls := []
    serialCounter := 0
    monitor := Monitor.powerOn
    guard := Guard.powerOn
    time := { seconds := 0, timeOfDay := 0, day := 0 }
    bandMap := List.replicate 48 0
    tariffs := []
    carriers := [(0, Carrier.home)]
    periods := Periods.powerOn
    records := RecordQueue.powerOn
    link := Link.powerOn
    pending := [] }

end Sys2Proof.Machine
end

