-- ==== Sys2Proof/Machine/Flags.lean ====
section
/-! DEFINITION. The event flags (R187), the notice classes (R188), and the raising of notices (R186, R188). -/

namespace Sys2Proof.Machine

/-- The fourteen event flags, in the order of R187. -/
inductive Flag where
  | level
  | guard
  | capped
  | tariff
  | queueAlmostFull
  | queueAlmostEmpty
  | overflow
  | period
  | snapshotLost
  | drain
  | audit
  | frameError
  | requestOverload
  | linkRestart
deriving DecidableEq, Repr

/-- The bit of a flag in the STATUS READ reply (section 12.6). -/
def Flag.bit : Flag → Nat
  | .level => 0
  | .guard => 1
  | .capped => 2
  | .tariff => 3
  | .queueAlmostFull => 4
  | .queueAlmostEmpty => 5
  | .overflow => 6
  | .period => 7
  | .snapshotLost => 8
  | .drain => 9
  | .audit => 10
  | .frameError => 11
  | .requestOverload => 12
  | .linkRestart => 13

/-- The seven notice classes, in the order of R188. -/
inductive NoticeClass where
  | level
  | guard
  | capped
  | tariff
  | queue
  | period
  | drain
deriving DecidableEq, Repr

/-- The bit of a class in NOTICE ENABLE (R188). -/
def NoticeClass.bit : NoticeClass → Nat
  | .level => 0
  | .guard => 1
  | .capped => 2
  | .tariff => 3
  | .queue => 4
  | .period => 5
  | .drain => 6

/-- Message codes of the notices (section 12.6). -/
def codeLevel : Nat := 0x36
def codeGuard : Nat := 0x37
def codeCapped : Nat := 0x38
def codeTariff : Nat := 0x39
def codeQueue : Nat := 0x3A
def codePeriod : Nat := 0x3B
def codeDrainDone : Nat := 0x3C
def codeCallRerouted : Nat := 0x3D
def codeCallLost : Nat := 0x3E
def codeRecord : Nat := 0x3F

/-- An event flag as it stands. -/
def State.flag (s : State) (f : Flag) : Bool := s.link.flags.getLsbD f.bit

/-- Sets an event flag; a flag already set stays set (R187). -/
def State.setFlag (s : State) (f : Flag) : State :=
  { s with link := { s.link with flags := s.link.flags ||| (1#14 <<< f.bit) } }

/-- A notice class is enabled at device level (R188). -/
def State.enabled (s : State) (c : NoticeClass) : Bool := s.link.enables.getLsbD c.bit

/-- Puts a message at the tail of the send list (R186). -/
def State.send (s : State) (m : Message) : State :=
  { s with link := { s.link with sendList := s.link.sendList ++ [m] } }

/-- Raises a notice: it takes a notice number as its tag and joins the send list (R186, R188). That the number is the
counter's value before it rises is the model's choice (log 23). -/
def State.raise (s : State) (code : Nat) (body : Body) : State :=
  { s with link := { s.link with
      sendList := s.link.sendList ++ [{ code := code, tag := s.link.noticeCounter, body := body }]
      noticeCounter := s.link.noticeCounter + 1 } }

/-- Raises a notice where `on` holds; a notice that is disabled when its event occurs is not raised (R186). -/
def State.raiseIf (s : State) (on : Bool) (code : Nat) (body : Body) : State :=
  if on then s.raise code body else s

end Sys2Proof.Machine
end

