-- ==== Sys2Proof/Machine/Ops.lean ====
section
/-! DEFINITION. The named reads and writes of the records: circuits and spans, groups, calls, carriers, tariffs
and the band map. -/

namespace Sys2Proof.Machine

/-! ### Circuits and spans -/

/-- The record of a circuit (R1). -/
def State.circuit (s : State) (n : Nat) : Circuit :=
  (Table.find s.circuits n).getD Circuit.powerOn

/-- Writes the record of a circuit, in the table's canonical form (log 16). -/
def State.setCircuit (s : State) (n : Nat) (c : Circuit) : State :=
  { s with circuits :=
      if c = Circuit.powerOn then Table.erase s.circuits n else Table.put s.circuits n c }

/-- The record of a span (R4). -/
def State.span (s : State) (n : Nat) : Span :=
  (Table.find s.spans n).getD Span.powerOn

/-- Writes the record of a span, in the table's canonical form (log 16). -/
def State.setSpan (s : State) (n : Nat) (r : Span) : State :=
  { s with spans := if r = Span.powerOn then Table.erase s.spans n else Table.put s.spans n r }

/-- The span of a circuit (00 section 4.4). -/
def spanOf (circuit : Nat) : Nat := circuit / 32

/-- The position of a circuit in its span (00 section 4.4). -/
def positionOf (circuit : Nat) : Nat := circuit % 32

/-- Available (R2): equipped, IDLE, neither block set. -/
def Circuit.available (c : Circuit) : Bool :=
  c.group.isSome && !c.usage.busy && !c.localBlock && !c.remoteBlock

/-- A circuit is available (R2). -/
def State.available (s : State) (n : Nat) : Bool := (s.circuit n).available

/-- The record of a group; an undefined one gives the free value of log 9. -/
def State.group (s : State) (g : Nat) : Group := (Table.find s.groups g).getD Config.absentGroup

/-- A group is defined (R25). -/
def State.groupDefined (s : State) (g : Nat) : Bool := (Table.find s.groups g).isSome

/-- Rewrites the record of a defined group. -/
def State.modifyGroup (s : State) (g : Nat) (f : Group → Group) : State :=
  { s with groups := Table.modify s.groups g f }

/-- Rewrites the current statistics of a group. -/
def State.countStats (s : State) (g : Nat) (f : Stats → Stats) : State :=
  s.modifyGroup g fun grp => { grp with current := f grp.current }

/-- The available count of a group: counted over its members when it is read (R25). -/
def State.availableCount (s : State) (grp : Group) : Nat :=
  (grp.members.filter fun n => s.available n).length

/-- The change of a busy count by one member's change of usage (R2). -/
def busyAfter (count : Nat) (before after : Usage) : Nat :=
  match before.busy, after.busy with
  | false, true => count + 1
  | true, false => count - 1
  | _, _ => count

/-- Changes a circuit's usage, and its group's busy count in the same event (R2). -/
def State.setUsage (s : State) (n : Nat) (u : Usage) : State :=
  let c := s.circuit n
  let written := s.setCircuit n { c with usage := u }
  match c.group with
  | none => written
  | some g => written.modifyGroup g fun grp => { grp with busyCount := busyAfter grp.busyCount c.usage u }

/-- Takes a position out of its span's watch set, without completing the watch (R10). -/
def State.unwatch (s : State) (n : Nat) : State :=
  let sp := s.span (spanOf n)
  match sp.watch with
  | none => s
  | some w =>
    s.setSpan (spanOf n)
      { sp with watch := some { w with positions := w.positions.filter fun p => p != positionOf n } }

/-- Usage becomes IDLE, and the position leaves its watch set (R10). -/
def State.makeIdle (s : State) (n : Nat) : State := (s.setUsage n .idle).unwatch n

/-- Completes the span's watch where it is open and its set is empty: DRAIN flag, DRAIN DONE, closed (R11). -/
def State.completeWatch (s : State) (sp : Nat) (cause : DrainCause) : State :=
  match (s.span sp).watch with
  | none => s
  | some w =>
    if w.positions = [] then
      let flagged := s.setFlag .drain
      let told := flagged.raiseIf (s.enabled .drain) codeDrainDone
        (.noticeDrainDone sp w.originTag w.merged cause)
      told.setSpan sp { s.span sp with watch := none }
    else s

/-- Sets or clears a circuit's local block. -/
def State.setLocalBlock (s : State) (n : Nat) (b : Bool) : State :=
  s.setCircuit n { s.circuit n with localBlock := b }

/-- Sets or clears a circuit's remote block. -/
def State.setRemoteBlock (s : State) (n : Nat) (b : Bool) : State :=
  s.setCircuit n { s.circuit n with remoteBlock := b }

/-! ### Plans -/

/-- The record of a plan; an undefined one gives the free value of log 9. -/
def State.plan (s : State) (p : Nat) : Plan := (Table.find s.plans p).getD Config.absentPlan

/-- A plan is defined (R48). -/
def State.planDefined (s : State) (p : Nat) : Bool := (Table.find s.plans p).isSome

/-- Rewrites the record of a defined plan. -/
def State.modifyPlan (s : State) (p : Nat) (f : Plan → Plan) : State :=
  { s with plans := Table.modify s.plans p f }

/-! ### Calls -/

/-- The call context of a handle; `none` is FREE (R59). -/
def State.call (s : State) (h : Nat) : Option Call := Table.find s.calls h

/-- Rewrites a call context that is not FREE. -/
def State.modifyCall (s : State) (h : Nat) (f : Call → Call) : State :=
  { s with calls := Table.modify s.calls h f }

/-- Writes the rating context of a call. -/
def State.setRating (s : State) (h : Nat) (r : Rating) : State :=
  s.modifyCall h fun c => { c with rating := some r }

/-- The lowest FREE handle at or after `h`, looking at no more than `fuel` handles. -/
def lowestFreeFrom (calls : Table Call) : Nat → Nat → Nat
  | 0, h => h
  | fuel + 1, h => if (Table.find calls h).isNone then h else lowestFreeFrom calls fuel (h + 1)

/-- The lowest handle whose context is FREE (R61). -/
def State.lowestFree (s : State) : Nat := lowestFreeFrom s.calls 8192 0

/-- The calls that satisfy a test, counted. -/
def State.countCalls (s : State) (f : Call → Bool) : Nat := (s.calls.filter fun e => f e.2).length

/-- Calls in state SEIZED on a plan (R49). -/
def State.seizedOnPlan (s : State) (p : Nat) : Nat :=
  s.countCalls fun c => !c.answered && c.plan == p

/-! ### Carriers -/

/-- The record of a carrier; an undefined one gives the free value of log 9. -/
def State.carrier (s : State) (c : Nat) : Carrier := (Table.find s.carriers c).getD Config.absentCarrier

/-- A carrier is defined (R151). -/
def State.carrierDefined (s : State) (c : Nat) : Bool := (Table.find s.carriers c).isSome

/-- Rewrites the record of a defined carrier. -/
def State.modifyCarrier (s : State) (c : Nat) (f : Carrier → Carrier) : State :=
  { s with carriers := Table.modify s.carriers c f }

/-- The open-call count rises by 1 (R63). -/
def State.openCallOn (s : State) (c : Nat) : State :=
  s.modifyCarrier c fun k => { k with openCalls := k.openCalls + 1 }

/-- The open-call count falls by 1 (R67). -/
def State.closeCallOn (s : State) (c : Nat) : State :=
  s.modifyCarrier c fun k => { k with openCalls := k.openCalls - 1 }

/-! ### Clock, bands and tariffs -/

/-- The clock (R123). -/
def State.clock (s : State) : Instant := { day := s.time.day, time := s.time.timeOfDay }

/-- An instant is reached when the clock is equal to it or later, day first (R123). -/
def Instant.reachedBy (i clock : Instant) : Bool :=
  decide (i.day < clock.day) || (i.day == clock.day && decide (i.time ≤ clock.time))

/-- The band slot of a time of day (R128). -/
def slotOf (timeOfDay : Nat) : Nat := timeOfDay / 1800

/-- The slot of the present time (R128). -/
def State.slot (s : State) : Nat := slotOf s.time.timeOfDay

/-- The band lookup (R128). -/
def State.band (s : State) : Nat := s.bandMap.getD s.slot 0

/-- The rate of a band (R130). -/
def Version.rate (v : Version) (band : Nat) : Nat :=
  match band with
  | 0 => v.rate0
  | 1 => v.rate1
  | 2 => v.rate2
  | _ => v.rate3

/-- The factor of a level (R130). -/
def Version.factor (v : Version) : Level → Nat
  | .clear => v.factorClear
  | .busy => v.factorBusy
  | .congested => v.factorCongested

/-- The active version of a tariff, which every reader reads (R130); an undefined one gives the free value of
log 9. -/
def State.activeVersion (s : State) (t : Nat) : Version :=
  match Table.find s.tariffs t with
  | some e => e.active
  | none => Config.absentVersion

/-- The tariff index of a foreign group (R25). -/
def Group.tariffIndex (grp : Group) : Nat := grp.defn.tariff.getD Config.absentTariff

/-- Defined groups that name a tariff. -/
def State.groupsOnTariff (s : State) (t : Nat) : Nat :=
  (s.groups.filter fun e => e.2.defn.tariff == some t).length

/-- Rating contexts that name a tariff (R137). -/
def State.ratingsOnTariff (s : State) (t : Nat) : Nat :=
  s.countCalls fun c => match c.rating with
    | some r => r.tariff == t
    | none => false

/-! ### Record queue and transmitter -/

/-- The count of the record queue (R172). -/
def State.recordCount (s : State) : Nat := s.records.queue.length

/-- The message in transmission is a RECORD notice: the head record is in transmission (R172, R177). -/
def State.recordInTransmission (s : State) : Bool :=
  match s.link.transmitter with
  | some m => match m.body with
    | .noticeRecord _ _ => true
    | _ => false
  | none => false

/-- The head record is offered to the Link Controller (R177): STREAM, a record waits, none is in transmission. -/
def State.recordOffered (s : State) : Bool :=
  s.records.mode == .stream && !s.recordInTransmission && !s.records.queue.isEmpty

end Sys2Proof.Machine
end

