-- ==== Sys2Proof/Machine/Settlement.lean ====
section
/-! DEFINITION. The writing of settlement records and the thresholds of the record queue (chapter 11), with the
accounts that count each record (R156, R173). -/

namespace Sys2Proof.Machine

/-- The records the queue holds at most (R172). -/
def queueCapacity : Nat := 2048

/-- The almost-empty condition (R174). -/
def RecordQueue.emptyHolds (q : RecordQueue) : Bool := decide (q.queue.length ≤ q.ae)

/-- The almost-full condition (R174). -/
def RecordQueue.fullHolds (q : RecordQueue) : Bool := decide (queueCapacity - q.af ≤ q.queue.length)

/-- Reports an entry into a queue condition: its event flag, and a QUEUE notice where the class is enabled
(R174). -/
def State.reportQueue (s : State) (condition : QueueCondition) (cause : QueueCause) : State :=
  let flag := match condition with
    | .almostEmpty => Flag.queueAlmostEmpty
    | .almostFull => Flag.queueAlmostFull
  let threshold := match condition with
    | .almostEmpty => s.records.ae
    | .almostFull => s.records.af
  (s.setFlag flag).raiseIf (s.enabled .queue) codeQueue
    (.noticeQueue condition s.recordCount threshold cause s.records.mode)

/-- One evaluation of both conditions against their held flags, almost-empty first (R174). -/
def State.evaluateThresholds (s : State) (cause : QueueCause) : State :=
  let q := s.records
  let held := { s with records :=
    { q with almostEmpty := q.emptyHolds, almostFull := q.fullHolds } }
  let toldEmpty := if q.emptyHolds && !q.almostEmpty then held.reportQueue .almostEmpty cause else held
  if q.fullHolds && !q.almostFull then toldEmpty.reportQueue .almostFull cause else toldEmpty

/-- An addition of charge to a 48-bit field of an account, with the saturated indication (R152). -/
def Account.saturates (a : Account) (field x : Nat) : Bool := a.saturated || decide (max48 ≤ field + x)

/-- The charge of an appended record is counted in recorded (R156). -/
def Account.addRecorded (a : Account) (x : Nat) : Account :=
  { a with recorded := satAdd max48 a.recorded x, saturated := a.saturates a.recorded x }

/-- A dropped record is counted in overflow count and overflow charge (R156). -/
def Account.addOverflow (a : Account) (x : Nat) : Account :=
  { a with overflowCount := satAdd max32 a.overflowCount 1
           overflowCharge := satAdd max48 a.overflowCharge x
           saturated := a.saturates a.overflowCharge x }

/-- The charge of an addition is counted in the accumulator (R155). -/
def Account.addCharge (a : Account) (x : Nat) : Account :=
  { a with accumulator := satAdd max48 a.accumulator x, saturated := a.saturates a.accumulator x }

/-- Rewrites the account that a record's period names: the current account of its carrier, or the closed snapshot
(R156). -/
def State.modifyAccountOf (s : State) (r : Record) (f : Account → Account) : State :=
  s.modifyCarrier r.carrier fun k =>
    if r.period = s.periods.number then { k with account := f k.account }
    else { k with snapshot := { k.snapshot with account := f k.snapshot.account } }

/-- A record is handed to the queue: appended and counted in recorded, or dropped by a full queue and counted in
the overflow tally (R173). -/
def State.writeRecord (s : State) (r : Record) : State :=
  if s.recordCount < queueCapacity then
    let appended := { s with records := { s.records with queue := s.records.queue ++ [r] } }
    (appended.modifyAccountOf r fun a => a.addRecorded r.charge).evaluateThresholds .count
  else
    let tallied := s.modifyAccountOf r fun a => a.addOverflow r.charge
    let counted := { tallied with records :=
      { tallied.records with dropped := satAdd max32 tallied.records.dropped 1 } }
    counted.setFlag .overflow

end Sys2Proof.Machine
end

