-- ==== Sys2Proof/Machine/Accounts.lean ====
section
/-! DEFINITION. Charges into the carrier accounts, the cap, the start of a period close, and the end of its sweep
(chapter 10). -/

namespace Sys2Proof.Machine

/-- Cap reached, as it is evaluated (R155). -/
def Carrier.capHolds (k : Carrier) : Bool := decide (k.cap ≠ 0 ∧ k.cap ≤ k.account.accumulator)

/-- Evaluates cap reached; a passage from false to true is reported (R155). -/
def State.evaluateCap (s : State) (c : Nat) (cause : CapCause) : State :=
  match Table.find s.carriers c with
  | none => s
  | some k =>
    let written := s.modifyCarrier c fun k => { k with capReached := k.capHolds }
    if k.capHolds && !k.capReached then
      (written.setFlag .capped).raiseIf (s.enabled .capped && k.cappedNotice) codeCapped
        (.noticeCapped c k.cap k.account.accumulator cause s.time.seconds)
    else written

/-- The SU added by a charge are added to the carrier's accumulator and the cap is evaluated; a handover of 0 SU
changes no field (R155). -/
def State.addToCarrier (s : State) (c x : Nat) : State :=
  if x = 0 then s
  else (s.modifyCarrier c fun k => { k with account := k.account.addCharge x }).evaluateCap c .addition

/-- Answered foreign calls on a carrier (R159). -/
def State.ratedOnCarrier (s : State) (c : Nat) : Nat :=
  s.countCalls fun call => call.rating.isSome && call.carrier == c

/-- Defined carriers other than carrier 0 whose closed snapshot is unread (R159). -/
def State.unreadSnapshots (s : State) : Nat :=
  (s.carriers.filter fun e => e.1 != 0 && !e.2.snapshot.read).length

/-- The current account becomes the closed snapshot and the carrier starts a new account, uncapped (R159, steps 2
to 4). -/
def Carrier.closePeriod (k : Carrier) (marked : Nat) : Carrier :=
  { k with account := Account.zero
           capReached := false
           snapshot := { account := k.account, pendingCalls := marked, complete := false, read := false } }

/-- A close start (R159). -/
def State.closeStart (s : State) (cause : PeriodCause) : State :=
  let unread := s.unreadSnapshots
  let flagged := if unread = 0 then s else s.setFlag .snapshotLost
  { flagged with
    carriers := flagged.carriers.map fun e =>
      if e.1 = 0 then e else (e.1, e.2.closePeriod (s.ratedOnCarrier e.1))
    periods := { flagged.periods with
      closed := some s.periods.number
      number := wrap32 (s.periods.number + 1)
      sweep := some { cause := cause, nextHandle := 0, bySweep := 0, byTouch := 0, snapshotsLost := unread,
                      visitBeforeRequest := false, visitBeforeAdvance := false } } }

/-- The end of a sweep: snapshots complete, PERIOD reported, the sweep record absent, a deferred boundary taken
(R164). -/
def State.endSweep (s : State) (sw : Sweep) : State :=
  let completed := { s with carriers := Table.mapAll s.carriers fun k =>
    { k with snapshot := { k.snapshot with complete := true } } }
  let told := (completed.setFlag .period).raiseIf (s.enabled .period) codePeriod
    (.noticePeriod (s.periods.closed.getD 0) s.periods.number sw.cause sw.bySweep sw.byTouch sw.snapshotsLost
      s.time.seconds s.clock)
  let ended := { told with periods := { told.periods with sweep := none, deferred := false } }
  if s.periods.deferred then ended.closeStart .boundary else ended

end Sys2Proof.Machine
end

