-- ==== Sys2Proof/Machine/Requests.lean ====
section
/-! DEFINITION. How a request arrives (R185), how the head request is taken and replied (R185, R186), and what a
command that is a request does with it (log 2). -/

namespace Sys2Proof.Machine

/-- The requests the request queue holds (R185). -/
def requestCapacity : Nat := 64

/-- A request completed at the link: appended, or overloaded at a full queue (R185). -/
def State.arrive (s : State) (r : Request) : State :=
  if s.link.requests.length < requestCapacity then
    { s with link := { s.link with requests := s.link.requests ++ [r] } }
  else
    let flagged := s.setFlag .requestOverload
    if s.link.sendList.length < 64 then
      flagged.send { code := (r.type &&& 0x3F).toNat, tag := r.tag, body := .result .overload }
    else flagged

/-- While a sweep is in flight, a visit is due before the next request is taken (R162). -/
def State.visitOwedToRequests (s : State) : Bool :=
  match s.periods.sweep with
  | some sw => sw.visitBeforeRequest
  | none => false

/-- The head request may be taken: the send list holds fewer than 64 messages (R185), and no visit is due first
(R162). -/
def State.canTake (s : State) : Bool :=
  decide (s.link.sendList.length < 64) && !s.visitOwedToRequests

/-- A request taken while a sweep is in flight: a visit is due before the next one (R162). -/
def State.oweVisitToRequests (s : State) : State :=
  { s with periods := { s.periods with
      sweep := s.periods.sweep.map fun sw => { sw with visitBeforeRequest := true } } }

/-- Puts `messages` before the messages of the send list. -/
def State.sendFirst (s : State) (messages : List Message) : State :=
  { s with link := { s.link with sendList := messages ++ s.link.sendList } }

/-- The part with an empty send list: the messages of one request are collected apart, so that its reply goes
before them. -/
def State.withoutMessages (s : State) : State := { s with link := { s.link with sendList := [] } }

/-- Takes the head request out of the queue. -/
def State.dropHeadRequest (s : State) : State :=
  { s with link := { s.link with requests := s.link.requests.tail } }

/-- Carries out a request that has left the queue. Its reply joins the send list before any notice it raises
(R185); an overlong request is replied BAD_LENGTH (R184). -/
def State.carryOut (s : State) (r : Request) (run : List Byte → State → Body × State) : State :=
  let done := if r.overlong then (Body.result .badLength, s.withoutMessages) else run r.payload s.withoutMessages
  let reply : Message := { code := (r.type &&& 0x3F).toNat, tag := r.tag, body := done.1 }
  (done.2.sendFirst (s.link.sendList ++ [reply])).oweVisitToRequests

/-- A command that is a request (log 2). Where it is the head of the request queue it is taken, or waits there.
Otherwise it completes at the link (R185) and is taken at once if that makes it the head. It brings no frame, so a message
being assembled stands, without FRAME_ERROR: the model's choice (log 24). -/
def State.serveWith (s : State) (r : Request) (take : State → Request → State) : State :=
  if s.resetLow then s
  else if s.link.requests.head? = some r then
    if s.canTake then take s.dropHeadRequest r else s
  else if s.link.lineBroken then s
  else
    let arrived := s.arrive r
    if arrived.link.requests.head? = some r ∧ arrived.canTake then take arrived.dropHeadRequest r
    else arrived

/-- A command that is a request of a known code, with what it does when it is carried out. -/
def State.serve (s : State) (type : Byte) (tag : Tag) (payload : List Byte)
    (run : List Byte → State → Body × State) : State :=
  s.serveWith (Request.ofPayload type tag payload) fun s r => s.carryOut r run

/-- The outcome of a command that is a request: always a next state. -/
def request (type : Byte) (tag : Tag) (payload : List Byte) (s : State)
    (run : List Byte → State → Body × State) : Host.Outcome State Fault Refusal :=
  .next (s.serve type tag payload run)

/-- A reply with a result alone, and nothing changed: a refused request has no effect (00 section 4.6). -/
def refuse (r : Result) (s : State) : Body × State := (.result r, s)

/-- Runs a request on its operands; operands that do not read are refused (R194). -/
def withOperands {α : Type} (e : Except Result α) (s : State) (f : α → Body × State) : Body × State :=
  match e with
  | .error r => refuse r s
  | .ok a => f a

end Sys2Proof.Machine
end

