-- ==== Sys2Proof/Machine/Rating.lean ====
section
/-! DEFINITION. Handover rating (chapter 9): the rating step, charges, the answer event, the catch-up, the
increment and the release close. -/

namespace Sys2Proof.Machine

/-- The rated amount of a step, in 3,840ths of an SU (R138). -/
def ratedAmount (rate factor length residue : Nat) : Nat := rate * factor * length + residue

/-- The whole SU of a step (R138). -/
def wholeSU (amount : Nat) : Nat := amount / 3840

/-- The residue of a step (R138). -/
def residueOf (amount : Nat) : Nat := amount % 3840

/-- The SU added when `w` whole SU are charged: what the charge since last record has room for (R139). -/
def Rating.suAdded (r : Rating) (w : Nat) : Nat := satAdd max32 r.charge w - r.charge

/-- Whole SU are charged to the rating context (R139, steps 1 and 2, and the saturated flag). -/
def Rating.addCharge (r : Rating) (w : Nat) : Rating :=
  let charge := satAdd max32 r.charge w
  let total := satAdd max32 r.totalCharge (r.suAdded w)
  { r with charge := charge
           totalCharge := total
           saturated := r.saturated || charge == max32 || total == max32 }

/-- Seconds are billed to the rating context (R139). -/
def Rating.addBilled (r : Rating) (t : Nat) : Rating :=
  let billed := satAdd max32 r.billed t
  let total := satAdd max32 r.totalBilled t
  { r with billed := billed
           totalBilled := total
           saturated := r.saturated || billed == max32 || total == max32 }

/-- Charges `w` whole SU to a call whose rating context is `r`: the call's fields and its carrier's accumulator
(R139). -/
def State.chargeCall (s : State) (h : Nat) (carrier : Nat) (r : Rating) (w : Nat) : State :=
  (s.setRating h (r.addCharge w)).addToCarrier carrier (r.suAdded w)

/-- A rating step of length `t` at rate `rate` on a call whose rating context is `r` (R138, R139). -/
def State.ratingStep (s : State) (h : Nat) (carrier : Nat) (r : Rating) (rate t : Nat) : State :=
  let amount := ratedAmount rate r.factor t r.residue
  s.chargeCall h carrier ({ r with residue := residueOf amount }.addBilled t) (wholeSU amount)

/-- The rating context of a call. -/
def State.rating (s : State) (h : Nat) : Option Rating := (s.call h).bind fun c => c.rating

/-- The quote of a group now (R81, R148). -/
def State.quote (s : State) (g : Nat) : Nat :=
  let grp := s.group g
  if grp.defn.carrier = 0 then 0
  else
    let v := s.activeVersion grp.tariffIndex
    v.rate s.band * v.factor grp.level / 64

/-- The rating context an answer creates, before its charges (R141, steps 1, 2, 5 and 6). -/
def State.freshRating (s : State) (grp : Group) : Rating :=
  let v := s.activeVersion grp.tariffIndex
  { tariff := grp.tariffIndex, factor := v.factor grp.level, residue := 0, charge := 0, billed := 0,
    totalCharge := 0, totalBilled := 0, nextDue := wrap32 (s.time.seconds + v.initial), sequence := 0,
    mark := s.periods.number, answerDay := s.time.day, answerTime := s.time.timeOfDay, saturated := false }

/-- The answer event of a foreign call: S is charged, then the step for Ti (R141). -/
def State.answerEvent (s : State) (h : Nat) (c : Call) : State :=
  let grp := s.group c.group
  let v := s.activeVersion grp.tariffIndex
  let fresh := s.freshRating grp
  let charged := s.chargeCall h c.carrier fresh v.setup
  charged.ratingStep h c.carrier (fresh.addCharge v.setup) (v.rate s.band) v.initial

/-- The fields of a call's next record that its contexts give (R170, R171). -/
def Call.record (c : Call) (h : Nat) (r : Rating) (final : Option FinalPart) : Record :=
  { final := final, serial := c.serial, handle := h, sequence := r.sequence, carrier := c.carrier,
    group := c.group, circuit := c.circuit, tariff := r.tariff, factor := r.factor, period := r.mark,
    answerDay := r.answerDay, answerTime := r.answerTime, billed := r.billed, charge := r.charge,
    saturated := r.saturated }

/-- The rating context has something since its last record, for a PARTIAL record to carry (R143). -/
def Rating.owesPartial (r : Rating) : Bool := decide (0 < r.charge ∨ 0 < r.billed)

/-- The rating context after a catch-up into period `number` (R143). -/
def Rating.caughtUp (r : Rating) (number : Nat) : Rating :=
  { r with charge := 0
           billed := 0
           sequence := if r.owesPartial then wrap32 (r.sequence + 1) else r.sequence
           mark := number }

/-- Counts a catch-up in the sweep record, if a sweep is in flight (R162, R163). -/
def State.countCatchUp (s : State) (byTouch : Bool) : State :=
  { s with periods := { s.periods with sweep := s.periods.sweep.map fun sw =>
      if byTouch then { sw with byTouch := sw.byTouch + 1 } else { sw with bySweep := sw.bySweep + 1 } } }

/-- The catch-up of a call (R143, R163). -/
def State.catchUp (s : State) (h : Nat) (c : Call) (r : Rating) (byTouch : Bool) : State :=
  let wrote := if r.owesPartial then s.writeRecord (c.record h r none) else s
  let marked := wrote.setRating h (r.caughtUp s.periods.number)
  let fewer := marked.modifyCarrier c.carrier fun k =>
    { k with snapshot := { k.snapshot with pendingCalls := k.snapshot.pendingCalls - 1 } }
  fewer.countCatchUp byTouch

/-- A period mark is stale when it is not the current period number (R137). -/
def State.stale (s : State) (r : Rating) : Bool := r.mark != s.periods.number

/-- Brings a call's rating context into the current period, and gives it (R142, R144, step 1). -/
def State.freshen (s : State) (h : Nat) (c : Call) (r : Rating) : State × Rating :=
  if s.stale r then (s.catchUp h c r true, r.caughtUp s.periods.number) else (s, r)

/-- An increment of a call (R142). -/
def State.incrementCall (s : State) (h : Nat) (c : Call) (r : Rating) : State :=
  let (caught, current) := s.freshen h c r
  let v := s.activeVersion current.tariff
  caught.ratingStep h c.carrier { current with nextDue := wrap32 (current.nextDue + v.incr) }
    (v.rate s.band) v.incr

/-- Seconds from `since` to now, modulo 2^32 (R69). -/
def State.secondsSince (s : State) (since : Nat) : Nat :=
  wrap32 (s.time.seconds + (4294967296 - since))

/-- The whole SU the release close adds by rounding half up (R144). -/
def roundingSU (residue : Nat) : Nat := if 1920 ≤ residue then 1 else 0

/-- The release close of a rated call, and the FINAL record it writes (R144). -/
def State.releaseClose (s : State) (h : Nat) (c : Call) (r : Rating) (cause : CloseCause) : State × Record :=
  let (caught, current) := s.freshen h c r
  let su := roundingSU current.residue
  let rounded := { current with residue := 0 }.addCharge su
  let charged := caught.chargeCall h c.carrier { current with residue := 0 } su
  let final := c.record h rounded
    (some { heldSeconds := s.secondsSince (c.answeredAt.getD 0), cause := cause })
  (charged.writeRecord final, final)

end Sys2Proof.Machine
end

