-- ==== Sys2Proof/Machine/Calls.lean ====
section
/-! DEFINITION. The closing actions of a call (R67), and the creation and reseizure of calls (R63, R64). -/

namespace Sys2Proof.Machine

/-- What a close produced: the number of settlement records and the charge of its FINAL record (R66). -/
structure CloseReport where
  records : Nat
  finalCharge : Option Nat
deriving DecidableEq, Repr

/-- Step 1 of the closing actions: the rating close of an ANSWERED call with a rating context (R67, R68). -/
def State.ratingClose (s : State) (h : Nat) (c : Call) (cause : CloseCause) : State × CloseReport :=
  match c.answeredAt, c.rating with
  | some _, some r =>
    let (closed, final) := s.releaseClose h c r cause
    (closed, { records := if s.stale r && r.owesPartial then 2 else 1, finalCharge := some final.charge })
  | _, _ => (s, { records := 0, finalCharge := none })

/-- The closing actions (R67). `holdsCircuit` is false where the context names no circuit (R60). The drain watch is
emptied here and completed by the request or event that closes the call, after its other notices (R11, R67). -/
def State.closeCall (s : State) (h : Nat) (c : Call) (cause : CloseCause) (holdsCircuit : Bool) :
    State × CloseReport :=
  let (rated, report) := s.ratingClose h c cause
  let idled := if holdsCircuit then rated.makeIdle c.circuit else rated
  let fewer := idled.closeCallOn c.carrier
  ({ fewer with calls := Table.erase fewer.calls h }, report)

/-- Raises CALL LOST, which no notice enable governs (R93). -/
def State.tellLost (s : State) (h : Nat) (c : Call) (reason : Option Verdict) : State :=
  s.raise codeCallLost (.noticeLost h c.serial reason)

/-- The open-call counts move when a reseizure changes the carrier (R64). -/
def State.moveOpenCall (s : State) (old new : Nat) : State :=
  if old = new then s else (s.closeCallOn old).openCallOn new

/-- A reseizure of a call (R64). -/
def State.reseize (s : State) (h : Nat) (c : Call) (z : Seizure) (tried : List Nat) : State :=
  let written := s.modifyCall h fun c =>
    { c with group := z.group, circuit := z.circuit, role := z.role, carrier := z.carrier, quote := z.quote,
             tried := tried }
  written.moveOpenCall c.carrier z.carrier

end Sys2Proof.Machine
end

