-- ==== Sys2Proof/Machine/Hunting.lean ====
section
/-! DEFINITION. Hunting: the four hunt orders, the reservation check, seizure and overflow (chapter 2). -/

namespace Sys2Proof.Machine

/-- The smallest k from 0 to 9 with 2^k not less than the size (R35). -/
def spreadBits (size : Nat) : Nat :=
  ((List.range 10).find? fun k => decide (size ≤ 2 ^ k)).getD 9

/-- The k-bit number whose bits are those of `i` in reverse order (R35). -/
def reverseBits : Nat → Nat → Nat
  | 0, _ => 0
  | k + 1, i => (i % 2) * 2 ^ k + reverseBits k (i / 2)

/-- The search order of SPREAD (R35). -/
def spreadOrder (size : Nat) : List Nat :=
  ((List.range (2 ^ spreadBits size)).map (reverseBits (spreadBits size))).filter fun p => decide (p < size)

/-- The search order of a hunt mode, as member positions (R33 to R35). -/
def huntOrder (mode : HuntMode) (size rotary : Nat) : List Nat :=
  match mode with
  | .lowFirst => List.range size
  | .highFirst => (List.range size).reverse
  | .rotary => (List.range size).map fun i => (rotary + 1 + i) % size
  | .spread => spreadOrder size

/-- The reservation in force for a group (R37). -/
def State.reservationInForce (s : State) (grp : Group) : Nat :=
  match s.guard.state with
  | .normal => grp.defn.reservation
  | .guarded => max grp.defn.reservation grp.defn.guardReservation

/-- The reservation check is made, and fails (R32, step 2; R37). -/
def State.reservationFails (s : State) (grp : Group) (cls : CallClass) (role : Role) : Bool :=
  cls == .ordinary && role == .alternate &&
    !decide (s.reservationInForce grp < s.availableCount grp)

/-- The outcome of a hunt (R32). -/
inductive HuntOutcome where
  | seized (circuit position : Nat)
  | overflow (reason : Verdict)
deriving DecidableEq, Repr

/-- What a hunt would do, without its effects (R32). -/
def State.huntOutcome (s : State) (grp : Group) (cls : CallClass) (role : Role) : HuntOutcome :=
  if s.availableCount grp = 0 then .overflow .noneIdle
  else if s.reservationFails grp cls role then .overflow .reserved
  else
    let order := (huntOrder grp.defn.huntMode grp.members.length grp.rotary).filterMap fun p =>
      grp.members[p]?.map fun n => (n, p)
    match order.find? fun e => s.available e.1 with
    | some (n, p) => .seized n p
    | none => .overflow .noneIdle

/-- An attempt is counted (R32). -/
def Stats.addAttempt (t : Stats) : Stats := { t with attempts := satAdd max32 t.attempts 1 }

/-- A seizure is counted (R32, R36). -/
def Stats.addSeizure (t : Stats) : Stats := { t with seizures := satAdd max32 t.seizures 1 }

/-- An overflow is counted (R38). -/
def Stats.addOverflow (t : Stats) : Stats := { t with overflows := satAdd max32 t.overflows 1 }

/-- A glare is counted (R39). -/
def Stats.addGlare (t : Stats) : Stats := { t with glares := satAdd max32 t.glares 1 }

/-- A crankback is counted (R88). -/
def Stats.addCrankback (t : Stats) : Stats := { t with crankbacks := satAdd max32 t.crankbacks 1 }

/-- A group's rotary pointer and seizures after a seizure of member position `p` (R34, R36). -/
def Group.afterSeizure (grp : Group) (p : Nat) : Group :=
  { grp with rotary := if grp.defn.huntMode = .rotary then p else grp.rotary
             current := grp.current.addAttempt.addSeizure }

/-- A group's counts after an overflow (R38). -/
def Group.afterOverflow (grp : Group) : Group :=
  { grp with overflowCount := satAdd max16 grp.overflowCount 1
             current := grp.current.addAttempt.addOverflow }

/-- A hunt of group `g` for the call with handle `h` (R32, R36, R38). -/
def State.hunt (s : State) (g : Nat) (cls : CallClass) (role : Role) (h : Nat) : HuntOutcome × State :=
  let outcome := s.huntOutcome (s.group g) cls role
  match outcome with
  | .seized n p => (outcome, (s.modifyGroup g fun grp => grp.afterSeizure p).setUsage n (.outgoing h))
  | .overflow _ => (outcome, s.modifyGroup g Group.afterOverflow)

end Sys2Proof.Machine
end

