-- ==== Sys2Proof/Machine/Routing.lean ====
section
/-! DEFINITION. Destination analysis (R44, R52 to R55) and route selection: the checks, the evaluation pass and
the glare reroute (chapter 5). -/

namespace Sys2Proof.Machine

/-! ### Analysis -/

/-- The outcome of a lookup (R44). -/
inductive Lookup where
  | noMatch
  | planUndefined (digits : List Nat) (plan : Nat)
  | routed (digits : List Nat) (plan : Nat)
deriving DecidableEq, Repr

/-- The entry with the longest matching string among two, the second may be absent. -/
def longerEntry (e : PrefixEntry) : Option PrefixEntry → PrefixEntry
  | none => e
  | some f => if f.digits.length < e.digits.length then e else f

/-- The longest entry whose digit string begins the destination (R44). -/
def longestMatch : List PrefixEntry → List Nat → Option PrefixEntry
  | [], _ => none
  | e :: rest, dest =>
    if e.digits.isPrefixOf dest then some (longerEntry e (longestMatch rest dest)) else longestMatch rest dest

/-- A lookup of a destination (R44). -/
def State.lookup (s : State) (dest : List Nat) : Lookup :=
  match longestMatch s.prefixes dest with
  | none => .noMatch
  | some e => if s.planDefined e.plan then .routed e.digits e.plan else .planUndefined e.digits e.plan

/-- A plan entry as it is considered for a call, with its alternate number if it is an ALTERNATE entry (R48). -/
structure Candidate where
  group : Nat
  role : Role
  number : Option Nat
deriving DecidableEq, Repr

/-- Numbers the entries: ALTERNATE entries count on from `next` in list order (R48). -/
def numberEntries : List PlanEntry → Nat → List Candidate
  | [], _ => []
  | e :: rest, next =>
    match e.role with
    | .first => { group := e.group, role := .first, number := none } :: numberEntries rest next
    | .alternate => { group := e.group, role := .alternate, number := some next } :: numberEntries rest (next + 1)

/-- The FIRST entries of a plan, in list order. -/
def Plan.firsts (p : Plan) : List Candidate :=
  (numberEntries p.entries 0).filter fun c => c.role == .first

/-- The ALTERNATE entries of a plan, in alternate-number order. -/
def Plan.alternates (p : Plan) : List Candidate :=
  (numberEntries p.entries 0).filter fun c => c.role == .alternate

/-- The candidate order: FIRST entries, then the alternates cyclically from the sticky alternate (R52). -/
def Plan.candidateOrder (p : Plan) : List Candidate :=
  p.firsts ++ p.alternates.rotateLeft (p.sticky.getD 0)

/-- The effective ceiling: absent, one of the two, or the smaller (R53). -/
def effectiveCeiling : Option Nat → Option Nat → Option Nat
  | none, none => none
  | some a, none => some a
  | none, some b => some b
  | some a, some b => some (min a b)

/-- An overflow on the sticky alternate by an ordinary call advances it cyclically (R54). -/
def Plan.advanceSticky (p : Plan) (number : Option Nat) : Plan :=
  match number, p.sticky with
  | some n, some k => if n = k then { p with sticky := some ((k + 1) % p.alternates.length) } else p
  | _, _ => p

/-- A seizure of an alternate by an ordinary call sets the sticky alternate (R55). -/
def Plan.setSticky (p : Plan) (number : Option Nat) : Plan :=
  match number with
  | some n => { p with sticky := some n }
  | none => p

/-! ### The checks -/

/-- Checks 3 to 6 on a group: OUT_OF_SERVICE, CARRIER, CONGESTED, PRICE (R78 to R82). -/
def State.groupCheck (s : State) (cls : CallClass) (ceiling : Option Nat) (g : Nat) (role : Role) :
    Option Verdict :=
  let grp := s.group g
  let carrier := s.carrier grp.defn.carrier
  if grp.defn.kind = .inward ∨ grp.defn.admin = .outOfService then some .outOfService
  else if carrier.admin = .suspended ∨ (cls = .ordinary ∧ carrier.capReached) then some .carrier
  else if cls = .ordinary ∧ role = .alternate ∧ grp.level = .congested then some .congested
  else match ceiling with
    | some limit => if limit < s.quote g then some .price else none
    | none => none

/-- Check 7, DEPTH (R83). -/
def State.depthFails (s : State) (cls : CallClass) (tried : List Nat) : Bool :=
  s.guard.state == .guarded && cls == .ordinary && decide (s.guard.depth ≤ tried.length)

/-- What a pass is made with (R76). `handle = none` is a CALL SETUP, whose hunts take the lowest FREE handle (R61);
`movesSticky` is false for the continuation of a glare reroute (R54, R55). -/
structure PassInput where
  plan : Nat
  cls : CallClass
  incoming : Option Nat
  ceiling : Option Nat
  handle : Option Nat
  movesSticky : Bool
deriving DecidableEq, Repr

/-- Checks 1 to 7 on a candidate, in order; the first that fails gives the verdict (R76). -/
def State.check (s : State) (i : PassInput) (tried : List Nat) (c : Candidate) : Option Verdict :=
  if tried.contains c.group then some .tried
  else if i.incoming = some c.group then some .backward
  else match s.groupCheck i.cls i.ceiling c.group c.role with
    | some v => some v
    | none => if s.depthFails i.cls tried then some .depth else none

/-- A hunted group joins the tried list if it is not in it (R59, R84). -/
def addTried (tried : List Nat) (g : Nat) : List Nat := if tried.contains g then tried else tried ++ [g]

/-- The sticky alternate moves after a hunt (R54, R55). -/
def State.moveSticky (s : State) (i : PassInput) (c : Candidate) (seized : Bool) : State :=
  if i.movesSticky && i.cls == .ordinary then
    s.modifyPlan i.plan fun p => if seized then p.setSticky c.number else p.advanceSticky c.number
  else s

/-- The handle a hunt supplies (R61, R76). -/
def State.huntHandle (s : State) (i : PassInput) : Nat := i.handle.getD s.lowestFree

/-- The seizure a reply reports (R85). -/
def State.seizureOf (s : State) (g : Nat) (role : Role) (circuit position : Nat) : Seizure :=
  { group := g, circuit := circuit, position := position, role := role,
    carrier := (s.group g).defn.carrier, quote := s.quote g }

/-- The outcome of a pass (R76). `seizure = none` is a failure, whose reason is the last verdict of the trace, or
TRIED where the trace is empty. -/
structure PassResult where
  state : State
  seizure : Option Seizure
  tried : List Nat
  trace : List (Nat × Verdict)
deriving DecidableEq, Repr

/-- The reason of a failed pass (R76). -/
def PassResult.reason (r : PassResult) : Verdict :=
  match r.trace.getLast? with
  | some e => e.2
  | none => .tried

/-- The candidates of a pass, one at a time (R76, R84). -/
def passFrom (i : PassInput) : List Candidate → State → List Nat → List (Nat × Verdict) → PassResult
  | [], s, tried, trace => { state := s, seizure := none, tried := tried, trace := trace }
  | c :: rest, s, tried, trace =>
    match s.check i tried c with
    | some v =>
      if v = .depth then { state := s, seizure := none, tried := tried, trace := trace ++ [(c.group, v)] }
      else passFrom i rest s tried (trace ++ [(c.group, v)])
    | none =>
      let hunted := addTried tried c.group
      match s.hunt c.group i.cls c.role (s.huntHandle i) with
      | (.seized n p, after) =>
        { state := after.moveSticky i c true
          seizure := some (s.seizureOf c.group c.role n p)
          tried := hunted
          trace := trace ++ [(c.group, .seized)] }
      | (.overflow v, after) =>
        let moved := after.moveSticky i c false
        if 8 ≤ hunted.length then
          { state := moved, seizure := none, tried := hunted, trace := trace ++ [(c.group, v)] }
        else passFrom i rest moved hunted (trace ++ [(c.group, v)])

/-- An evaluation pass (R76); one begun with 8 groups tried evaluates no candidate. -/
def State.pass (s : State) (i : PassInput) (tried : List Nat) : PassResult :=
  if 8 ≤ tried.length then { state := s, seizure := none, tried := tried, trace := [] }
  else passFrom i (s.plan i.plan).candidateOrder s tried []

/-! ### Glare rerouting -/

/-- What a later pass on a call is made with (R90, R92). -/
def Call.passInput (c : Call) (h : Nat) (movesSticky : Bool) : PassInput :=
  { plan := c.plan, cls := c.cls, incoming := c.incomingGroup, ceiling := c.ceiling, handle := some h,
    movesSticky := movesSticky }

/-- The continuation of a glare reroute: a pass over the plan, ending in CALL REROUTED, or in the close of the call
and CALL LOST (R92, R93). -/
def State.glareContinue (s : State) (h : Nat) (c : Call) : State :=
  let r := s.pass (c.passInput h false) c.tried
  match r.seizure with
  | some z => (r.state.reseize h c z r.tried).raise codeCallRerouted (.noticeRerouted h c.serial z)
  | none => (r.state.closeCall h c .noRoute false).1.tellLost h c (some r.reason)

/-- The reroute of a call that lost its circuit to the far end (R91 to R93). -/
def State.glareReroute (s : State) (h : Nat) (c : Call) : State :=
  match s.groupCheck c.cls c.ceiling c.group c.role with
  | some _ => s.glareContinue h c
  | none =>
    match s.hunt c.group c.cls c.role h with
    | (.seized n p, after) =>
      let z := s.seizureOf c.group c.role n p
      (after.reseize h c z c.tried).raise codeCallRerouted (.noticeRerouted h c.serial z)
    | (.overflow _, after) => after.glareContinue h c

end Sys2Proof.Machine
end

