-- ==== Sys2Proof/Machine/AnalysisCmds.lean ====
section
/-! DEFINITION. Chapter 3: the prefix table and the route plan store. -/

namespace Sys2Proof.Machine

open Sys2Proof

/-- The entries the prefix table holds at most (R43). -/
def prefixCapacity : Nat := 4096

/-- The entry with exactly a digit string (R45, R46). -/
def State.prefixOf (s : State) (digits : List Nat) : Option PrefixEntry :=
  s.prefixes.find? fun e => e.digits == digits

/-- Prefix entries that name a plan (R49). -/
def State.prefixesOnPlan (s : State) (p : Nat) : Nat :=
  (s.prefixes.filter fun e => e.plan == p).length

/-- PREFIX WRITE (R45). The reply REPLACED carries the plan held before and the new one (log 21). -/
def prefixWrite (digits : List Nat) (plan : Nat) (s : State) : Body × State :=
  match s.prefixOf digits with
  | some e =>
    let changed := s.prefixes.map fun x => if x.digits = digits then { x with plan := plan } else x
    let written := { s with prefixes := changed }
    (.prefixWritten (some (e.plan, plan)) written.prefixes.length (s.planDefined plan), written)
  | none =>
    if prefixCapacity ≤ s.prefixes.length then refuse .tableFull s
    else
      let written := { s with prefixes := s.prefixes ++ [{ digits := digits, plan := plan }] }
      (.prefixWritten none written.prefixes.length (s.planDefined plan), written)

/-- PREFIX WRITE. -/
def execPrefixWrite (tag : Tag) (payload : List Byte) (s : State) : Host.Outcome State Fault Refusal :=
  request 0x11 tag payload s fun p s => withOperands (parsePrefixWrite p) s fun o => prefixWrite o.1 o.2 s

/-- PREFIX DELETE (R46). -/
def prefixDelete (digits : List Nat) (s : State) : Body × State :=
  match s.prefixOf digits with
  | none => refuse .noSuchObject s
  | some e =>
    let left := { s with prefixes := s.prefixes.filter (fun x => x.digits != digits) }
    (.prefixDeleted e.plan left.prefixes.length, left)

/-- PREFIX DELETE. -/
def execPrefixDelete (tag : Tag) (payload : List Byte) (s : State) : Host.Outcome State Fault Refusal :=
  request 0x12 tag payload s fun p s => withOperands (parseDigits p) s fun d => prefixDelete d s

/-- PREFIX LOOKUP (R47). -/
def prefixLookup (dest : List Nat) (s : State) : Body × State :=
  match s.lookup dest with
  | .routed d p => (.lookupRouted d p s.prefixes.length, s)
  | .noMatch => (.lookupUnroutable none s.prefixes.length, s)
  | .planUndefined d p => (.lookupUnroutable (some (d, p)) s.prefixes.length, s)

/-- PREFIX LOOKUP. -/
def execPrefixLookup (tag : Tag) (payload : List Byte) (s : State) : Host.Outcome State Fault Refusal :=
  request 0x13 tag payload s fun p s => withOperands (parseDigits p) s fun d => prefixLookup d s

/-- A plan as PLAN WRITE defines it: the sticky alternate is alternate 0, or absent with no alternate (R49). -/
def Plan.fresh (entries : List PlanEntry) (ceiling : Option Nat) : Plan :=
  { entries := entries, ceiling := ceiling,
    sticky := if entries.any (fun e => e.role == .alternate) then some 0 else none }

/-- PLAN WRITE (R49). -/
def planWrite (plan : Nat) (entries : List PlanEntry) (ceiling : Option Nat) (s : State) : Body × State :=
  if entries.any (fun e => !s.groupDefined e.group) then refuse .noSuchObject s
  else
    (.planWritten (s.planDefined plan) (entries.filter fun e => e.role == .first).length
        (entries.filter fun e => e.role == .alternate).length (s.prefixesOnPlan plan) (s.seizedOnPlan plan),
      { s with plans := Table.put s.plans plan (Plan.fresh entries ceiling) })

/-- PLAN WRITE. -/
def execPlanWrite (tag : Tag) (payload : List Byte) (s : State) : Host.Outcome State Fault Refusal :=
  request 0x14 tag payload s fun p s => withOperands (parsePlanWrite p) s fun o => planWrite o.1 o.2.1 o.2.2 s

/-- PLAN DELETE (R50). -/
def planDelete (plan : Nat) (s : State) : Body × State :=
  if !s.planDefined plan then refuse .noSuchObject s
  else if 0 < s.seizedOnPlan plan then refuse .objectInUse s
  else (.planDeleted (s.prefixesOnPlan plan), { s with plans := Table.erase s.plans plan })

/-- PLAN DELETE. -/
def execPlanDelete (tag : Tag) (payload : List Byte) (s : State) : Host.Outcome State Fault Refusal :=
  request 0x15 tag payload s fun p s => withOperands (parsePlan p) s fun n => planDelete n s

/-- The sticky alternate with its group (R51). -/
def Plan.stickyGroup (p : Plan) : Option (Nat × Nat) :=
  match p.sticky with
  | none => none
  | some k => p.alternates[k]?.map fun c => (k, c.group)

/-- PLAN READ (R51). -/
def planRead (plan : Nat) (s : State) : Body × State :=
  match Table.find s.plans plan with
  | none => refuse .noSuchObject s
  | some p =>
    (.planRead ((numberEntries p.entries 0).map fun c => (⟨c.group, c.role⟩, c.number)) p.ceiling p.stickyGroup
      (p.candidateOrder.map Candidate.group) (s.prefixesOnPlan plan) (s.seizedOnPlan plan), s)

/-- PLAN READ. -/
def execPlanRead (tag : Tag) (payload : List Byte) (s : State) : Host.Outcome State Fault Refusal :=
  request 0x16 tag payload s fun p s => withOperands (parsePlan p) s fun n => planRead n s

end Sys2Proof.Machine
end

