-- ==== Sys2Proof/Machine/CallCmds.lean ====
section
/-! DEFINITION. Chapters 4 and 5: CALL SETUP, CALL RETRY, CALL ANSWER, CALL RELEASE, CALL READ. -/

namespace Sys2Proof.Machine

open Sys2Proof

/-! ### CALL SETUP -/

/-- The context a setup creates (R63). -/
def Call.create (serial : Nat) (i : PassInput) (z : Seizure) (tried : List Nat) : Call :=
  { serial := serial, cls := i.cls, incomingGroup := i.incoming, plan := i.plan, ceiling := i.ceiling,
    tried := tried, group := z.group, circuit := z.circuit, role := z.role, carrier := z.carrier,
    quote := z.quote, answeredAt := none, rating := none }

/-- The call is created on the lowest FREE handle, with the next serial, and its carrier's open-call count rises
(R61 to R63, R85). -/
def State.createCall (s : State) (h : Nat) (i : PassInput) (z : Seizure) (tried : List Nat) : State :=
  let opened := s.openCallOn z.carrier
  { opened with
    calls := Table.put opened.calls h (Call.create s.serialCounter i z tried)
    serialCounter := wrap32 (s.serialCounter + 1) }

/-- The setup's pass and its outcome (R75, R85, R86). -/
def setupPass (plan : Nat) (o : SetupOperands) (s : State) : Body × State :=
  let i : PassInput :=
    { plan := plan, cls := o.cls, incoming := o.incoming,
      ceiling := effectiveCeiling o.ceiling (s.plan plan).ceiling, handle := none, movesSticky := true }
  let r := s.pass i []
  match r.seizure with
  | some z =>
    (.setupDone s.lowestFree s.serialCounter plan z r.trace, r.state.createCall s.lowestFree i z r.tried)
  | none => (.setupNoRoute plan r.reason r.trace, r.state)

/-- CALL SETUP (R74, R75). -/
def callSetup (o : SetupOperands) (s : State) : Body × State :=
  if o.incoming.any (fun g => !s.groupDefined g) then refuse .noSuchObject s
  else match s.lookup o.destination with
    | .noMatch => (.setupUnroutable none, s)
    | .planUndefined d p => (.setupUnroutable (some (d, p)), s)
    | .routed _ p => setupPass p o s

/-- CALL SETUP. -/
def execCallSetup (tag : Tag) (payload : List Byte) (s : State) : Host.Outcome State Fault Refusal :=
  request 0x17 tag payload s fun p s => withOperands (parseSetup p) s fun o => callSetup o s

/-! ### Handles and serials -/

/-- The call a request names: FREE, or under another serial, it is NO_SUCH_OBJECT (R65, R66, R87). -/
def State.namedCall (s : State) (h : Nat) (expected : Option Nat) : Except Result Call :=
  match s.call h with
  | none => .error .noSuchObject
  | some c => if expected.any (fun x => x != c.serial) then .error .noSuchObject else .ok c

/-! ### CALL RETRY -/

/-- The release of a retried call's circuit: IDLE, blocked for FAULT, the crankback counted (R88). -/
def State.crankback (s : State) (c : Call) (cause : RetryCause) : State :=
  let freed := s.makeIdle c.circuit
  let marked := match cause with
    | .fault => freed.setLocalBlock c.circuit true
    | .downstream => freed
  marked.countStats c.group Stats.addCrankback

/-- Every group of the call's plan has been tried, or 8 have (R89). -/
def State.allRoutesTried (s : State) (c : Call) : Bool :=
  (s.plan c.plan).entries.all (fun e => c.tried.contains e.group) || decide (8 ≤ c.tried.length)

/-- The search of a retry (R89, R90). -/
def retrySearch (h : Nat) (c : Call) (s : State) : Body × State :=
  if s.allRoutesTried c then
    (.retryAllTried h c.serial c.circuit, (s.closeCall h c .noRoute false).1)
  else
    let r := s.pass (c.passInput h true) c.tried
    match r.seizure with
    | some z => (.retryDone h c.serial c.circuit z r.trace, r.state.reseize h c z r.tried)
    | none =>
      (.retryNoRoute h c.serial c.circuit r.reason r.trace, (r.state.closeCall h c .noRoute false).1)

/-- CALL RETRY (R87 to R90). -/
def callRetry (h : Nat) (cause : RetryCause) (expected : Option Nat) (s : State) : Body × State :=
  match s.namedCall h expected with
  | .error r => refuse r s
  | .ok c =>
    if c.answered then refuse .wrongState s
    else
      let searched := retrySearch h c (s.crankback c cause)
      (searched.1, searched.2.completeWatch (spanOf c.circuit) .idle)

/-- CALL RETRY. -/
def execCallRetry (tag : Tag) (payload : List Byte) (s : State) : Host.Outcome State Fault Refusal :=
  request 0x18 tag payload s fun p s => withOperands (parseRetry p) s fun o => callRetry o.1 o.2.1 o.2.2 s

/-! ### CALL ANSWER -/

/-- The charge made at answer: the charge since last record after the answer event (R141). -/
def State.chargeNow (s : State) (h : Nat) : Nat :=
  match s.rating h with
  | some r => r.charge
  | none => 0

/-- CALL ANSWER (R65). -/
def callAnswer (h : Nat) (expected : Option Nat) (s : State) : Body × State :=
  match s.namedCall h expected with
  | .error r => refuse r s
  | .ok c =>
    if c.answered then refuse .wrongState s
    else
      let marked := s.modifyCall h fun c => { c with answeredAt := some s.time.seconds }
      if c.carrier = 0 then (.answered c.serial none, marked)
      else
        let rated := marked.answerEvent h c
        (.answered c.serial (some ((s.freshRating (s.group c.group)).factor, rated.chargeNow h)), rated)

/-- CALL ANSWER. -/
def execCallAnswer (tag : Tag) (payload : List Byte) (s : State) : Host.Outcome State Fault Refusal :=
  request 0x19 tag payload s fun p s => withOperands (parseAnswer p) s fun o => callAnswer o.1 o.2 s

/-! ### CALL RELEASE and CALL READ -/

/-- CALL RELEASE (R66). -/
def callRelease (h : Nat) (cause : CloseCause) (expected : Option Nat) (s : State) : Body × State :=
  match s.namedCall h expected with
  | .error r => refuse r s
  | .ok c =>
    let closed := s.closeCall h c cause true
    (.released c.serial c.answered closed.2.records closed.2.finalCharge,
      closed.1.completeWatch (spanOf c.circuit) .idle)

/-- CALL RELEASE. -/
def execCallRelease (tag : Tag) (payload : List Byte) (s : State) : Host.Outcome State Fault Refusal :=
  request 0x1A tag payload s fun p s => withOperands (parseRelease p) s fun o => callRelease o.1 o.2.1 o.2.2 s

/-- CALL READ (R70). -/
def callRead (h : Nat) (s : State) : Body × State :=
  match s.call h with
  | none => refuse .noSuchObject s
  | some c => (.callRead h c, s)

/-- CALL READ. -/
def execCallRead (tag : Tag) (payload : List Byte) (s : State) : Host.Outcome State Fault Refusal :=
  request 0x1B tag payload s fun p s => withOperands (parseHandle p) s fun h => callRead h s

end Sys2Proof.Machine
end

