-- ==== Sys2Proof/Machine/CarrierCmds.lean ====
section
/-! DEFINITION. Chapter 10: carriers, period length, the period close and its sweep, the reports. -/

namespace Sys2Proof.Machine

open Sys2Proof

/-! ### Carriers -/

/-- A carrier defined anew by CARRIER WRITE (R153). -/
def Carrier.fresh (o : CarrierOperands) : Carrier :=
  { admin := o.admin, cap := o.cap, capReached := false, cappedNotice := o.cappedNotice, openCalls := 0,
    account := Account.zero, snapshot := Snapshot.fresh }

/-- A defined carrier takes the written fields (R153). -/
def Carrier.rewritten (k : Carrier) (o : CarrierOperands) : Carrier :=
  { k with admin := o.admin, cap := o.cap, cappedNotice := o.cappedNotice }

/-- CARRIER WRITE (R153). -/
def carrierWrite (o : CarrierOperands) (s : State) : Body × State :=
  if o.carrier = 0 then refuse .wrongState s
  else match Table.find s.carriers o.carrier with
    | none =>
      let written := { s with carriers := Table.put s.carriers o.carrier (Carrier.fresh o) }
      (.carrierWritten false false (Carrier.fresh o).capHolds 0, written.evaluateCap o.carrier .capWritten)
    | some k =>
      let changed := k.rewritten o
      let written := { s with carriers := Table.put s.carriers o.carrier changed }
      (.carrierWritten true k.capReached changed.capHolds k.account.accumulator,
        written.evaluateCap o.carrier .capWritten)

/-- CARRIER WRITE. -/
def execCarrierWrite (tag : Tag) (payload : List Byte) (s : State) : Host.Outcome State Fault Refusal :=
  request 0x2C tag payload s fun p s => withOperands (parseCarrierWrite p) s fun o => carrierWrite o s

/-- A defined group names a carrier (R154). -/
def State.carrierInGroup (s : State) (c : Nat) : Bool := s.groups.any fun e => e.2.defn.carrier == c

/-- CARRIER DELETE (R154). -/
def carrierDelete (c : Nat) (s : State) : Body × State :=
  if c = 0 then refuse .wrongState s
  else match Table.find s.carriers c with
    | none => refuse .noSuchObject s
    | some k =>
      if 0 < k.openCalls then refuse .objectInUse s
      else if s.carrierInGroup c then refuse .objectInUse s
      else (.carrierDeleted k.account k.snapshot, { s with carriers := Table.erase s.carriers c })

/-- CARRIER DELETE. -/
def execCarrierDelete (tag : Tag) (payload : List Byte) (s : State) : Host.Outcome State Fault Refusal :=
  request 0x2D tag payload s fun p s => withOperands (parseIndex 63 p) s fun c => carrierDelete c s

/-- CARRIER REPORT (R165). -/
def carrierReport (c : Nat) (s : State) : Body × State :=
  match Table.find s.carriers c with
  | none => refuse .noSuchObject s
  | some k =>
    (.carrierReport k.admin k.cap k.capReached k.cappedNotice k.openCalls k.account s.periods.number, s)

/-- CARRIER REPORT. -/
def execCarrierReport (tag : Tag) (payload : List Byte) (s : State) : Host.Outcome State Fault Refusal :=
  request 0x2E tag payload s fun p s => withOperands (parseIndex 63 p) s fun c => carrierReport c s

/-! ### Periods -/

/-- The listed period lengths, in minutes (R125). -/
def periodLengths : List Nat := [15, 30, 60, 120, 180, 240, 360, 480, 720, 1440]

/-- The largest listed length not above a value; 15 below 15 (R158). -/
def clampLength (n : Nat) : Nat := ((periodLengths.filter fun l => decide (l ≤ n)).getLast?).getD 15

/-- The time of day of the next boundary an advance reaches under a length (R125, R158). -/
def nextBoundary (length timeOfDay : Nat) : Nat :=
  ((timeOfDay / (length * 60) + 1) * (length * 60)) % 86400

/-- PERIOD LENGTH (R158). -/
def periodLength (n : Nat) (s : State) : Body × State :=
  let l := clampLength n
  (.periodLength l (l != n) (nextBoundary l s.time.timeOfDay), { s with periods := { s.periods with length := l } })

/-- PERIOD LENGTH. -/
def execPeriodLength (tag : Tag) (payload : List Byte) (s : State) : Host.Outcome State Fault Refusal :=
  request 0x2F tag payload s fun p s => withOperands (parseOne p) s fun n => periodLength n s

/-- PERIOD_BOUNDARY (R160): a boundary judged by the advance is taken; it starts a close, or is deferred. -/
def execPeriodBoundary (s : State) : Host.Outcome State Fault Refusal :=
  if s.resetLow || !s.periods.boundaryWaiting then .next s
  else
    let taken := { s with periods := { s.periods with boundaryWaiting := false } }
    match s.periods.sweep with
    | none => .next (taken.closeStart .boundary)
    | some _ => .next { taken with periods := { taken.periods with deferred := true } }

/-- The calls a close start leaves marked with the closed period, over all carriers (R161). -/
def State.pendingCallsAll (s : State) : Nat :=
  (s.carriers.map fun e => e.2.snapshot.pendingCalls).sum

/-- PERIOD CLOSE (R161). -/
def periodClose (s : State) : Body × State :=
  if s.periods.sweep.isSome then refuse .closeInProgress s
  else
    let started := s.closeStart .request
    (.periodClosing s.periods.number started.periods.number s.unreadSnapshots started.pendingCallsAll, started)

/-- PERIOD CLOSE. -/
def execPeriodClose (tag : Tag) (payload : List Byte) (s : State) : Host.Outcome State Fault Refusal :=
  request 0x30 tag payload s fun p s => withOperands (parseEmpty p) s fun _ => periodClose s

/-- A snapshot after PERIOD REPORT: read, where it is shown complete (R166). -/
def Carrier.snapshotShown (k : Carrier) : Carrier :=
  { k with snapshot := { k.snapshot with read := k.snapshot.read || k.snapshot.complete } }

/-- PERIOD REPORT (R166). -/
def periodReport (s : State) : Body × State :=
  (.periodReport s.periods.number s.periods.closed s.periods.length
      (s.periods.sweep.map fun sw => sw.nextHandle) s.periods.deferred
      (s.carriers.map fun e => (e.1, e.2.snapshot)),
    { s with carriers := Table.mapAll s.carriers Carrier.snapshotShown })

/-- PERIOD REPORT. -/
def execPeriodReport (tag : Tag) (payload : List Byte) (s : State) : Host.Outcome State Fault Refusal :=
  request 0x31 tag payload s fun p s => withOperands (parseEmpty p) s fun _ => periodReport s

/-! ### The sweep -/

/-- A visit's work on the context of one handle (R162). -/
def State.visitCall (s : State) (h : Nat) : State :=
  match s.call h with
  | none => s
  | some c =>
    match c.rating with
    | none => s
    | some r => if s.periods.closed = some r.mark then s.catchUp h c r false else s

/-- A visit of the sweep; the visit of handle 8,191 ends it (R162, R164). -/
def State.sweepVisit (s : State) : State :=
  match s.periods.sweep with
  | none => s
  | some sw =>
    let visited := s.visitCall sw.nextHandle
    let counted := (visited.periods.sweep).getD sw
    let moved := { counted with
      nextHandle := sw.nextHandle + 1, visitBeforeRequest := false, visitBeforeAdvance := false }
    if 8191 ≤ sw.nextHandle then visited.endSweep moved
    else { visited with periods := { visited.periods with sweep := some moved } }

/-- SWEEP_VISIT (R162). -/
def execSweepVisit (s : State) : Host.Outcome State Fault Refusal :=
  if s.resetLow then .next s else .next s.sweepVisit

/-- Carries a sweep in flight to its end, and with it the close a deferred boundary starts (R169). -/
def State.finishSweep : Nat → State → State
  | 0, s => s
  | fuel + 1, s => if s.periods.sweep.isSome then State.finishSweep fuel s.sweepVisit else s

end Sys2Proof.Machine
end

