-- ==== Sys2Proof/Machine/CircuitCmds.lean ====
section
/-! DEFINITION. Chapter 1: blocking, the drain watch, incoming seizure and release, the audit, the span report. -/

namespace Sys2Proof.Machine

open Sys2Proof

/-! ### Local blocking -/

/-- Sets the local block of every circuit in a list (R5). -/
def State.blockAll (s : State) (ns : List Nat) : State := ns.foldl (fun s n => s.setLocalBlock n true) s

/-- CIRCUIT BLOCK in PLAIN mode (R6). -/
def blockPlain (sc : Scope) (s : State) : Body × State := (.result .ok, s.blockAll sc.circuits)

/-- The busy positions among the circuits in scope, in ascending order (R7). -/
def State.busyPositions (s : State) (ns : List Nat) : List Nat :=
  (ns.filter fun n => (s.circuit n).usage.busy).map positionOf

/-- Two sets of positions merged, in ascending order (R7). -/
def mergePositions (a b : List Nat) : List Nat :=
  (List.range 32).filter fun p => a.contains p || b.contains p

/-- CIRCUIT BLOCK in DRAIN mode (R7); a watch with nothing to wait for closes in the same request (R11). -/
def blockDrain (tag : Tag) (sc : Scope) (s : State) : Body × State :=
  let blocked := s.blockAll sc.circuits
  let busy := blocked.busyPositions sc.circuits
  let sp := blocked.span sc.spanIndex
  match sp.watch with
  | none =>
    let opened := blocked.setSpan sc.spanIndex
      { sp with watch := some { positions := mergePositions [] busy, originTag := tag, merged := 1 } }
    (.drainTaken false busy.length, opened.completeWatch sc.spanIndex .idle)
  | some w =>
    let joined := blocked.setSpan sc.spanIndex
      { sp with watch := some { w with positions := mergePositions w.positions busy
                                       merged := satAdd max16 w.merged 1 } }
    (.drainTaken true (busy.filter fun p => !w.positions.contains p).length, joined)

/-- What a forced block has cleared so far (R8). -/
structure ForcedTally where
  lost : Nat
  cleared : Nat
deriving DecidableEq, Repr

/-- Clears one circuit in scope of a forced block (R8). A call whose context is FREE does not occur (R60). -/
def State.forceCircuit (s : State) (t : ForcedTally) (n : Nat) : State × ForcedTally :=
  match (s.circuit n).usage with
  | .idle => (s, t)
  | .incoming => (s.makeIdle n, { t with cleared := t.cleared + 1 })
  | .outgoing h =>
    match s.call h with
    | some c => (((s.closeCall h c .forced true).1).tellLost h c none, { t with lost := t.lost + 1 })
    | none => (s, t)

/-- Clears the circuits in scope of a forced block in ascending order (R8). -/
def forceAll : List Nat → State → ForcedTally → State × ForcedTally
  | [], s, t => (s, t)
  | n :: rest, s, t => forceAll rest (s.forceCircuit t n).1 (s.forceCircuit t n).2

/-- CIRCUIT BLOCK in FORCED mode (R8). -/
def blockForced (sc : Scope) (s : State) : Body × State :=
  let (cleared, t) := forceAll sc.circuits (s.blockAll sc.circuits) { lost := 0, cleared := 0 }
  (.forcedCleared t.lost t.cleared, cleared.completeWatch sc.spanIndex .idle)

/-- CIRCUIT BLOCK, PLAIN. -/
def execCircuitBlockPlain (tag : Tag) (payload : List Byte) (s : State) : Host.Outcome State Fault Refusal :=
  if namesOtherMode .plain payload then .refused .otherRow
  else request 0x04 tag payload s fun p s => withOperands (parseBlock p) s fun o => blockPlain o.1 s

/-- CIRCUIT BLOCK, DRAIN. -/
def execCircuitBlockDrain (tag : Tag) (payload : List Byte) (s : State) : Host.Outcome State Fault Refusal :=
  if namesOtherMode .drain payload then .refused .otherRow
  else request 0x04 tag payload s fun p s => withOperands (parseBlock p) s fun o => blockDrain tag o.1 s

/-- CIRCUIT BLOCK, FORCED. -/
def execCircuitBlockForced (tag : Tag) (payload : List Byte) (s : State) : Host.Outcome State Fault Refusal :=
  if namesOtherMode .forced payload then .refused .otherRow
  else request 0x04 tag payload s fun p s => withOperands (parseBlock p) s fun o => blockForced o.1 s

/-- Positions in scope that stand in the span's watch set (R9). -/
def State.watchedIn (s : State) (sc : Scope) : List Nat :=
  match (s.span sc.spanIndex).watch with
  | none => []
  | some w => (sc.circuits.map positionOf).filter fun p => w.positions.contains p

/-- CIRCUIT UNBLOCK (R9). -/
def unblock (sc : Scope) (s : State) : Body × State :=
  let cleared := sc.circuits.foldl (fun s n => (s.setLocalBlock n false).unwatch n) s
  (.unblocked (s.watchedIn sc).length, cleared.completeWatch sc.spanIndex .unblocked)

/-- CIRCUIT UNBLOCK. -/
def execCircuitUnblock (tag : Tag) (payload : List Byte) (s : State) : Host.Outcome State Fault Refusal :=
  request 0x05 tag payload s fun p s => withOperands (parseScope p) s fun sc => unblock sc s

/-! ### Remote blocking -/

/-- Sets or clears the remote block of every circuit in scope (R13, R14). -/
def setRemote (b : Bool) (sc : Scope) (s : State) : Body × State :=
  (.result .ok, sc.circuits.foldl (fun s n => s.setRemoteBlock n b) s)

/-- REMOTE BLOCK (R13). -/
def execRemoteBlock (tag : Tag) (payload : List Byte) (s : State) : Host.Outcome State Fault Refusal :=
  request 0x06 tag payload s fun p s => withOperands (parseScope p) s fun sc => setRemote true sc s

/-- REMOTE UNBLOCK (R14). -/
def execRemoteUnblock (tag : Tag) (payload : List Byte) (s : State) : Host.Outcome State Fault Refusal :=
  request 0x07 tag payload s fun p s => withOperands (parseScope p) s fun sc => setRemote false sc s

/-! ### Incoming seizure and release -/

/-- This exchange controls a circuit in glare (R39). -/
def GlareControl.controls (g : GlareControl) (circuit : Nat) : Bool :=
  match g with
  | .all => true
  | .noCircuit => false
  | .odd => positionOf circuit % 2 == 1
  | .even => positionOf circuit % 2 == 0

/-- The judgement of an INCOMING SEIZE, by the rows of R15. -/
inductive SeizeRow where
  | refused (r : Result)
  | glare (group handle : Nat) (call : Call)
  | accepted
deriving DecidableEq, Repr

/-- The first row of R15 that applies. -/
def State.seizeRow (s : State) (n : Nat) : SeizeRow :=
  let c := s.circuit n
  match c.group with
  | none => .refused .wrongDirection
  | some g =>
    if (s.group g).defn.kind = .out then .refused .wrongDirection
    else if c.localBlock then .refused .blocked
    else match c.usage with
      | .incoming => .refused .duplicate
      | .idle => .accepted
      | .outgoing h =>
        match s.call h with
        | none => .refused .circuitBusy
        | some call => if call.answered then .refused .circuitBusy else .glare g h call

/-- Glare: counted, then held by this exchange, or given to the far end and the call rerouted (R39 to R41). -/
def State.glare (s : State) (n g h : Nat) (call : Call) : Body × State :=
  let counted := s.countStats g Stats.addGlare
  if (s.group g).defn.glareControl.controls n then (.result .glareHeld, counted)
  else
    let taken := (counted.setRemoteBlock n false).setUsage n .incoming
    (.result .acceptedGlare, taken.glareReroute h call)

/-- INCOMING SEIZE (R15 to R17). -/
def incomingSeize (n : Nat) (s : State) : Body × State :=
  match s.seizeRow n with
  | .refused r => refuse r s
  | .glare g h call => s.glare n g h call
  | .accepted => (.result .ok, (s.setRemoteBlock n false).setUsage n .incoming)

/-- INCOMING SEIZE. -/
def execIncomingSeize (tag : Tag) (payload : List Byte) (s : State) : Host.Outcome State Fault Refusal :=
  request 0x08 tag payload s fun p s => withOperands (parseCircuit p) s fun n => incomingSeize n s

/-- INCOMING RELEASE (R18). -/
def incomingRelease (n : Nat) (s : State) : Body × State :=
  match (s.circuit n).usage with
  | .incoming => (.result .ok, (s.makeIdle n).completeWatch (spanOf n) .idle)
  | _ => refuse .wrongState s

/-- INCOMING RELEASE. -/
def execIncomingRelease (tag : Tag) (payload : List Byte) (s : State) : Host.Outcome State Fault Refusal :=
  request 0x09 tag payload s fun p s => withOperands (parseCircuit p) s fun n => incomingRelease n s

/-! ### The audit and the span report -/

/-- Compares one audited circuit with its far view (R20 to R22). -/
def State.auditCircuit (s : State) (n : Nat) (v : FarView) : State × AuditOutcome :=
  let c := s.circuit n
  if c.group = none then (s, .matched)
  else match v with
    | .idle =>
      match c.usage with
      | .idle => if c.remoteBlock then (s.setRemoteBlock n false, .corrected) else (s, .matched)
      | .incoming => ((s.makeIdle n).setRemoteBlock n false, .corrected)
      | .outgoing _ => (s, .mismatch)
    | .busy => if c.usage.busy then (s, .matched) else (s.setUsage n .incoming, .corrected)
    | .blocked => if c.remoteBlock then (s, .matched) else (s.setRemoteBlock n true, .corrected)

/-- Compares the audited positions of a span in ascending order, from position `p` on (R19, R23). -/
def auditFrom (span : Nat) : Nat → List FarView → State → State × List (Nat × AuditOutcome)
  | _, [], s => (s, [])
  | p, v :: rest, s =>
    let one := s.auditCircuit (span * 32 + p) v
    let more := auditFrom span (p + 1) rest one.1
    (more.1, (p, one.2) :: more.2)

/-- The audited positions with an outcome, counted (R23). -/
def countOutcome (o : AuditOutcome) (l : List (Nat × AuditOutcome)) : Nat := (l.filter fun e => e.2 == o).length

/-- CIRCUIT AUDIT (R19 to R23). -/
def circuitAudit (span first : Nat) (views : List FarView) (s : State) : Body × State :=
  let (compared, result) := auditFrom span first views s
  let kept := compared.setSpan span { compared.span span with lastAudit := some result }
  let flagged := if result.any (fun e => e.2 != .matched) then kept.setFlag .audit else kept
  (.audited span first views.length (countOutcome .matched result) (countOutcome .corrected result)
      (countOutcome .mismatch result) result,
    flagged.completeWatch span .idle)

/-- CIRCUIT AUDIT. -/
def execCircuitAudit (tag : Tag) (payload : List Byte) (s : State) : Host.Outcome State Fault Refusal :=
  request 0x0A tag payload s fun p s => withOperands (parseAudit p) s fun o => circuitAudit o.1 o.2.1 o.2.2 s

/-- SPAN REPORT (R24). -/
def spanReport (sp : Nat) (s : State) : Body × State :=
  (.spanReport ((Scope.span sp).circuits.map s.circuit) (s.span sp), s)

/-- SPAN REPORT. -/
def execSpanReport (tag : Tag) (payload : List Byte) (s : State) : Host.Outcome State Fault Refusal :=
  request 0x0B tag payload s fun p s => withOperands (parseIndex 255 p) s fun sp => spanReport sp s

end Sys2Proof.Machine
end

