-- ==== Sys2Proof/Machine/GuardCmds.lean ====
section
/-! DEFINITION. Chapter 7: the guard condition, its evaluation, the GUARD report, and the guard's requests. -/

namespace Sys2Proof.Machine

open Sys2Proof

/-- Reports a change of guard state from `old`; an event that leaves the state reports nothing (R117). -/
def State.reportGuard (s : State) (old : GuardState) (cause : GuardCause) (measures : Option (Nat × Nat)) :
    State :=
  if s.guard.state = old then s
  else (s.setFlag .guard).raiseIf (s.enabled .guard) codeGuard
    (.noticeGuard old s.guard.state s.guard.setting cause measures s.time.seconds)

/-- The guard condition (R114). -/
def Guard.condition (g : Guard) (congested depth : Nat) : Bool :=
  decide (g.gGroups ≠ 0 ∧ g.gGroups ≤ congested) || decide (g.qGuard ≠ 0 ∧ g.qGuard ≤ depth)

/-- State and clear-sample count after an evaluation in AUTO (R115). -/
def Guard.autoStep (g : Guard) (condition : Bool) : Guard :=
  match g.state, condition with
  | .normal, true => { g with state := .guarded, clearCount := 0 }
  | .normal, false => { g with clearCount := 0 }
  | .guarded, true => { g with clearCount := 0 }
  | .guarded, false =>
    if g.clearCount + 1 < 3 then { g with clearCount := g.clearCount + 1 }
    else { g with state := .normal, clearCount := 0 }

/-- The guard record after an evaluation: the last evaluation is written in every setting, the state moves in AUTO
alone (R114 to R116). -/
def Guard.evaluated (g : Guard) (seconds congested depth : Nat) : Guard :=
  let c := g.condition congested depth
  let eval : GuardEval := { seconds := seconds, congested := congested, depth := depth, condition := c }
  let recorded := { g with lastEval := some eval }
  if g.setting = .auto then recorded.autoStep c else recorded

/-- The evaluation at the end of a sample (R114 to R117). -/
def State.evaluateGuard (s : State) (congested depth : Nat) : State :=
  let g := s.guard.evaluated s.time.seconds congested depth
  let cause := match g.state with
    | .guarded => GuardCause.condition
    | .normal => GuardCause.cleared
  State.reportGuard { s with guard := g } s.guard.state cause (some (congested, depth))

/-- The guard record after GUARD SET (R118). -/
def Guard.set (g : Guard) (setting : GuardSetting) : Guard :=
  let state := match setting with
    | .auto => g.state
    | .forceOn => .guarded
    | .forceOff => .normal
  { g with setting := setting, clearCount := 0, state := state }

/-- GUARD SET (R118). -/
def guardSet (setting : GuardSetting) (s : State) : Body × State :=
  let g := s.guard.set setting
  (.guardSet s.guard.setting s.guard.state g.setting g.state g.clearCount,
    State.reportGuard { s with guard := g } s.guard.state .setting none)

/-- GUARD SET. -/
def execGuardSet (tag : Tag) (payload : List Byte) (s : State) : Host.Outcome State Fault Refusal :=
  request 0x21 tag payload s fun p s => withOperands (parseGuardSet p) s fun g => guardSet g s

/-- A value clamped into a range (R106, R119). -/
def clamp (low high n : Nat) : Nat := if n < low then low else if high < n then high else n

/-- GUARD PARAMETERS (R119). -/
def guardParameters (gGroups qGuard depth : Nat) (s : State) : Body × State :=
  let d := clamp 1 8 depth
  (.guardParameters gGroups qGuard d (d != depth),
    { s with guard := { s.guard with gGroups := gGroups, qGuard := qGuard, depth := d } })

/-- GUARD PARAMETERS. -/
def execGuardParameters (tag : Tag) (payload : List Byte) (s : State) : Host.Outcome State Fault Refusal :=
  request 0x22 tag payload s fun p s =>
    withOperands (parseGuardParameters p) s fun o => guardParameters o.1 o.2.1 o.2.2 s

/-- GUARD READ (R120). -/
def execGuardRead (tag : Tag) (payload : List Byte) (s : State) : Host.Outcome State Fault Refusal :=
  request 0x23 tag payload s fun p s =>
    withOperands (parseEmpty p) s fun _ => (.guardRead s.guard s.monitor.hold, s)

end Sys2Proof.Machine
end

