-- ==== Sys2Proof/Machine/MonitorCmds.lean ====
section
/-! DEFINITION. Chapter 6: the sample, statistics rollover, hold and resume, and the monitor's requests. -/

namespace Sys2Proof.Machine

open Sys2Proof

/-! ### The sample -/

/-- The class of a sample from available count and interval overflow count (R99). -/
def GroupDefn.sampleClass (d : GroupDefn) (available overflows : Nat) : Level :=
  if available ≤ d.tCong ∨ d.oCong ≤ overflows then .congested
  else if available ≤ d.tBusy ∨ 1 ≤ overflows then .busy
  else .clear

/-- The new class joins a history (R100). -/
def History.shift (h : History) (c : Level) : History :=
  { oldest := h.middle, middle := h.newest, newest := c }

/-- The median of three classes (R100). -/
def History.median (h : History) : Level :=
  if h.oldest = h.middle ∨ h.oldest = h.newest then h.oldest
  else if h.middle = h.newest then h.middle
  else .busy

/-- The sample counts advance (R102). -/
def Stats.addSample (t : Stats) (busy : Nat) : Stats :=
  { t with busySampleSum := t.busySampleSum + busy
           samplesTaken := t.samplesTaken + 1
           peakBusy := max t.peakBusy busy }

/-- A group after a sample that finds `available` members available (R99, R100, R102). -/
def Group.sampled (grp : Group) (available : Nat) : Group :=
  let history := grp.history.shift (grp.defn.sampleClass available grp.overflowCount)
  { grp with history := history
             level := history.median
             overflowCount := 0
             current := grp.current.addSample grp.busyCount }

/-- Samples one group, and reports a change of its level (R99 to R102). -/
def State.sampleGroup (s : State) (g : Nat) : State :=
  match Table.find s.groups g with
  | none => s
  | some grp =>
    let after := grp.sampled (s.availableCount grp)
    let written := s.modifyGroup g fun _ => after
    if after.level = grp.level then written
    else (written.setFlag .level).raiseIf (s.enabled .level && grp.defn.levelNotice) codeLevel
      (.noticeLevel g grp.level after.level)

/-- A group at a statistics rollover (R104). -/
def Group.rolledOver (grp : Group) : Group := { grp with previous := grp.current, current := Stats.zero }

/-- Samples in interval rises; at the statistics interval, every group rolls over (R104). -/
def State.rollover (s : State) : State :=
  let n := s.monitor.samplesInInterval + 1
  if s.monitor.statsInterval ≤ n then
    { s with groups := Table.mapAll s.groups Group.rolledOver
             monitor := { s.monitor with samplesInInterval := 0 } }
  else { s with monitor := { s.monitor with samplesInInterval := n } }

/-- Defined groups at a level (R102, R110). -/
def State.groupsAt (s : State) (l : Level) : Nat := (s.groups.filter fun e => e.2.level == l).length

/-- A sample: every defined group in ascending index, the rollover, the guard (R99 to R102, R104, R114). -/
def State.sample (s : State) : State :=
  let sampled := (s.groups.map fun e => e.1).foldl State.sampleGroup s
  let rolled := sampled.rollover
  let timed := { rolled with monitor := { rolled.monitor with
    nextSample := some (wrap32 (s.time.seconds + s.monitor.sampleInterval)) } }
  timed.evaluateGuard (timed.groupsAt .congested) timed.link.requests.length

/-- A sample instant is due: next sample equals device seconds (R98). -/
def State.sampleDue (s : State) : Bool := s.monitor.nextSample == some s.time.seconds

/-- SAMPLE_INSTANT (R98, R108). -/
def execSampleInstant (s : State) : Host.Outcome State Fault Refusal :=
  if s.resetLow || !s.sampleDue then .next s
  else match s.monitor.hold with
    | .running => .next s.sample
    | .holdPending => .next { s with monitor := { s.monitor with hold := .held, nextSample := none } }
    | .held => .next s

/-! ### Requests -/

/-- GROUP REPORT (R105). -/
def groupReport (g : Nat) (clear : Bool) (s : State) : Body × State :=
  match Table.find s.groups g with
  | none => refuse .noSuchObject s
  | some grp =>
    (.groupReport g grp.level grp.history grp.overflowCount grp.current grp.previous s.monitor.samplesInInterval
        s.monitor.statsInterval s.monitor.hold,
      if clear then s.countStats g fun _ => Stats.zero else s)

/-- GROUP REPORT. -/
def execGroupReport (tag : Tag) (payload : List Byte) (s : State) : Host.Outcome State Fault Refusal :=
  request 0x1C tag payload s fun p s => withOperands (parseGroupReport p) s fun o => groupReport o.1 o.2 s

/-- MONITOR SET (R106). -/
def monitorSet (sample stats : Nat) (s : State) : Body × State :=
  let a := clamp 1 60 sample
  let b := clamp 1 720 stats
  (.monitorSet a b (a != sample) (b != stats) s.monitor.nextSample,
    { s with monitor := { s.monitor with sampleInterval := a, statsInterval := b } })

/-- MONITOR SET. -/
def execMonitorSet (tag : Tag) (payload : List Byte) (s : State) : Host.Outcome State Fault Refusal :=
  request 0x1D tag payload s fun p s => withOperands (parseTwo p) s fun o => monitorSet o.1 o.2 s

/-- MONITOR HOLD (R107). Next sample is present in RUNNING (R96). -/
def monitorHold (s : State) : Body × State :=
  match s.monitor.hold, s.monitor.nextSample with
  | .running, some n =>
    (.holdTaken .holdPending n, { s with monitor := { s.monitor with hold := .holdPending } })
  | _, _ => refuse .wrongState s

/-- MONITOR HOLD. -/
def execMonitorHold (tag : Tag) (payload : List Byte) (s : State) : Host.Outcome State Fault Refusal :=
  request 0x1E tag payload s fun p s => withOperands (parseEmpty p) s fun _ => monitorHold s

/-- A group at a resume: its interval overflow count is zeroed (R109). -/
def Group.resumed (grp : Group) : Group := { grp with overflowCount := 0 }

/-- MONITOR RESUME (R109). Next sample is present in HOLD_PENDING (R96). -/
def monitorResume (s : State) : Body × State :=
  match s.monitor.hold, s.monitor.nextSample with
  | .held, _ =>
    let next := wrap32 (s.time.seconds + s.monitor.sampleInterval)
    (.resumed true next,
      { s with groups := Table.mapAll s.groups Group.resumed
               monitor := { s.monitor with hold := .running, nextSample := some next } })
  | .holdPending, some n => (.resumed false n, { s with monitor := { s.monitor with hold := .running } })
  | _, _ => refuse .wrongState s

/-- MONITOR RESUME. -/
def execMonitorResume (tag : Tag) (payload : List Byte) (s : State) : Host.Outcome State Fault Refusal :=
  request 0x1F tag payload s fun p s => withOperands (parseEmpty p) s fun _ => monitorResume s

/-- MONITOR READ (R110). -/
def execMonitorRead (tag : Tag) (payload : List Byte) (s : State) : Host.Outcome State Fault Refusal :=
  request 0x20 tag payload s fun p s => withOperands (parseEmpty p) s fun _ =>
    (.monitorRead s.monitor (s.groupsAt .clear) (s.groupsAt .busy) (s.groupsAt .congested), s)

end Sys2Proof.Machine
end

