-- ==== Sys2Proof/Machine/ClockCmds.lean ====
section
/-! DEFINITION. Chapter 8: the one-second advance, the clock, the band map, the tariffs and their activation. -/

namespace Sys2Proof.Machine

open Sys2Proof

/-! ### Activation -/

/-- A tariff's pending version is reached by the clock (R132). -/
def Tariff.reachedBy (e : Tariff) (clock : Instant) : Bool := e.staged.any fun p => p.effective.reachedBy clock

/-- The tariffs whose pending version is reached, in ascending index (R132). -/
def State.reachedTariffs (s : State) : List Nat :=
  (s.tariffs.filter fun e => e.2.reachedBy s.clock).map fun e => e.1

/-- Activates a tariff's pending version (R132). -/
def State.activateTariff (cause : TariffCause) (s : State) (t : Nat) : State :=
  match (Table.find s.tariffs t).bind fun e => e.staged with
  | none => s
  | some p =>
    let written := { s with tariffs := Table.modify s.tariffs t fun _ => { active := p.version, staged := none } }
    (written.setFlag .tariff).raiseIf (s.enabled .tariff) codeTariff
      (.noticeTariff t p.effective cause s.clock s.time.seconds (s.groupsOnTariff t) (s.ratingsOnTariff t))

/-- Activates every pending version the clock has reached, in ascending tariff index (R126, R132). -/
def State.activateReached (s : State) (cause : TariffCause) : State :=
  s.reachedTariffs.foldl (State.activateTariff cause) s

/-- PENDING_TARIFF_SWITCH (R132): a switch that finds no tariff to activate does nothing. -/
def execPendingTariffSwitch (s : State) : Host.Outcome State Fault Refusal :=
  if s.resetLow then .next s else .next (s.activateReached .advance)

/-! ### The one-second advance -/

/-- An answered foreign call is due for its increment (R142). -/
def State.incrementDue (s : State) (c : Call) : Bool :=
  c.answered && c.rating.any fun r => r.nextDue == s.time.seconds

/-- An event brought by the present second has not been taken (R124), or a sweep visit is due before the next
advance (R162). -/
def State.secondUnfinished (s : State) : Bool :=
  s.sampleDue || s.periods.boundaryWaiting || s.calls.any (fun e => s.incrementDue e.2) ||
    !s.reachedTariffs.isEmpty || s.periods.sweep.any fun sw => sw.visitBeforeAdvance

/-- The clock one second on (R124). -/
def TimeBase.advance (t : TimeBase) : TimeBase :=
  if t.timeOfDay + 1 = 86400 then
    { seconds := wrap32 (t.seconds + 1), timeOfDay := 0, day := (t.day + 1) % 65536 }
  else { seconds := wrap32 (t.seconds + 1), timeOfDay := t.timeOfDay + 1, day := t.day }

/-- A time of day is on a period boundary (R125). -/
def Periods.onBoundary (p : Periods) (timeOfDay : Nat) : Bool := timeOfDay % (p.length * 60) == 0

/-- The one-second advance: the clock moves and a boundary is judged (R124, R125). -/
def State.advance (s : State) : State :=
  let t := s.time.advance
  { s with time := t
           periods := { s.periods with
             boundaryWaiting := s.periods.onBoundary t.timeOfDay
             sweep := s.periods.sweep.map fun sw => { sw with visitBeforeAdvance := true } } }

/-- ONE_SECOND_ADVANCE (R124): the events of a second are taken before the next advance (log 4). -/
def execOneSecondAdvance (s : State) : Host.Outcome State Fault Refusal :=
  if s.resetLow || s.secondUnfinished then .next s else .next s.advance

/-! ### Clock and band map requests -/

/-- CLOCK SET (R126). -/
def clockSet (i : Instant) (s : State) : Body × State :=
  let set := { s with time := { s.time with timeOfDay := i.time, day := i.day } }
  (.clockSet s.clock i s.time.seconds set.slot set.band set.reachedTariffs.length, set.activateReached .clockSet)

/-- CLOCK SET. -/
def execClockSet (tag : Tag) (payload : List Byte) (s : State) : Host.Outcome State Fault Refusal :=
  request 0x24 tag payload s fun p s => withOperands (parseClockSet p) s fun i => clockSet i s

/-- The earlier of an instant and another that may be absent. -/
def Instant.earlier (i : Instant) : Option Instant → Instant
  | none => i
  | some j => if i.reachedBy j then i else j

/-- The earliest effective instant among the pending versions (R127). -/
def earliestStaged : List (Nat × Tariff) → Option Instant
  | [] => none
  | e :: rest =>
    match e.2.staged with
    | none => earliestStaged rest
    | some p => some (p.effective.earlier (earliestStaged rest))

/-- CLOCK READ (R127). -/
def execClockRead (tag : Tag) (payload : List Byte) (s : State) : Host.Outcome State Fault Refusal :=
  request 0x25 tag payload s fun p s => withOperands (parseEmpty p) s fun _ =>
    (.clockRead s.time.seconds s.clock s.slot s.band (s.tariffs.filter fun e => e.2.staged.isSome).length
      (earliestStaged s.tariffs), s)

/-- Slots whose band differs between two maps (R129). -/
def changedSlots (old new : List Nat) : Nat :=
  ((List.range 48).filter fun i => old.getD i 0 != new.getD i 0).length

/-- BAND MAP WRITE (R129). -/
def bandMapWrite (bands : List Nat) (s : State) : Body × State :=
  let written := { s with bandMap := bands }
  (.bandMapWritten (changedSlots s.bandMap bands) written.band, written)

/-- BAND MAP WRITE. -/
def execBandMapWrite (tag : Tag) (payload : List Byte) (s : State) : Host.Outcome State Fault Refusal :=
  request 0x26 tag payload s fun p s => withOperands (parseBandMap p) s fun b => bandMapWrite b s

/-- BAND MAP READ (R129). -/
def execBandMapRead (tag : Tag) (payload : List Byte) (s : State) : Host.Outcome State Fault Refusal :=
  request 0x27 tag payload s fun p s =>
    withOperands (parseEmpty p) s fun _ => (.bandMapRead s.bandMap s.slot s.band, s)

/-! ### Tariff requests -/

/-- A tariff after TARIFF WRITE, and the disposition (R131). `later` is an effective instant not yet reached. -/
def tariffAfterWrite (before : Option Tariff) (v : Version) (later : Option Instant) :
    Except Result (Tariff × TariffDisposition) :=
  match before, later with
  | none, some _ => .error .noSuchObject
  | none, none => .ok ({ active := v, staged := none }, .defined)
  | some e, none => .ok ({ e with active := v }, .activeReplaced)
  | some e, some i =>
    .ok ({ e with staged := some { version := v, effective := i } },
      if e.staged.isSome then .restaged else .staged)

/-- TARIFF WRITE (R131). -/
def tariffWrite (t : Nat) (v : Version) (effective : Option Instant) (s : State) : Body × State :=
  let later := effective.filter fun i => !i.reachedBy s.clock
  match tariffAfterWrite (Table.find s.tariffs t) v later with
  | .error r => refuse r s
  | .ok (e, disposition) =>
    (.tariffWritten disposition (e.staged.map fun p => p.effective) (s.groupsOnTariff t) (s.ratingsOnTariff t),
      { s with tariffs := Table.put s.tariffs t e })

/-- TARIFF WRITE. -/
def execTariffWrite (tag : Tag) (payload : List Byte) (s : State) : Host.Outcome State Fault Refusal :=
  request 0x28 tag payload s fun p s => withOperands (parseTariffWrite p) s fun o => tariffWrite o.1 o.2.1 o.2.2 s

/-- TARIFF CANCEL (R133). -/
def tariffCancel (t : Nat) (s : State) : Body × State :=
  match Table.find s.tariffs t with
  | none => refuse .noSuchObject s
  | some e =>
    match e.staged with
    | none => refuse .wrongState s
    | some p =>
      (.tariffCancelled p.effective, { s with tariffs := Table.put s.tariffs t { e with staged := none } })

/-- TARIFF CANCEL. -/
def execTariffCancel (tag : Tag) (payload : List Byte) (s : State) : Host.Outcome State Fault Refusal :=
  request 0x29 tag payload s fun p s => withOperands (parseIndex 255 p) s fun t => tariffCancel t s

/-- TARIFF DELETE (R134). -/
def tariffDelete (t : Nat) (s : State) : Body × State :=
  match Table.find s.tariffs t with
  | none => refuse .noSuchObject s
  | some e =>
    if 0 < s.groupsOnTariff t then refuse .objectInUse s
    else if 0 < s.ratingsOnTariff t then refuse .objectInUse s
    else (.tariffDeleted e.staged.isSome, { s with tariffs := Table.erase s.tariffs t })

/-- TARIFF DELETE. -/
def execTariffDelete (tag : Tag) (payload : List Byte) (s : State) : Host.Outcome State Fault Refusal :=
  request 0x2A tag payload s fun p s => withOperands (parseIndex 255 p) s fun t => tariffDelete t s

/-- TARIFF READ (R135). -/
def tariffRead (t : Nat) (s : State) : Body × State :=
  match Table.find s.tariffs t with
  | none => refuse .noSuchObject s
  | some e => (.tariffRead e (s.groupsOnTariff t) (s.ratingsOnTariff t) s.band (e.active.rate s.band), s)

/-- TARIFF READ. -/
def execTariffRead (tag : Tag) (payload : List Byte) (s : State) : Host.Outcome State Fault Refusal :=
  request 0x2B tag payload s fun p s => withOperands (parseIndex 255 p) s fun t => tariffRead t s

/-! ### Increments -/

/-- INCREMENT of the call on a handle, taken when it is due (R142); an increment that finds its call closed is not
taken. -/
def execIncrement (handle : Nat) (s : State) : Host.Outcome State Fault Refusal :=
  match s.call handle with
  | none => .next s
  | some c =>
    match c.rating with
    | none => .next s
    | some r =>
      if s.resetLow || !s.incrementDue c then .next s else .next (s.incrementCall handle c r)

end Sys2Proof.Machine
end

