-- ==== Sys2Proof/Machine/GroupCmds.lean ====
section
/-! DEFINITION. Chapter 2: defining, changing, deleting and reading trunk groups. -/

namespace Sys2Proof.Machine

open Sys2Proof

/-- The carrier a definition names is defined (R27). -/
def State.carrierNamed (s : State) (d : GroupDefn) : Bool := s.carrierDefined d.carrier

/-- The tariff a definition needs is present and defined (R27). -/
def State.tariffNamed (s : State) (d : GroupDefn) : Bool :=
  d.carrier == 0 ||
    match d.tariff with
    | some t => (Table.find s.tariffs t).isSome
    | none => false

/-- A new group (R27). -/
def Group.fresh (d : GroupDefn) (members : List Nat) : Group :=
  { defn := d, members := members, busyCount := 0, rotary := members.length - 1, overflowCount := 0,
    history := History.allClear, level := .clear, current := Stats.zero, previous := Stats.zero }

/-- Writes the group field of circuits (R1). -/
def State.setGroupOf (s : State) (ns : List Nat) (g : Option Nat) : State :=
  ns.foldl (fun s n => s.setCircuit n { s.circuit n with group := g }) s

/-- GROUP DEFINE (R27). -/
def groupDefine (g : Nat) (d : GroupDefn) (members : List Nat) (s : State) : Body × State :=
  if s.groupDefined g then refuse .duplicate s
  else if !s.carrierNamed d then refuse .noSuchObject s
  else if !s.tariffNamed d then refuse .noSuchObject s
  else if members.any (fun n => (s.circuit n).group != none) then refuse .objectInUse s
  else
    let listed := s.setGroupOf members (some g)
    (.result .ok, { listed with groups := Table.put listed.groups g (Group.fresh d members) })

/-- GROUP DEFINE. -/
def execGroupDefine (tag : Tag) (payload : List Byte) (s : State) : Host.Outcome State Fault Refusal :=
  request 0x0C tag payload s fun p s => withOperands (parseGroupDefine p) s fun o => groupDefine o.1 o.2.1 o.2.2 s

/-- A circuit is OUTGOING. -/
def Usage.isOutgoing : Usage → Bool
  | .outgoing _ => true
  | _ => false

/-- GROUP CHANGE (R28). -/
def groupChange (g : Nat) (d : GroupDefn) (s : State) : Body × State :=
  match Table.find s.groups g with
  | none => refuse .noSuchObject s
  | some grp =>
    if !s.carrierNamed d then refuse .noSuchObject s
    else if !s.tariffNamed d then refuse .noSuchObject s
    else if d.carrier ≠ grp.defn.carrier ∧ grp.members.any (fun n => (s.circuit n).usage.isOutgoing)
    then refuse .objectInUse s
    else (.result .ok, s.modifyGroup g fun grp => { grp with defn := d })

/-- GROUP CHANGE. -/
def execGroupChange (tag : Tag) (payload : List Byte) (s : State) : Host.Outcome State Fault Refusal :=
  request 0x0D tag payload s fun p s => withOperands (parseGroupChange p) s fun o => groupChange o.1 o.2 s

/-- GROUP MEMBERS (R29). -/
def groupMembers (g : Nat) (members : List Nat) (s : State) : Body × State :=
  match Table.find s.groups g with
  | none => refuse .noSuchObject s
  | some grp =>
    let added := members.filter fun n => !grp.members.contains n
    let removed := grp.members.filter fun n => !members.contains n
    if members.any (fun n => (s.circuit n).group != none && (s.circuit n).group != some g)
    then refuse .objectInUse s
    else if removed.any (fun n => (s.circuit n).usage.busy) then refuse .objectInUse s
    else
      let moved := (s.setGroupOf removed none).setGroupOf added (some g)
      (.membersReplaced added.length (members.length - added.length) removed.length,
        moved.modifyGroup g fun grp => { grp with members := members, rotary := members.length - 1 })

/-- GROUP MEMBERS. -/
def execGroupMembers (tag : Tag) (payload : List Byte) (s : State) : Host.Outcome State Fault Refusal :=
  request 0x0E tag payload s fun p s => withOperands (parseGroupMembers p) s fun o => groupMembers o.1 o.2 s

/-- A group is named by an entry of some route plan (R30). -/
def State.groupInPlan (s : State) (g : Nat) : Bool :=
  s.plans.any fun e => e.2.entries.any fun x => x.group == g

/-- A group is the incoming group of some call (R30). -/
def State.groupIncoming (s : State) (g : Nat) : Bool :=
  s.calls.any fun e => e.2.incomingGroup == some g

/-- GROUP DELETE (R30). -/
def groupDelete (g : Nat) (s : State) : Body × State :=
  match Table.find s.groups g with
  | none => refuse .noSuchObject s
  | some grp =>
    if 0 < grp.busyCount then refuse .objectInUse s
    else if s.groupInPlan g then refuse .objectInUse s
    else if s.groupIncoming g then refuse .objectInUse s
    else
      let freed := s.setGroupOf grp.members none
      (.result .ok, { freed with groups := Table.erase freed.groups g })

/-- GROUP DELETE. -/
def execGroupDelete (tag : Tag) (payload : List Byte) (s : State) : Host.Outcome State Fault Refusal :=
  request 0x0F tag payload s fun p s => withOperands (parseIndex 255 p) s fun g => groupDelete g s

/-- GROUP READ (R31). -/
def groupRead (g : Nat) (s : State) : Body × State :=
  match Table.find s.groups g with
  | none => refuse .noSuchObject s
  | some grp =>
    (.groupRead grp.defn grp.members grp.members.length grp.busyCount (s.availableCount grp) grp.rotary
      grp.overflowCount, s)

/-- GROUP READ. -/
def execGroupRead (tag : Tag) (payload : List Byte) (s : State) : Host.Outcome State Fault Refusal :=
  request 0x10 tag payload s fun p s => withOperands (parseIndex 255 p) s fun g => groupRead g s

end Sys2Proof.Machine
end

