-- ==== Sys2Proof/Machine/QueueCmds.lean ====
section
/-! DEFINITION. Chapter 11: RECORD FETCH, QUEUE THRESHOLDS, DRAIN MODE, QUEUE READ, and the record notices. -/

namespace Sys2Proof.Machine

open Sys2Proof

/-- The records at the head that a fetch does not take: one in transmission (R176). -/
def State.recordsHeld (s : State) : Nat := if s.recordInTransmission then 1 else 0

/-- RECORD FETCH (R176). -/
def recordFetch (n : Nat) (s : State) : Body × State :=
  if s.records.mode = .stream then refuse .wrongState s
  else
    let free := s.records.queue.drop s.recordsHeld
    let taken := free.take (min n 32)
    let left := s.records.queue.take s.recordsHeld ++ free.drop (min n 32)
    let removed := { s with records := { s.records with queue := left } }
    (.fetched taken left.length, if taken = [] then s else removed.evaluateThresholds .count)

/-- RECORD FETCH. -/
def execRecordFetch (tag : Tag) (payload : List Byte) (s : State) : Host.Outcome State Fault Refusal :=
  request 0x32 tag payload s fun p s => withOperands (parseOne p) s fun n => recordFetch n s

/-- QUEUE THRESHOLDS (R175). -/
def queueThresholds (ae af : Nat) (s : State) : Body × State :=
  let a := min ae 2047
  let f := min af 2047
  let written := { s with records := { s.records with ae := a, af := f } }
  (.thresholds a f (a != ae) (f != af) s.recordCount written.records.emptyHolds written.records.fullHolds,
    written.evaluateThresholds .thresholdWritten)

/-- QUEUE THRESHOLDS. -/
def execQueueThresholds (tag : Tag) (payload : List Byte) (s : State) : Host.Outcome State Fault Refusal :=
  request 0x33 tag payload s fun p s => withOperands (parseTwo p) s fun o => queueThresholds o.1 o.2 s

/-- DRAIN MODE (R178). An offered record is offered and withdrawn with the mode (R177). -/
def drainMode (m : DrainMode) (s : State) : Body × State :=
  (.drainMode s.records.mode m s.recordCount s.recordInTransmission,
    { s with records := { s.records with mode := m } })

/-- DRAIN MODE. -/
def execDrainMode (tag : Tag) (payload : List Byte) (s : State) : Host.Outcome State Fault Refusal :=
  request 0x34 tag payload s fun p s => withOperands (parseDrainMode p) s fun m => drainMode m s

/-- QUEUE READ (R180). -/
def queueRead (s : State) : Body × State :=
  let q := s.records
  let head := q.queue.head?
  (.queueRead s.recordCount q.mode q.ae q.af q.almostEmpty q.almostFull
      (if s.recordInTransmission then head.map fun r => (r.serial, r.sequence) else none)
      head q.dropped q.lost q.lastLost, s)

/-- QUEUE READ. -/
def execQueueRead (tag : Tag) (payload : List Byte) (s : State) : Host.Outcome State Fault Refusal :=
  request 0x35 tag payload s fun p s => withOperands (parseEmpty p) s fun _ => queueRead s

/-- RECORD_NOTICE_BEGIN (R177, R186, R188): the idle transmitter, with nothing in the send list, begins the RECORD
notice of the offered head record. Its number is the counter's value before it rises (log 23). -/
def execRecordNoticeBegin (s : State) : Host.Outcome State Fault Refusal :=
  match s.link.transmitter, s.link.sendList, s.records.mode, s.records.queue with
  | none, [], .stream, r :: _ =>
    if s.resetLow then .next s
    else .next { s with link := { s.link with
      transmitter := some { code := codeRecord, tag := s.link.noticeCounter,
                            body := .noticeRecord r (s.recordCount - 1) }
      noticeCounter := s.link.noticeCounter + 1 } }
  | _, _, _, _ => .next s

/-- RECORD_NOTICE_END (R177): the record leaves the head of the queue and the thresholds are evaluated. -/
def execRecordNoticeEnd (s : State) : Host.Outcome State Fault Refusal :=
  if s.resetLow || !s.recordInTransmission then .next s
  else
    let sent := { s with link := { s.link with transmitter := none }
                         records := { s.records with queue := s.records.queue.tail } }
    .next (sent.evaluateThresholds .count)

end Sys2Proof.Machine
end

