-- ==== Sys2Proof/Machine/Wire.lean ====
section
/-! DEFINITION. The bytes of the link: the CRC and the frames (R183), the payloads of replies and notices (R186,
R194), the settlement record (section 12.6). Byte positions the prose leaves to a reading: logs 19 and 20. -/

namespace Sys2Proof.Machine

/-! ### The CRC and frames -/

/-- One bit of the CRC (R183). -/
def crcBit (register : BitVec 16) (data : Bool) : BitVec 16 :=
  let shifted := register <<< 1
  if register.getLsbD 15 != data then shifted ^^^ 0x1021#16 else shifted

/-- One byte of the CRC, most significant bit first (R183). -/
def crcByte (register : BitVec 16) (b : Byte) : BitVec 16 :=
  [7, 6, 5, 4, 3, 2, 1, 0].foldl (fun r i => crcBit r (b.getLsbD i)) register

/-- The CRC of a run of bytes, from 0xFFFF (R183). -/
def crc (bs : List Byte) : BitVec 16 := bs.foldl crcByte 0xFFFF#16

/-- A number in `n` bytes, most significant first (R183, R194). -/
def be : Nat → Nat → List Byte
  | 0, _ => []
  | n + 1, v => BitVec.ofNat 8 (v / 256 ^ n) :: be n v

/-- The start byte of a frame (R183). -/
def startByte : Byte := 0xC3

/-- The type byte of a frame: the message's with bit 6 as given (R183). -/
def frameType (type : Byte) (more : Bool) : Byte :=
  if more then type ||| 0x40 else type &&& 0xBF

/-- The bytes of a frame that its CRC covers: length, type, tag, payload (R183). -/
def frameCovered (type : Byte) (more : Bool) (tag : Tag) (payload : List Byte) : List Byte :=
  be 2 (3 + payload.length) ++ frameType type more :: be 2 tag.toNat ++ payload

/-- One frame (R183). -/
def frame (type : Byte) (more : Bool) (tag : Tag) (payload : List Byte) : List Byte :=
  let covered := frameCovered type more tag payload
  startByte :: covered ++ be 2 (crc covered).toNat

/-- The frames of a message, back to back: 1,024 payload bytes each, every frame but the last with bit 6 set
(R183). `fuel` is at least the number of frames less 1. -/
def framesFrom : Nat → Byte → Tag → List Byte → List Byte
  | 0, type, tag, payload => frame type false tag payload
  | fuel + 1, type, tag, payload =>
    if payload.length ≤ 1024 then frame type false tag payload
    else frame type true tag (payload.take 1024) ++ framesFrom fuel type tag (payload.drop 1024)

/-- The wire image of a message, in either direction (R183). -/
def frames (type : Byte) (tag : Tag) (payload : List Byte) : List Byte :=
  framesFrom (payload.length / 1024) type tag payload

/-! ### Fields -/

/-- A field of two states (R194). -/
def flagByte (b : Bool) : List Byte := if b then [0x01] else [0x00]

/-- A named value by its place in its list, from 0x01 (R194). -/
def code (n : Nat) : List Byte := [BitVec.ofNat 8 n]

/-- An optional field after its presence byte (R194). -/
def optional {α : Type} (f : α → List Byte) : Option α → List Byte
  | none => [0x00]
  | some a => 0x01 :: f a

/-- A list after its count of `c` bytes (R194). -/
def counted {α : Type} (c : Nat) (f : α → List Byte) (l : List α) : List Byte :=
  be c l.length ++ l.flatMap f

/-- A list whose length is fixed or given by another field: no count (R194). -/
def fixed {α : Type} (f : α → List Byte) (l : List α) : List Byte := l.flatMap f

def GroupKind.code : GroupKind → Nat
  | .out => 1
  | .bothway => 2
  | .inward => 3

def GroupAdmin.code : GroupAdmin → Nat
  | .inService => 1
  | .outOfService => 2

def HuntMode.code : HuntMode → Nat
  | .lowFirst => 1
  | .highFirst => 2
  | .rotary => 3
  | .spread => 4

def GlareControl.code : GlareControl → Nat
  | .all => 1
  | .noCircuit => 2
  | .odd => 3
  | .even => 4

def Level.code : Level → Nat
  | .clear => 1
  | .busy => 2
  | .congested => 3

def Role.code : Role → Nat
  | .first => 1
  | .alternate => 2

def CallClass.code : CallClass → Nat
  | .ordinary => 1
  | .priority => 2

def Usage.code : Usage → Nat
  | .idle => 1
  | .outgoing _ => 2
  | .incoming => 3

def Usage.handle? : Usage → Option Nat
  | .outgoing h => some h
  | _ => none

def AuditOutcome.code : AuditOutcome → Nat
  | .matched => 1
  | .corrected => 2
  | .mismatch => 3

def DrainCause.code : DrainCause → Nat
  | .idle => 1
  | .unblocked => 2
  | .restart => 3

/-- Trace outcomes and pass reasons (R194). -/
def Verdict.code : Verdict → Nat
  | .tried => 1
  | .backward => 2
  | .outOfService => 3
  | .carrier => 4
  | .congested => 5
  | .price => 6
  | .depth => 7
  | .reserved => 8
  | .noneIdle => 9
  | .seized => 10

def HoldState.code : HoldState → Nat
  | .running => 1
  | .holdPending => 2
  | .held => 3

def GuardSetting.code : GuardSetting → Nat
  | .auto => 1
  | .forceOn => 2
  | .forceOff => 3

def GuardState.code : GuardState → Nat
  | .normal => 1
  | .guarded => 2

def GuardCause.code : GuardCause → Nat
  | .condition => 1
  | .cleared => 2
  | .setting => 3
  | .restart => 4

def TariffDisposition.code : TariffDisposition → Nat
  | .defined => 1
  | .activeReplaced => 2
  | .staged => 3
  | .restaged => 4

def TariffCause.code : TariffCause → Nat
  | .advance => 1
  | .clockSet => 2

def CarrierAdmin.code : CarrierAdmin → Nat
  | .active => 1
  | .suspended => 2

def CapCause.code : CapCause → Nat
  | .addition => 1
  | .capWritten => 2

def PeriodCause.code : PeriodCause → Nat
  | .boundary => 1
  | .request => 2

def DrainMode.code : DrainMode → Nat
  | .batch => 1
  | .stream => 2

def QueueCondition.code : QueueCondition → Nat
  | .almostEmpty => 1
  | .almostFull => 2

def QueueCause.code : QueueCause → Nat
  | .count => 1
  | .thresholdWritten => 2

/-- The release cause byte of a settlement record (section 12.6). -/
def CloseCause.recordCode : CloseCause → Nat
  | .normal => 1
  | .abnormal => 2
  | .forced => 3
  | .restart => 4
  | .noRoute => 0

def Result.code : Result → Nat
  | .ok => 0x00
  | .unknownRequest => 0x01
  | .badLength => 0x02
  | .badValue => 0x03
  | .noSuchObject => 0x04
  | .objectInUse => 0x05
  | .tableFull => 0x06
  | .duplicate => 0x07
  | .wrongState => 0x08
  | .overload => 0x09
  | .unroutable => 0x0A
  | .noRoute => 0x0B
  | .allRoutesTried => 0x0C
  | .glareHeld => 0x0D
  | .acceptedGlare => 0x0E
  | .circuitBusy => 0x0F
  | .wrongDirection => 0x10
  | .blocked => 0x11
  | .closeInProgress => 0x12

/-! ### Records of the rules -/

/-- A circuit record (R1). -/
def Circuit.bytes (c : Circuit) : List Byte :=
  optional (be 1) c.group ++ code c.usage.code ++ flagByte c.localBlock ++ flagByte c.remoteBlock ++
    optional (be 2) c.usage.handle?

/-- An audited position (R23). -/
def auditBytes (e : Nat × AuditOutcome) : List Byte := be 1 e.1 ++ code e.2.code

/-- A span record as SPAN REPORT shows it (R24). -/
def Span.bytes (sp : Span) : List Byte :=
  flagByte sp.watch.isSome ++
    optional (fun w : DrainWatch => counted 1 (be 1) w.positions ++ be 2 w.originTag.toNat ++ be 2 w.merged)
      sp.watch ++
    optional (counted 1 auditBytes) sp.lastAudit

/-- The definition fields of a group (R25). -/
def GroupDefn.bytes (d : GroupDefn) : List Byte :=
  code d.kind.code ++ code d.admin.code ++ be 1 d.carrier ++ optional (be 1) d.tariff ++
    code d.huntMode.code ++ code d.glareControl.code ++ be 2 d.reservation ++ be 2 d.guardReservation ++
    be 2 d.tBusy ++ be 2 d.tCong ++ be 2 d.oCong ++ flagByte d.levelNotice

/-- A statistics set (R97). -/
def Stats.bytes (t : Stats) : List Byte :=
  be 4 t.attempts ++ be 4 t.seizures ++ be 4 t.overflows ++ be 4 t.glares ++ be 4 t.crankbacks ++
    be 4 t.busySampleSum ++ be 2 t.samplesTaken ++ be 2 t.peakBusy

/-- A history, oldest class first (R97). -/
def History.bytes (h : History) : List Byte := code h.oldest.code ++ code h.middle.code ++ code h.newest.code

/-- A (group, outcome) pair of a trace (R76). -/
def traceBytes (e : Nat × Verdict) : List Byte := be 1 e.1 ++ code e.2.code

/-- A selected digit string and its plan (R44). -/
def selectedBytes (e : List Nat × Nat) : List Byte := counted 1 (be 1) e.1 ++ be 2 e.2

/-- A rating context without its residue (R70, R137). -/
def Rating.bytes (r : Rating) : List Byte :=
  be 1 r.tariff ++ be 1 r.factor ++ be 4 r.charge ++ be 4 r.billed ++ be 4 r.totalCharge ++ be 4 r.totalBilled ++
    be 4 r.nextDue ++ be 4 r.sequence ++ be 4 r.mark ++ be 2 r.answerDay ++ be 4 r.answerTime ++
    flagByte r.saturated

/-- A call context (R59, R70): FREE, SEIZED and ANSWERED are coded 1, 2 and 3. -/
def Call.bytes (h : Nat) (c : Call) : List Byte :=
  be 2 h ++ code (if c.answered then 3 else 2) ++ be 4 c.serial ++ code c.cls.code ++
    optional (be 1) c.incomingGroup ++ be 2 c.plan ++ optional (be 4) c.ceiling ++ counted 1 (be 1) c.tried ++
    be 1 c.group ++ be 2 c.circuit ++ code c.role.code ++ be 1 c.carrier ++ be 4 c.quote ++
    optional (be 4) c.answeredAt ++ optional Rating.bytes c.rating

/-- The place of a seizure and its price (R85, R90). -/
def Seizure.bytes (z : Seizure) : List Byte :=
  be 1 z.group ++ be 2 z.circuit ++ be 2 z.position ++ code z.role.code ++ be 1 z.carrier ++ be 4 z.quote

/-- A version of a tariff (R130). -/
def Version.bytes (v : Version) : List Byte :=
  be 2 v.setup ++ be 2 v.initial ++ be 2 v.incr ++ be 4 v.rate0 ++ be 4 v.rate1 ++ be 4 v.rate2 ++ be 4 v.rate3 ++
    be 1 v.factorClear ++ be 1 v.factorBusy ++ be 1 v.factorCongested

/-- An effective instant: day, then time of day (R130). -/
def Instant.effectiveBytes (i : Instant) : List Byte := be 2 i.day ++ be 4 i.time

/-- The clock: time of day, then day number (R123). -/
def Instant.clockBytes (i : Instant) : List Byte := be 4 i.time ++ be 2 i.day

/-- An account (R152). -/
def Account.bytes (a : Account) : List Byte :=
  be 6 a.accumulator ++ be 6 a.recorded ++ be 4 a.overflowCount ++ be 6 a.overflowCharge ++ flagByte a.saturated

/-- A snapshot (R152). -/
def Snapshot.bytes (n : Snapshot) : List Byte :=
  n.account.bytes ++ be 2 n.pendingCalls ++ flagByte n.complete ++ flagByte n.read

/-- The kind of a settlement record (section 12.6). -/
def Record.kindCode (r : Record) : Nat := if r.final.isSome then 2 else 1

/-- A settlement record, 41 bytes (section 12.6). -/
def Record.bytes (r : Record) : List Byte :=
  be 1 r.kindCode ++ be 4 r.serial ++ be 2 r.handle ++ be 4 r.sequence ++ be 1 r.carrier ++ be 1 r.group ++
    be 2 r.circuit ++ be 1 r.tariff ++ be 1 r.factor ++ be 4 r.period ++ be 2 r.answerDay ++ be 4 r.answerTime ++
    be 4 r.billed ++
    (match r.final with
      | some f => be 4 f.heldSeconds
      | none => be 4 0) ++
    be 4 r.charge ++ flagByte r.saturated ++
    (match r.final with
      | some f => code f.cause.recordCode
      | none => [0x00])

/-- The last lost record (R172). -/
def LostRecord.bytes (l : LostRecord) : List Byte :=
  be 4 l.serial ++ be 4 l.sequence ++ be 1 l.carrier ++ be 4 l.period ++ be 4 l.charge

/-- The last evaluation record (R113). -/
def GuardEval.bytes (e : GuardEval) : List Byte :=
  be 4 e.seconds ++ be 2 e.congested ++ be 1 e.depth ++ flagByte e.condition

/-! ### Payloads -/

/-- A reply payload: the result byte, then the contents (R186). -/
def reply (r : Result) (contents : List Byte) : List Byte := code r.code ++ contents

/-- The reasons of UNROUTABLE: NO_MATCH 1, PLAN_UNDEFINED 2 (R44). -/
def unroutableBytes (selected : Option (List Nat × Nat)) : List Byte :=
  code (if selected.isSome then 2 else 1) ++ optional selectedBytes selected

/-- The payload of a message (R186, R194, section 12.6). What the rules leave to inference: codes in log 19, the order of
fields in log 20, the plans of PREFIX WRITE in log 21, the widths of numbers without a stated range in log 25. -/
def Body.payload : Body → List Byte
  | .result r => reply r []
  | .echo p => reply .ok p
  | .status flags depth => reply .ok (be 2 flags.toNat ++ be 1 depth)
  | .noticesEnabled before after => reply .ok (be 1 before.toNat ++ be 1 after.toNat)
  | .restarted calls records watches => reply .ok (be 2 calls ++ be 2 records ++ be 2 watches)
  | .drainTaken joined added => reply .ok (code (if joined then 2 else 1) ++ be 1 added)
  | .forcedCleared lost cleared => reply .ok (be 1 lost ++ be 1 cleared)
  | .unblocked removed => reply .ok (be 1 removed)
  | .audited span first count m c x outcomes =>
    reply .ok (be 1 span ++ be 1 first ++ be 1 count ++ be 1 m ++ be 1 c ++ be 1 x ++ fixed auditBytes outcomes)
  | .spanReport circuits span => reply .ok (fixed Circuit.bytes circuits ++ span.bytes)
  | .membersReplaced added kept removed => reply .ok (be 2 added ++ be 2 kept ++ be 2 removed)
  | .groupRead defn members size busy available rotary overflow =>
    reply .ok (defn.bytes ++ counted 2 (be 2) members ++ be 2 size ++ be 2 busy ++ be 2 available ++ be 2 rotary ++
      be 2 overflow)
  | .prefixWritten replaced count defined =>
    reply .ok (code (if replaced.isSome then 1 else 2) ++
      optional (fun plans => be 2 plans.1 ++ be 2 plans.2) replaced ++ be 2 count ++ flagByte defined)
  | .prefixDeleted plan count => reply .ok (be 2 plan ++ be 2 count)
  | .lookupRouted digits plan count =>
    reply .ok (counted 1 (be 1) digits ++ be 1 digits.length ++ be 2 plan ++ be 2 count)
  | .lookupUnroutable selected count => reply .unroutable (unroutableBytes selected ++ be 2 count)
  | .planWritten replaced firsts alternates prefixEntries seized =>
    reply .ok (code (if replaced then 2 else 1) ++ be 1 firsts ++ be 1 alternates ++ be 2 prefixEntries ++ be 2 seized)
  | .planDeleted prefixEntries => reply .ok (be 2 prefixEntries)
  | .planRead entries ceiling sticky order prefixEntries seized =>
    reply .ok (counted 1 (fun e : PlanEntry × Option Nat =>
        be 1 e.1.group ++ code e.1.role.code ++ optional (be 1) e.2) entries ++
      optional (be 4) ceiling ++ optional (fun e : Nat × Nat => be 1 e.1 ++ be 1 e.2) sticky ++
      counted 1 (be 1) order ++ be 2 prefixEntries ++ be 2 seized)
  | .setupUnroutable selected => reply .unroutable (unroutableBytes selected)
  | .setupDone handle serial plan z trace =>
    reply .ok (be 2 handle ++ be 4 serial ++ be 2 plan ++ z.bytes ++ counted 1 traceBytes trace)
  | .setupNoRoute plan reason trace =>
    reply .noRoute (be 2 plan ++ code reason.code ++ counted 1 traceBytes trace)
  | .retryAllTried handle serial freed => reply .allRoutesTried (be 2 handle ++ be 4 serial ++ be 2 freed)
  | .retryDone handle serial freed z trace =>
    reply .ok (be 2 handle ++ be 4 serial ++ be 2 freed ++ z.bytes ++ counted 1 traceBytes trace)
  | .retryNoRoute handle serial freed reason trace =>
    reply .noRoute (be 2 handle ++ be 4 serial ++ be 2 freed ++ code reason.code ++ counted 1 traceBytes trace)
  | .answered serial rated =>
    reply .ok (be 4 serial ++ flagByte rated.isSome ++ optional (fun e : Nat × Nat => be 1 e.1 ++ be 4 e.2) rated)
  | .released serial wasAnswered records charge =>
    reply .ok (be 4 serial ++ code (if wasAnswered then 3 else 2) ++ be 1 records ++ optional (be 4) charge)
  | .callRead handle call => reply .ok (call.bytes handle)
  | .groupReport group level history overflow current previous samples interval hold =>
    reply .ok (be 1 group ++ code level.code ++ history.bytes ++ be 2 overflow ++ current.bytes ++ previous.bytes ++
      be 2 samples ++ be 2 interval ++ code hold.code)
  | .monitorSet sample stats sampleClamped statsClamped next =>
    reply .ok (be 1 sample ++ be 2 stats ++ flagByte sampleClamped ++ flagByte statsClamped ++ optional (be 4) next)
  | .holdTaken hold effective => reply .ok (code hold.code ++ be 4 effective)
  | .resumed fromHeld next => reply .ok (code (if fromHeld then 1 else 2) ++ be 4 next)
  | .monitorRead m clear busy congested =>
    reply .ok (be 1 m.sampleInterval ++ be 2 m.statsInterval ++ be 2 m.samplesInInterval ++ code m.hold.code ++
      optional (be 4) m.nextSample ++ be 2 clear ++ be 2 busy ++ be 2 congested)
  | .guardSet settingBefore stateBefore setting state count =>
    reply .ok (code settingBefore.code ++ code stateBefore.code ++ code setting.code ++ code state.code ++ be 1 count)
  | .guardParameters g q depth clamped => reply .ok (be 2 g ++ be 1 q ++ be 1 depth ++ flagByte clamped)
  | .guardRead g hold =>
    reply .ok (code g.setting.code ++ code g.state.code ++ be 1 g.clearCount ++ be 2 g.gGroups ++ be 1 g.qGuard ++
      be 1 g.depth ++ optional GuardEval.bytes g.lastEval ++ code hold.code)
  | .clockSet before after seconds slot band activated =>
    reply .ok (before.clockBytes ++ after.clockBytes ++ be 4 seconds ++ be 1 slot ++ be 1 band ++ be 2 activated)
  | .clockRead seconds clock slot band staged earliest =>
    reply .ok (be 4 seconds ++ clock.effectiveBytes ++ be 1 slot ++ be 1 band ++ be 2 staged ++
      optional Instant.effectiveBytes earliest)
  | .bandMapWritten changed band => reply .ok (be 1 changed ++ be 1 band)
  | .bandMapRead bands slot band => reply .ok (fixed (be 1) bands ++ be 1 slot ++ be 1 band)
  | .tariffWritten disposition staged groups ratings =>
    reply .ok (code disposition.code ++ flagByte staged.isSome ++ optional Instant.effectiveBytes staged ++
      be 2 groups ++ be 2 ratings)
  | .tariffCancelled effective => reply .ok effective.effectiveBytes
  | .tariffDeleted discarded => reply .ok (flagByte discarded)
  | .tariffRead t groups ratings band rate =>
    reply .ok (t.active.bytes ++
      optional (fun p : PendingVersion => p.version.bytes ++ p.effective.effectiveBytes) t.staged ++
      be 2 groups ++ be 2 ratings ++ be 1 band ++ be 4 rate)
  | .carrierWritten changed before after accumulator =>
    reply .ok (code (if changed then 2 else 1) ++ flagByte before ++ flagByte after ++ be 6 accumulator)
  | .carrierDeleted account snapshot => reply .ok (account.bytes ++ snapshot.bytes)
  | .carrierReport admin cap reached notice openCalls account period =>
    reply .ok (code admin.code ++ be 6 cap ++ flagByte reached ++ flagByte notice ++ be 2 openCalls ++
      account.bytes ++ be 4 period)
  | .periodLength length clamped next => reply .ok (be 2 length ++ flagByte clamped ++ be 4 next)
  | .periodClosing closed number lost calls => reply .ok (be 4 closed ++ be 4 number ++ be 1 lost ++ be 2 calls)
  | .periodReport number closed length sweep deferred snapshots =>
    reply .ok (be 4 number ++ optional (be 4) closed ++ be 2 length ++ flagByte sweep.isSome ++
      optional (be 2) sweep ++ flagByte deferred ++ counted 1 (fun e : Nat × Snapshot => e.2.bytes) snapshots)
  | .fetched records count => reply .ok (counted 1 Record.bytes records ++ be 2 count)
  | .thresholds ae af aeClamped afClamped count empty full =>
    reply .ok (be 2 ae ++ be 2 af ++ flagByte aeClamped ++ flagByte afClamped ++ be 2 count ++ flagByte empty ++
      flagByte full)
  | .drainMode before after count inTransmission =>
    reply .ok (code before.code ++ code after.code ++ be 2 count ++ flagByte inTransmission)
  | .queueRead count mode ae af empty full inTransmission head dropped lost lastLost =>
    reply .ok (be 2 count ++ code mode.code ++ be 2 ae ++ be 2 af ++ flagByte empty ++ flagByte full ++
      flagByte inTransmission.isSome ++ optional (fun e : Nat × Nat => be 4 e.1 ++ be 4 e.2) inTransmission ++
      optional (fun r : Record => be 4 r.serial ++ be 4 r.sequence ++ code r.kindCode ++ be 4 r.period) head ++
      be 4 dropped ++ be 4 lost ++ optional LostRecord.bytes lastLost)
  | .noticeLevel group old new => be 1 group ++ code old.code ++ code new.code
  | .noticeGuard old new setting cause measures seconds =>
    code old.code ++ code new.code ++ code setting.code ++ code cause.code ++
      optional (fun e : Nat × Nat => be 2 e.1 ++ be 1 e.2) measures ++ be 4 seconds
  | .noticeCapped carrier cap accumulator cause seconds =>
    be 1 carrier ++ be 6 cap ++ be 6 accumulator ++ code cause.code ++ be 4 seconds
  | .noticeTariff tariff effective cause clock seconds groups ratings =>
    be 1 tariff ++ effective.effectiveBytes ++ code cause.code ++ clock.clockBytes ++ be 4 seconds ++ be 2 groups ++
      be 2 ratings
  | .noticeQueue condition count threshold cause mode =>
    code condition.code ++ be 2 count ++ be 2 threshold ++ code cause.code ++ code mode.code
  | .noticePeriod closed number cause bySweep byTouch lost seconds clock =>
    be 4 closed ++ be 4 number ++ code cause.code ++ be 2 bySweep ++ be 2 byTouch ++ be 1 lost ++ be 4 seconds ++
      clock.clockBytes
  | .noticeDrainDone span tag merged cause => be 1 span ++ be 2 tag.toNat ++ be 2 merged ++ code cause.code
  | .noticeRerouted handle serial z =>
    be 2 handle ++ be 4 serial ++ be 1 z.group ++ be 2 z.circuit ++ be 2 z.position ++ code z.role.code ++ be 4 z.quote
  | .noticeLost handle serial reason =>
    be 2 handle ++ be 4 serial ++ code (if reason.isSome then 1 else 2) ++
      optional (fun v : Verdict => code v.code) reason
  | .noticeRecord record count => record.bytes ++ be 2 count

/-- The frames of a message of the part (R183): its type byte has bit 7 set. -/
def Message.wire (m : Message) : List Byte :=
  frames (0x80 ||| BitVec.ofNat 8 m.code) m.tag m.body.payload

/-- What TXD carries: the frames of the message in transmission (R186). -/
def State.txd (s : State) : List Byte :=
  match s.link.transmitter with
  | some m => m.wire
  | none => []

end Sys2Proof.Machine
end

