-- ==== Sys2Proof/Machine/Receiver.lean ====
section
/-! DEFINITION. The receiver: the hunt for frames in the bytes of RXD, and the assembly of messages (R184). -/

namespace Sys2Proof.Machine

/-- The bytes of RXD not yet judged. -/
def State.setReceived (s : State) (bs : List Byte) : State :=
  { s with link := { s.link with received := bs } }

/-- The message being assembled. -/
def State.setAssembly (s : State) (a : Option Request) : State :=
  { s with link := { s.link with assembly := a } }

/-- A framing error or a CRC mismatch: FRAME_ERROR, and the message being assembled is discarded (R184). -/
def State.frameError (s : State) : State := (s.setFlag .frameError).setAssembly none

/-- The payload of a further frame joins a message; bytes beyond 4,096 are not kept (R184). -/
def Request.join (r : Request) (payload : List Byte) : Request :=
  { r with payload := (r.payload ++ payload).take 4096
           overlong := r.overlong || decide (4096 < r.payload.length + payload.length) }

/-- A good frame with its type byte, tag and payload: it goes on with the assembly that has its type code and tag,
or ends it with FRAME_ERROR and begins a message of its own; with bit 6 clear the message is complete (R184). -/
def State.acceptFrame (s : State) (type : Byte) (tag : Tag) (payload : List Byte) : State :=
  let plain := type &&& 0xBF
  let fresh := Request.ofPayload plain tag payload
  let (joined, judged) := match s.link.assembly with
    | none => (fresh, s)
    | some a => if a.type = plain ∧ a.tag = tag then (a.join payload, s) else (fresh, s.frameError)
  if type.getLsbD 6 then judged.setAssembly (some joined)
  else (judged.setAssembly none).arrive joined

/-- The content of a good frame: type, tag, payload. -/
def State.acceptContent (s : State) (content : List Byte) : State :=
  match content with
  | type :: t1 :: t0 :: payload => s.acceptFrame type (BitVec.ofNat 16 (bytesToNat [t1, t0])) payload
  | _ => s

/-- What the hunt finds at the head of the bytes received (R184). -/
inductive Found where
  /-- Too few bytes to judge; those from the start byte on are kept. -/
  | waiting (kept : List Byte)
  /-- A length out of range or a CRC mismatch; hunting resumes after the start byte. -/
  | bad (rest : List Byte)
  /-- A good frame, and the bytes after it. -/
  | good (content rest : List Byte)
deriving DecidableEq, Repr

/-- Judges the bytes after a start byte (R183, R184). -/
def judgeFrame (rest : List Byte) : Found :=
  match rest with
  | l1 :: l0 :: body =>
    let len := bytesToNat [l1, l0]
    if len < 3 ∨ 1027 < len then .bad rest
    else if body.length < len + 2 then .waiting (startByte :: rest)
    else
      let content := body.take len
      if bytesToNat ((body.drop len).take 2) = (crc (l1 :: l0 :: content)).toNat
      then .good content (body.drop (len + 2))
      else .bad rest
  | _ => .waiting (startByte :: rest)

/-- Hunts for a start byte and judges what follows (R184). -/
def seekFrame : List Byte → Found
  | [] => .waiting []
  | b :: rest => if b = startByte then judgeFrame rest else seekFrame rest

/-- Judges the bytes received, frame after frame; each round takes at least one byte. -/
def State.receive : Nat → State → State
  | 0, s => s
  | fuel + 1, s =>
    match seekFrame s.link.received with
    | .waiting kept => s.setReceived kept
    | .bad rest => State.receive fuel (s.frameError.setReceived rest)
    | .good content rest => State.receive fuel ((s.setReceived rest).acceptContent content)

/-- Bytes taken from RXD join those not yet judged, and all are judged (R184). -/
def State.takeBytes (s : State) (bytes : List Byte) : State :=
  let all := s.link.received ++ bytes
  State.receive (all.length + 1) (s.setReceived all)

end Sys2Proof.Machine
end

