-- ==== Sys2Proof/Machine/LinkCmds.lean ====
section
/-! DEFINITION. Chapter 12: the link's requests, the transmitter, the link restart, and power-on. -/

namespace Sys2Proof.Machine

open Sys2Proof

/-! ### Requests -/

/-- What a message of unknown code is replied: UNKNOWN_REQUEST (R184); an overlong one's reply is free (log 8). -/
def unknownResult (overlong : Bool) : Result :=
  if overlong && Config.overlongUnknownIsBadLength then .badLength else .unknownRequest

/-- A request of unknown code that has left the queue is replied with a result alone (R184). -/
def State.carryOutUnknown (s : State) (r : Request) : State :=
  State.carryOut s { r with overlong := false } fun _ s => refuse (unknownResult r.overlong) s

/-- UNKNOWN_REQUEST (R184): taken like any other request (log 2). -/
def execUnknownRequest (type : Byte) (tag : Tag) (payload : List Byte) (s : State) :
    Host.Outcome State Fault Refusal :=
  if !(isMessageType type && isUnknownType type) then .refused .otherRow
  else .next (s.serveWith (Request.ofPayload type tag payload) State.carryOutUnknown)

/-- LINK ECHO (R189). -/
def execLinkEcho (tag : Tag) (payload : List Byte) (s : State) : Host.Outcome State Fault Refusal :=
  request 0x00 tag payload s fun p s => (.echo p, s)

/-- STATUS READ: the reply shows every flag as it stands, then those flags are cleared (R187). -/
def statusRead (s : State) : Body × State :=
  (.status s.link.flags s.link.requests.length, { s with link := { s.link with flags := 0 } })

/-- STATUS READ. -/
def execStatusRead (tag : Tag) (payload : List Byte) (s : State) : Host.Outcome State Fault Refusal :=
  request 0x01 tag payload s fun p s => withOperands (parseEmpty p) s fun _ => statusRead s

/-- NOTICE ENABLE (R188). -/
def noticeEnable (e : BitVec 7) (s : State) : Body × State :=
  (.noticesEnabled s.link.enables e, { s with link := { s.link with enables := e } })

/-- NOTICE ENABLE. -/
def execNoticeEnable (tag : Tag) (payload : List Byte) (s : State) : Host.Outcome State Fault Refusal :=
  request 0x02 tag payload s fun p s => withOperands (parseNoticeEnable p) s fun e => noticeEnable e s

/-! ### The receiver and the transmitter -/

/-- FRAME_RECEIVED: bytes of RXD, up to the end of a frame (R184). No byte is taken while the pin is low (R193) or
the line is at space after a break (R191). A byte ends a shorter space, for its stop bit is at mark (log 22). -/
def execFrameReceived (bytes : List Byte) (s : State) : Host.Outcome State Fault Refusal :=
  if s.resetLow || s.link.lineBroken then .next s
  else
    let atMark := { s with link := { s.link with spaceMs := if bytes = [] then s.link.spaceMs else 0 } }
    .next (atMark.takeBytes bytes)

/-- MESSAGE_BEGIN: the idle transmitter begins the oldest message of the send list (R186). -/
def execMessageBegin (s : State) : Host.Outcome State Fault Refusal :=
  match s.link.transmitter, s.link.sendList with
  | none, m :: rest =>
    if s.resetLow then .next s
    else .next { s with link := { s.link with transmitter := some m, sendList := rest } }
  | _, _ => .next s

/-- MESSAGE_END: a reply or a notice other than RECORD has been sent whole (R186). -/
def execMessageEnd (s : State) : Host.Outcome State Fault Refusal :=
  if s.resetLow || s.recordInTransmission then .next s
  else .next { s with link := { s.link with transmitter := none } }

/-! ### The link restart -/

/-- The flags a message restores when it is abandoned: those a STATUS READ reply shows (R187, R191). -/
def Message.clearedFlags (m : Message) : BitVec 14 :=
  match m.body with
  | .status flags _ => flags
  | _ => 0

/-- The records a message loses when it is abandoned: those of a fetch reply (R179). -/
def Message.fetchedRecords (m : Message) : List Record :=
  match m.body with
  | .fetched records _ => records
  | _ => []

/-- A record is counted in records lost and becomes the last lost (R179). -/
def RecordQueue.lose (q : RecordQueue) (r : Record) : RecordQueue :=
  { q with lost := satAdd max32 q.lost 1
           lastLost := some { serial := r.serial, sequence := r.sequence, carrier := r.carrier,
                              period := r.period, charge := r.charge } }

/-- The record of an abandoned RECORD notice leaves the head of the queue and is lost (R179). -/
def State.loseHead (s : State) : State :=
  match s.records.queue with
  | [] => s
  | r :: rest =>
    State.evaluateThresholds { s with records := { s.records with queue := rest }.lose r } .count

/-- The records of abandoned fetch replies are lost, oldest first (R179). -/
def State.loseAll (s : State) (rs : List Record) : State :=
  { s with records := rs.foldl RecordQueue.lose s.records }

/-- The messages a link restart abandons or discards, oldest first (R191). -/
def State.abandoned (s : State) : List Message := s.link.transmitter.toList ++ s.link.sendList

/-- The link restart (R191, R179). -/
def State.linkRestart (s : State) : State :=
  let restored := s.abandoned.foldl (fun f m => f ||| m.clearedFlags) s.link.flags
  let emptied := { s with link := { s.link with
    requests := [], sendList := [], transmitter := none, assembly := none, received := [], lineBroken := true
    spaceMs := 0, flags := restored } }
  let unqueued := if s.recordInTransmission then emptied.loseHead else emptied
  (unqueued.loseAll (s.abandoned.flatMap Message.fetchedRecords)).setFlag .linkRestart

/-- LINK_BREAK: the line has been at space for a further `spaceMs` milliseconds, and restarts the link when 20 ms are
counted (R191). A break restarts the link once; a space while RESET_N is low counts nothing (R193). -/
def execLinkBreak (spaceMs : Nat) (s : State) : Host.Outcome State Fault Refusal :=
  if s.resetLow || s.link.lineBroken then .next s
  else if s.link.spaceMs + spaceMs < 20 then
    .next { s with link := { s.link with spaceMs := s.link.spaceMs + spaceMs } }
  else .next s.linkRestart

/-- LINE_RETURNS_TO_MARK: the count of the space ends, and after a break the hunt for a start byte begins again
(R191). -/
def execLineReturnsToMark (s : State) : Host.Outcome State Fault Refusal :=
  if s.resetLow then .next s
  else .next { s with link := { s.link with
    lineBroken := false, spaceMs := 0, received := if s.link.lineBroken then [] else s.link.received } }

/-! ### Power-on -/

/-- The power-on state, with the straps read and the pin as it stands (R193, section 12.8). -/
def State.poweredOn (s : State) (straps : BitVec 2) (low : Bool) : State :=
  { State.reset with resetLow := low, rateStraps := straps, pending := s.pending }

/-- POWER_ON (R193): power applied, or RESET_N low for 10 µs or more; a shorter pulse is ignored. -/
def execPowerOn (cause : PowerCause) (straps : BitVec 2) (s : State) : Host.Outcome State Fault Refusal :=
  match cause with
  | .powerApplied => .next (s.poweredOn straps false)
  | .resetPinLow us => if us < 10 then .next s else .next (s.poweredOn straps true)

/-- RESET_PIN_RETURNS_HIGH: the part held in its power-on state begins to run, and the 20 ms of a link break are
counted from this moment (R193). -/
def execResetPinReturnsHigh (s : State) : Host.Outcome State Fault Refusal :=
  if s.resetLow then .next { s with resetLow := false, link := { s.link with spaceMs := 0 } } else .next s

end Sys2Proof.Machine
end

