-- ==== Sys2Proof/Machine/Restart.lean ====
section
/-! DEFINITION. The device restart (R190): sweeps carried to their end, calls closed, circuits idled, watches
closed, and the groups, the monitor and the guard at their restart values. -/

namespace Sys2Proof.Machine

open Sys2Proof

/-- The calls closed and the FINAL records written by a restart so far (R190). -/
structure RestartTally where
  calls : Nat
  records : Nat
deriving DecidableEq, Repr

/-- Closes the calls on a list of handles, in its order, with close cause RESTART (R72). -/
def restartCloses : List Nat → State → RestartTally → State × RestartTally
  | [], s, t => (s, t)
  | h :: rest, s, t =>
    match s.call h with
    | none => restartCloses rest s t
    | some c =>
      let closed := s.closeCall h c .restart true
      restartCloses rest closed.1
        { calls := t.calls + 1, records := t.records + if closed.2.finalCharge.isSome then 1 else 0 }

/-- The circuits whose usage is not IDLE, in ascending order. -/
def State.busyCircuits (s : State) : List Nat := (s.circuits.filter fun e => e.2.usage.busy).map fun e => e.1

/-- Every circuit still in use becomes IDLE (R3). -/
def State.idleAll (s : State) : State := s.busyCircuits.foldl State.makeIdle s

/-- The spans whose watch is open, in ascending order. -/
def State.openWatches (s : State) : List Nat := (s.spans.filter fun e => e.2.watch.isSome).map fun e => e.1

/-- The watch of a span closes at a restart: its set is emptied, and DRAIN DONE is raised with cause RESTART
(R12). -/
def State.closeWatch (s : State) (sp : Nat) : State :=
  let emptied := (s.span sp).watch.map fun w => { w with positions := [] }
  (s.setSpan sp { s.span sp with watch := emptied }).completeWatch sp .restart

/-- A group after a restart: definition, members and rotary pointer kept; counts, history, level and statistics
cleared (R26, R112). -/
def Group.restarted (grp : Group) : Group :=
  { grp with busyCount := 0, overflowCount := 0, history := History.allClear, level := .clear,
             current := Stats.zero, previous := Stats.zero }

/-- The monitor after a restart (R112). -/
def Monitor.restarted (m : Monitor) (seconds : Nat) : Monitor :=
  { m with samplesInInterval := 0
           nextSample := if m.hold = .held then none else some (wrap32 (seconds + m.sampleInterval)) }

/-- The guard after a restart (R122). -/
def Guard.restarted (g : Guard) : Guard :=
  { g with lastEval := none, clearCount := 0, state := if g.setting = .auto then .normal else g.state }

/-- The groups, the monitor and the guard take their restart values, and a change of guard state is reported
(R26, R112, R122). -/
def State.restartBlocks (s : State) : State :=
  let cleared := { s with
    groups := Table.mapAll s.groups Group.restarted
    monitor := s.monitor.restarted s.time.seconds
    guard := s.guard.restarted }
  cleared.reportGuard s.guard.state .restart none

/-- DEVICE RESTART (R190). -/
def deviceRestart (s : State) : Body × State :=
  let swept := State.finishSweep 16384 s
  let (closed, t) := restartCloses (swept.calls.map fun e => e.1) swept { calls := 0, records := 0 }
  let idled := closed.idleAll
  let watches := idled.openWatches
  (.restarted t.calls t.records watches.length, (watches.foldl State.closeWatch idled).restartBlocks)

/-- DEVICE RESTART. -/
def execDeviceRestart (tag : Tag) (payload : List Byte) (s : State) : Host.Outcome State Fault Refusal :=
  request 0x03 tag payload s fun p s => withOperands (parseEmpty p) s fun _ => deviceRestart s

end Sys2Proof.Machine
end

