-- ==== Sys2Proof/Machine/Dispatch.lean ====
section
/-! DEFINITION. The meaning of each command: one arm per row of the opcode table. -/

namespace Sys2Proof.Machine

def exec (i : Instr) (s : State) : Host.Outcome State Fault Refusal :=
  match i with
  | .powerOn cause straps => Sys2Proof.Machine.execPowerOn cause straps s
  | .frameReceived bytes => Sys2Proof.Machine.execFrameReceived bytes s
  | .linkBreak spaceMs => Sys2Proof.Machine.execLinkBreak spaceMs s
  | .messageBegin => Sys2Proof.Machine.execMessageBegin s
  | .messageEnd => Sys2Proof.Machine.execMessageEnd s
  | .recordNoticeBegin => Sys2Proof.Machine.execRecordNoticeBegin s
  | .recordNoticeEnd => Sys2Proof.Machine.execRecordNoticeEnd s
  | .unknownRequest type tag payload => Sys2Proof.Machine.execUnknownRequest type tag payload s
  | .linkEcho tag payload => Sys2Proof.Machine.execLinkEcho tag payload s
  | .statusRead tag payload => Sys2Proof.Machine.execStatusRead tag payload s
  | .noticeEnable tag payload => Sys2Proof.Machine.execNoticeEnable tag payload s
  | .deviceRestart tag payload => Sys2Proof.Machine.execDeviceRestart tag payload s
  | .circuitBlockPlain tag payload => Sys2Proof.Machine.execCircuitBlockPlain tag payload s
  | .circuitBlockDrain tag payload => Sys2Proof.Machine.execCircuitBlockDrain tag payload s
  | .circuitBlockForced tag payload => Sys2Proof.Machine.execCircuitBlockForced tag payload s
  | .circuitUnblock tag payload => Sys2Proof.Machine.execCircuitUnblock tag payload s
  | .remoteBlock tag payload => Sys2Proof.Machine.execRemoteBlock tag payload s
  | .remoteUnblock tag payload => Sys2Proof.Machine.execRemoteUnblock tag payload s
  | .incomingSeize tag payload => Sys2Proof.Machine.execIncomingSeize tag payload s
  | .incomingRelease tag payload => Sys2Proof.Machine.execIncomingRelease tag payload s
  | .circuitAudit tag payload => Sys2Proof.Machine.execCircuitAudit tag payload s
  | .spanReport tag payload => Sys2Proof.Machine.execSpanReport tag payload s
  | .groupDefine tag payload => Sys2Proof.Machine.execGroupDefine tag payload s
  | .groupChange tag payload => Sys2Proof.Machine.execGroupChange tag payload s
  | .groupMembers tag payload => Sys2Proof.Machine.execGroupMembers tag payload s
  | .groupDelete tag payload => Sys2Proof.Machine.execGroupDelete tag payload s
  | .groupRead tag payload => Sys2Proof.Machine.execGroupRead tag payload s
  | .prefixWrite tag payload => Sys2Proof.Machine.execPrefixWrite tag payload s
  | .prefixDelete tag payload => Sys2Proof.Machine.execPrefixDelete tag payload s
  | .prefixLookup tag payload => Sys2Proof.Machine.execPrefixLookup tag payload s
  | .planWrite tag payload => Sys2Proof.Machine.execPlanWrite tag payload s
  | .planDelete tag payload => Sys2Proof.Machine.execPlanDelete tag payload s
  | .planRead tag payload => Sys2Proof.Machine.execPlanRead tag payload s
  | .callSetup tag payload => Sys2Proof.Machine.execCallSetup tag payload s
  | .callRetry tag payload => Sys2Proof.Machine.execCallRetry tag payload s
  | .callAnswer tag payload => Sys2Proof.Machine.execCallAnswer tag payload s
  | .callRelease tag payload => Sys2Proof.Machine.execCallRelease tag payload s
  | .callRead tag payload => Sys2Proof.Machine.execCallRead tag payload s
  | .groupReport tag payload => Sys2Proof.Machine.execGroupReport tag payload s
  | .monitorSet tag payload => Sys2Proof.Machine.execMonitorSet tag payload s
  | .monitorHold tag payload => Sys2Proof.Machine.execMonitorHold tag payload s
  | .monitorResume tag payload => Sys2Proof.Machine.execMonitorResume tag payload s
  | .monitorRead tag payload => Sys2Proof.Machine.execMonitorRead tag payload s
  | .guardSet tag payload => Sys2Proof.Machine.execGuardSet tag payload s
  | .guardParameters tag payload => Sys2Proof.Machine.execGuardParameters tag payload s
  | .guardRead tag payload => Sys2Proof.Machine.execGuardRead tag payload s
  | .clockSet tag payload => Sys2Proof.Machine.execClockSet tag payload s
  | .clockRead tag payload => Sys2Proof.Machine.execClockRead tag payload s
  | .bandMapWrite tag payload => Sys2Proof.Machine.execBandMapWrite tag payload s
  | .bandMapRead tag payload => Sys2Proof.Machine.execBandMapRead tag payload s
  | .tariffWrite tag payload => Sys2Proof.Machine.execTariffWrite tag payload s
  | .tariffCancel tag payload => Sys2Proof.Machine.execTariffCancel tag payload s
  | .tariffDelete tag payload => Sys2Proof.Machine.execTariffDelete tag payload s
  | .tariffRead tag payload => Sys2Proof.Machine.execTariffRead tag payload s
  | .carrierWrite tag payload => Sys2Proof.Machine.execCarrierWrite tag payload s
  | .carrierDelete tag payload => Sys2Proof.Machine.execCarrierDelete tag payload s
  | .carrierReport tag payload => Sys2Proof.Machine.execCarrierReport tag payload s
  | .periodLength tag payload => Sys2Proof.Machine.execPeriodLength tag payload s
  | .periodClose tag payload => Sys2Proof.Machine.execPeriodClose tag payload s
  | .periodReport tag payload => Sys2Proof.Machine.execPeriodReport tag payload s
  | .recordFetch tag payload => Sys2Proof.Machine.execRecordFetch tag payload s
  | .queueThresholds tag payload => Sys2Proof.Machine.execQueueThresholds tag payload s
  | .drainMode tag payload => Sys2Proof.Machine.execDrainMode tag payload s
  | .queueRead tag payload => Sys2Proof.Machine.execQueueRead tag payload s
  | .oneSecondAdvance => Sys2Proof.Machine.execOneSecondAdvance s
  | .pendingTariffSwitch => Sys2Proof.Machine.execPendingTariffSwitch s
  | .periodBoundary => Sys2Proof.Machine.execPeriodBoundary s
  | .increment handle => Sys2Proof.Machine.execIncrement handle s
  | .sweepVisit => Sys2Proof.Machine.execSweepVisit s
  | .sampleInstant => Sys2Proof.Machine.execSampleInstant s
  | .lineReturnsToMark => Sys2Proof.Machine.execLineReturnsToMark s
  | .resetPinReturnsHigh => Sys2Proof.Machine.execResetPinReturnsHigh s

end Sys2Proof.Machine
end

