-- ==== Sys2Proof/Safety.lean ====
section
/-! DEFINITION. What a safe run is: the invariants that every step keeps, and the terms in which the statements say
that a request is taken and answered. -/

namespace Sys2Proof.Machine

open Sys2Proof

/-! ### A request taken, and its answer -/

/-- A request command is taken at once (R185, R162): the part runs, the payload is whole (R184), the send list
holds fewer than 64 messages, no sweep visit is due first, and the request is the head of the request queue or
completes at the link into an empty queue, where it leaves a message being assembled standing (log 24). -/
def State.takesNow (s : State) (type : Byte) (tag : Tag) (payload : List Byte) : Prop :=
  s.resetLow = false ∧ payload.length ≤ 4096 ∧ s.link.sendList.length < 64 ∧ s.visitOwedToRequests = false ∧
    (s.link.requests.head? = some (Request.ofPayload type tag payload) ∨
      (s.link.requests = [] ∧ s.link.lineBroken = false))

/-- The state of the part when a taken request has been replied and has done nothing more: it has left the request
queue, and its reply stands at the tail of the send list (R185, R186). While a sweep is in flight a visit is due
before the next request (R162; log 5). -/
def State.answer (s : State) (code : Nat) (tag : Tag) (body : Body) : State :=
  { s with
    link := { s.link with
      requests := s.link.requests.tail
      sendList := s.link.sendList ++ [{ code := code, tag := tag, body := body }] }
    periods := { s.periods with
      sweep := s.periods.sweep.map fun sw => { sw with visitBeforeRequest := true } } }

/-- What an audit with one far view leaves in a circuit record, and its outcome (the tables of R20, R21, R22). -/
def Circuit.audited (c : Circuit) (v : FarView) : Circuit × AuditOutcome :=
  match c.group, v, c.usage with
  | none, _, _ => (c, .matched)
  | some _, .idle, .idle => if c.remoteBlock then ({ c with remoteBlock := false }, .corrected) else (c, .matched)
  | some _, .idle, .incoming => ({ c with usage := .idle, remoteBlock := false }, .corrected)
  | some _, .idle, .outgoing _ => (c, .mismatch)
  | some _, .busy, .idle => ({ c with usage := .incoming }, .corrected)
  | some _, .busy, .incoming => (c, .matched)
  | some _, .busy, .outgoing _ => (c, .matched)
  | some _, .blocked, _ => if c.remoteBlock then (c, .matched) else ({ c with remoteBlock := true }, .corrected)

/-- The pairs of an audit's result (R23): each audited position of a span with its outcome. -/
def State.auditResult (s : State) (span first : Nat) (views : List FarView) : List (Nat × AuditOutcome) :=
  ((List.range views.length).zip views).map fun e =>
    (first + e.1, ((s.circuit (span * 32 + (first + e.1))).audited e.2).2)

/-- A definition names a defined carrier, and a defined tariff unless the carrier is 0 (R27). -/
def State.definitionNamed (s : State) (d : GroupDefn) : Prop :=
  (Table.find s.carriers d.carrier).isSome = true ∧
    (d.carrier = 0 ∨ ∃ t, d.tariff = some t ∧ (Table.find s.tariffs t).isSome = true)

/-- A call that a request names is there, and an expected serial is its own (R65, R66, R87). -/
def State.namesCall (s : State) (h : Nat) (expected : Option Nat) (c : Call) : Prop :=
  s.call h = some c ∧ (expected = none ∨ expected = some c.serial)

/-- The tariffs of a table after every pending version that a clock has reached is activated (R132). -/
def activatedBy (before after : Table Tariff) (clock : Instant) : Prop :=
  ∀ tf e, Table.find before tf = some e →
    (∀ v, e.staged = some v → v.effective.reachedBy clock = true →
      Table.find after tf = some { active := v.version, staged := none }) ∧
    ((∀ v, e.staged = some v → v.effective.reachedBy clock = false) → Table.find after tf = some e)

/-! ### A watch that positions leave, an account that a charge reaches, and a record -/

/-- The PARTIAL record that a catch-up of a call writes: what its rating context has since its last record, under its
stale mark (R143, R170). -/
def partialRecord (h : Nat) (c : Call) (r : Rating) : Record :=
  { final := none, serial := c.serial, handle := h, sequence := r.sequence, carrier := c.carrier, group := c.group,
    circuit := c.circuit, tariff := r.tariff, factor := r.factor, period := r.mark, answerDay := r.answerDay,
    answerTime := r.answerTime, billed := r.billed, charge := r.charge, saturated := r.saturated }

/-- What positions leaving a span's watch set make of its watch (R10, R11): it keeps the others, and closes with none
left. -/
def State.watchAfter (s : State) (sp : Nat) (gone : List Nat) : Option DrainWatch :=
  (s.span sp).watch.bind fun w =>
    let left := w.positions.filter fun q => !gone.contains q
    if left = [] then none else some { w with positions := left }

/-- The part `told` when it has reported the watch of `s` that the positions `gone` emptied: the DRAIN flag, and DRAIN
DONE where its class is enabled (R11). -/
def State.drainTold (s told : State) (sp : Nat) (gone : List Nat) (cause : DrainCause) : State :=
  match (s.span sp).watch with
  | none => told
  | some w =>
    if (w.positions.filter fun q => !gone.contains q) = [] then
      (told.setFlag .drain).raiseIf (s.enabled .drain) codeDrainDone
        (.noticeDrainDone sp w.originTag w.merged cause)
    else told

/-- The accumulator of an account after SU are added (R155). -/
def Carrier.accumulated (k : Carrier) (su : Nat) : Nat := min (k.account.accumulator + su) max48

/-- Cap reached after SU are added: a handover of 0 SU changes no field (R155). -/
def Carrier.reachedBy (k : Carrier) (su : Nat) : Bool :=
  if su = 0 then k.capReached else decide (k.cap ≠ 0 ∧ k.cap ≤ k.accumulated su)

/-- The part `told` when it has reported that a charge of `su` to carrier `c` of `s` made its cap reached: the CAPPED
flag, and CAPPED with cause ADDITION where both enables are on (R155). -/
def State.cappedTold (s told : State) (c : Nat) (k : Carrier) (su : Nat) : State :=
  if k.reachedBy su = true ∧ k.capReached = false then
    (told.setFlag .capped).raiseIf (s.enabled .capped && k.cappedNotice) codeCapped
      (.noticeCapped c k.cap (k.accumulated su) .addition s.time.seconds)
  else told

/-- The part `told` when it has reported that the clock activated every pending version of `s` that it has reached: the
TARIFF flag once there is one, and a TARIFF notice for each, in ascending tariff index, where the class is enabled
(R132). -/
def State.tariffsTold (s told : State) (cause : TariffCause) (clock : Instant) : State :=
  let reached := s.tariffs.filterMap fun e =>
    (e.2.staged.filter fun v => v.effective.reachedBy clock).map fun v => (e.1, v.effective)
  if reached = [] then told
  else reached.foldl (fun u e => u.raiseIf (s.enabled .tariff) codeTariff
    (.noticeTariff e.1 e.2 cause clock s.time.seconds (s.groups.countP fun x => x.2.defn.tariff == some e.1)
      (s.calls.countP fun x => x.2.rating.any fun r => r.tariff == e.1))) (told.setFlag .tariff)

/-! ### Invariants -/

/-- The record queue: at most 2,048 records (R170, R172), thresholds in range (R175), and each held flag equal to
its condition (R174). -/
def RecordQueue.Sound (q : RecordQueue) : Prop :=
  q.queue.length ≤ 2048 ∧ q.ae ≤ 2047 ∧ q.af ≤ 2047 ∧
    q.almostEmpty = decide (q.queue.length ≤ q.ae) ∧ q.almostFull = decide (2048 - q.af ≤ q.queue.length)

/-- The request queue holds at most 64 requests (R185), each with at most 4,096 payload bytes (R184), the one being
assembled included, and a space that is no break yet has lasted less than 20 ms (R191). -/
def Link.Sound (l : Link) : Prop :=
  l.requests.length ≤ 64 ∧ (∀ r ∈ l.requests, r.payload.length ≤ 4096) ∧
    (∀ r, l.assembly = some r → r.payload.length ≤ 4096) ∧ l.spaceMs < 20

/-- The clock in range (R123) and a band map of 48 bands 0 to 3 (R128). -/
def State.ClockSound (s : State) : Prop :=
  s.time.seconds < 4294967296 ∧ s.time.timeOfDay < 86400 ∧ s.time.day < 65536 ∧
    s.bandMap.length = 48 ∧ ∀ b ∈ s.bandMap, b ≤ 3

/-- The monitor (R96) and the guard (R113) in range; next sample is absent exactly in HELD, and the clear-sample
count stays below 3. -/
def State.ControlSound (s : State) : Prop :=
  (1 ≤ s.monitor.sampleInterval ∧ s.monitor.sampleInterval ≤ 60) ∧
    (1 ≤ s.monitor.statsInterval ∧ s.monitor.statsInterval ≤ 720) ∧ s.monitor.samplesInInterval ≤ 719 ∧
    (s.monitor.nextSample = none ↔ s.monitor.hold = .held) ∧
    s.guard.gGroups ≤ 256 ∧ s.guard.qGuard ≤ 64 ∧ (1 ≤ s.guard.depth ∧ s.guard.depth ≤ 8) ∧ s.guard.clearCount < 3

/-- The period fields (R157): a listed length, a 32-bit number, a deferred boundary only while a sweep is in
flight (R160), and a sweep on a handle 0 to 8,191 (R162). -/
def Periods.Sound (p : Periods) : Prop :=
  p.length ∈ periodLengths ∧ p.number < 4294967296 ∧ (p.deferred = true → p.sweep.isSome = true) ∧
    ∀ sw, p.sweep = some sw → sw.nextHandle < 8192

/-- A rating context: a residue 0 to 3,839 (R138) and amounts of 32 bits (R137, R139). -/
def Rating.Sound (r : Rating) : Prop :=
  r.residue < 3840 ∧ r.charge ≤ max32 ∧ r.billed ≤ max32 ∧ r.totalCharge ≤ max32 ∧ r.totalBilled ≤ max32

/-- Every rating context of the Call Table is sound. -/
def State.RatingsSound (s : State) : Prop :=
  ∀ h c r, (h, c) ∈ s.calls → c.rating = some r → r.Sound

/-- Every sparse table stands in strictly rising order, and lists no circuit or span that has its power-on record
(log 16). -/
def State.TablesSound (s : State) : Prop :=
  Table.rising s.circuits = true ∧ Table.rising s.spans = true ∧ Table.rising s.groups = true ∧
    Table.rising s.plans = true ∧ Table.rising s.calls = true ∧ Table.rising s.tariffs = true ∧
    Table.rising s.carriers = true ∧ (∀ e ∈ s.circuits, e.2 ≠ Circuit.powerOn) ∧ ∀ e ∈ s.spans, e.2 ≠ Span.powerOn

/-- A circuit is OUTGOING with a handle exactly when the call on that handle names it (R60), and no handle is above
8,191 (R59). -/
def State.CallsAgree (s : State) : Prop :=
  (∀ n h, (s.circuit n).usage = .outgoing h ↔ ∃ c, s.call h = some c ∧ c.circuit = n) ∧
    ∀ h, s.call h ≠ none → h < 8192

/-- A circuit's group is the defined group whose member list names it, circuits 0 to 8,191 alone are listed, each once
(R1, R25, R27), a circuit in use is equipped (R1), and a busy count is the number of busy members (R2). -/
def State.GroupsAgree (s : State) : Prop :=
  (∀ n g, (s.circuit n).group = some g ↔ ∃ grp, Table.find s.groups g = some grp ∧ n ∈ grp.members) ∧
    (∀ n, (s.circuit n).usage ≠ .idle → (s.circuit n).group ≠ none) ∧
    ∀ g grp, Table.find s.groups g = some grp → grp.members.Nodup ∧ (∀ n ∈ grp.members, n < 8192) ∧
      grp.busyCount = grp.members.countP fun n => (s.circuit n).usage.busy

/-- The set of an open drain watch is not empty and holds positions 0 to 31 (R4). -/
def State.WatchesAgree (s : State) : Prop :=
  ∀ m w, (s.span m).watch = some w → w.positions ≠ [] ∧ ∀ q ∈ w.positions, q < 32

/-- Circuits, calls, groups and watches agree. -/
def State.Agrees (s : State) : Prop := s.CallsAgree ∧ s.GroupsAgree ∧ s.WatchesAgree

/-- The state of a safe run. -/
def State.Sound (s : State) : Prop :=
  s.records.Sound ∧ s.link.Sound ∧ s.ClockSound ∧ s.ControlSound ∧ s.periods.Sound ∧ s.RatingsSound ∧
    s.TablesSound ∧ s.Agrees

/-- An outcome in which the part goes on with a state that satisfies `P`. -/
def runsTo (o : Host.Outcome State Fault Refusal) (P : State → Prop) : Prop :=
  ∃ t, o = .next t ∧ P t

end Sys2Proof.Machine
end

