-- ==== Sys2Proof/Certificates/Slice0/Obligations.lean ====
section
/-! DEFINITION. The statements for the provers, chapter by chapter. -/

open Sys2Proof Sys2Proof.Machine

/-! ### The step, reset and the pins -/

/-- A step runs the command at the front of the queue with the queue's rest; on an empty queue the part idles, the
model's choice (log 1). -/
def Obligations.StepRunsTheQueue : Prop :=
  (∀ (s : State) (i : Instr) (rest : List Instr), s.pending = i :: rest →
    step s = exec i { s with pending := rest }) ∧
  (∀ s : State, s.pending = [] → step s = .next s)

/-- What power-on leaves (R3, R4, R26, R58, R73, R112, R122, R123, R128, R130, R151, R169, R182,
R192). -/
def Obligations.ResetValuesOfEveryBlock : Prop :=
  (∀ n, State.reset.circuit n = { group := none, usage := .idle, localBlock := false, remoteBlock := false }) ∧
  (∀ n, State.reset.span n = { watch := none, lastAudit := none }) ∧
  (∀ g, Table.find State.reset.groups g = none) ∧
  State.reset.prefixes = [] ∧ (∀ p, Table.find State.reset.plans p = none) ∧
  (∀ h, State.reset.call h = none) ∧ State.reset.serialCounter = 0 ∧
  State.reset.monitor = ⟨5, 180, 0, .running, some 5⟩ ∧
  State.reset.guard = ⟨.auto, .normal, 0, 0, 48, 2, none⟩ ∧
  State.reset.time = ⟨0, 0, 0⟩ ∧ State.reset.bandMap = List.replicate 48 0 ∧
  (∀ t, Table.find State.reset.tariffs t = none) ∧ (∀ c, c ≠ 0 → Table.find State.reset.carriers c = none) ∧
  (∃ home, Table.find State.reset.carriers 0 = some home ∧ home.admin = .active ∧ home.cap = 0 ∧
    home.capReached = false ∧ home.openCalls = 0 ∧ home.account = ⟨0, 0, 0, 0, false⟩ ∧
    home.snapshot = ⟨⟨0, 0, 0, 0, false⟩, 0, true, true⟩) ∧
  State.reset.periods.number = 0 ∧ State.reset.periods.length = 1440 ∧ State.reset.periods.closed = none ∧
  State.reset.periods.sweep = none ∧ State.reset.periods.deferred = false ∧
  State.reset.records = ⟨[], .batch, 16, 64, true, false, 0, 0, none⟩ ∧
  State.reset.link.requests = [] ∧ State.reset.link.sendList = [] ∧ State.reset.link.transmitter = none ∧
  State.reset.link.assembly = none ∧ State.reset.link.flags = 0 ∧ State.reset.link.enables = 0 ∧
  State.reset.link.noticeCounter = 0

/-- Power applied and a low RESET_N put the part into its power-on state; a pulse shorter than 10 µs is ignored;
the part runs when the pin returns high, and the 20 ms of a link break are counted from that moment (R193). That the
commands waiting stay (log 1), that the pin's pulse is one command (log 6), that the command carries the straps (log 7),
and that a return of the pin which finds it high changes nothing (logs 3 and 22), are the model's choices. -/
def Obligations.PowerOnAndResetPin : Prop :=
  ∀ (s : State) (straps : BitVec 2) (us : Nat),
    exec (.powerOn .powerApplied straps) s =
      .next { State.reset with rateStraps := straps, pending := s.pending } ∧
    (10 ≤ us → exec (.powerOn (.resetPinLow us) straps) s =
      .next { State.reset with rateStraps := straps, pending := s.pending, resetLow := true }) ∧
    (us < 10 → exec (.powerOn (.resetPinLow us) straps) s = .next s) ∧
    (s.resetLow = true → exec .resetPinReturnsHigh s =
      .next { s with resetLow := false, link := { s.link with spaceMs := 0 } }) ∧
    (s.resetLow = false → exec .resetPinReturnsHigh s = .next s)

/-- While RESET_N is low no command but a power-on and the pin's return changes anything (R193): the model's
reading (log 6). -/
def Obligations.ResetPinLowHoldsThePart : Prop :=
  ∀ (s : State) (i : Instr), i.wellFormed = true → s.resetLow = true →
    (∀ cause straps, i ≠ .powerOn cause straps) → i ≠ .resetPinReturnsHigh → exec i s = .next s

/-! ### Requests and the link -/

/-- A request that is not taken at once: an empty queue, a waiting head, a place behind others, a full queue
(R185, R162). That the command of the waiting head changes nothing (log 2), and that an arriving one leaves a message
being assembled standing (log 24), are the model's choices. -/
def Obligations.RequestsWaitOrOverload : Prop :=
  ∀ (s : State) (i : Instr) (type : Byte) (tag : Tag) (p : List Byte),
    i.wellFormed = true → i.request? = some (type, tag, p) → s.resetLow = false →
    (s.link.requests.head? = some (Request.ofPayload type tag p) →
      64 ≤ s.link.sendList.length ∨ s.visitOwedToRequests = true → exec i s = .next s) ∧
    (s.link.lineBroken = false → s.link.requests = [] →
      64 ≤ s.link.sendList.length ∨ s.visitOwedToRequests = true →
      exec i s = .next { s with link := { s.link with requests := [Request.ofPayload type tag p] } }) ∧
    (s.link.lineBroken = false → s.link.requests.head? ≠ some (Request.ofPayload type tag p) →
      0 < s.link.requests.length → s.link.requests.length < 64 →
      exec i s = .next { s with link := { s.link with
        requests := s.link.requests ++ [Request.ofPayload type tag p] } }) ∧
    (s.link.lineBroken = false → s.link.requests.head? ≠ some (Request.ofPayload type tag p) →
      s.link.requests.length = 64 →
      exec i s = .next (if s.link.sendList.length < 64
        then (s.setFlag .requestOverload).send
          { code := (type &&& 0x3F).toNat, tag := tag, body := .result .overload }
        else s.setFlag .requestOverload))

/-- A request of a known code with more than 4,096 payload bytes is replied BAD_LENGTH and does nothing, and so is a
request without operands whose payload is not empty (R184, R187, R190, R107, R109, R110, R120, R127, R129, R161,
R166, R180). -/
def Obligations.WrongLengthsAreBadLength : Prop :=
  (∀ (s : State) (i : Instr) (type : Byte) (tag : Tag) (p : List Byte),
    i.wellFormed = true → i.request? = some (type, tag, p) → isUnknownType type = false → 4096 < p.length →
    s.resetLow = false → s.link.lineBroken = false → s.link.requests = [] → s.link.sendList.length < 64 →
    s.visitOwedToRequests = false →
    exec i s = .next (s.answer (type &&& 0x3F).toNat tag (.result .badLength))) ∧
  (∀ (s : State) (tag : Tag) (p : List Byte), p ≠ [] →
    (s.takesNow 0x01 tag p → exec (.statusRead tag p) s = .next (s.answer 0x01 tag (.result .badLength))) ∧
    (s.takesNow 0x03 tag p → exec (.deviceRestart tag p) s = .next (s.answer 0x03 tag (.result .badLength))) ∧
    (s.takesNow 0x1E tag p → exec (.monitorHold tag p) s = .next (s.answer 0x1E tag (.result .badLength))) ∧
    (s.takesNow 0x1F tag p → exec (.monitorResume tag p) s = .next (s.answer 0x1F tag (.result .badLength))) ∧
    (s.takesNow 0x20 tag p → exec (.monitorRead tag p) s = .next (s.answer 0x20 tag (.result .badLength))) ∧
    (s.takesNow 0x23 tag p → exec (.guardRead tag p) s = .next (s.answer 0x23 tag (.result .badLength))) ∧
    (s.takesNow 0x25 tag p → exec (.clockRead tag p) s = .next (s.answer 0x25 tag (.result .badLength))) ∧
    (s.takesNow 0x27 tag p → exec (.bandMapRead tag p) s = .next (s.answer 0x27 tag (.result .badLength))) ∧
    (s.takesNow 0x30 tag p → exec (.periodClose tag p) s = .next (s.answer 0x30 tag (.result .badLength))) ∧
    (s.takesNow 0x31 tag p → exec (.periodReport tag p) s = .next (s.answer 0x31 tag (.result .badLength))) ∧
    (s.takesNow 0x35 tag p → exec (.queueRead tag p) s = .next (s.answer 0x35 tag (.result .badLength))))

/-- LINK ECHO returns its payload; a message of unknown code is replied UNKNOWN_REQUEST; STATUS READ shows and clears
the flags; NOTICE ENABLE replaces the enables (R184, R187, R188, R189). -/
def Obligations.LinkRequestsAnswered : Prop :=
  (∀ (s : State) (type : Byte) (tag : Tag) (p : List Byte),
    (s.takesNow 0x00 tag p → exec (.linkEcho tag p) s = .next (s.answer 0x00 tag (.echo p))) ∧
    (isMessageType type = true → isUnknownType type = true → s.takesNow type tag p →
      exec (.unknownRequest type tag p) s =
        .next (s.answer (type &&& 0x3F).toNat tag (.result .unknownRequest)))) ∧
  (∀ (s : State) (tag : Tag) (b : Byte),
    (s.takesNow 0x01 tag [] →
      exec (.statusRead tag []) s =
        let a := s.answer 0x01 tag (.status s.link.flags s.link.requests.tail.length)
        .next { a with link := { a.link with flags := 0 } }) ∧
    (s.takesNow 0x02 tag [b] → b.getLsbD 7 = false →
      exec (.noticeEnable tag [b]) s =
        let a := s.answer 0x02 tag (.noticesEnabled s.link.enables (b.truncate 7))
        .next { a with link := { a.link with enables := b.truncate 7 } }))

/-! ### Chapter 1: circuits and spans -/

/-- A PLAIN block sets the local block, REMOTE BLOCK and REMOTE UNBLOCK write the remote block, of every circuit in
scope, and nothing else changes (R6, R13, R14). -/
def Obligations.BlockFlagsWritten : Prop :=
  (∀ (s : State) (tag : Tag) (p : List Byte) (sc : Scope),
    parseBlock p = .ok (sc, .plain) → s.takesNow 0x04 tag p →
    runsTo (exec (.circuitBlockPlain tag p) s) fun t =>
      (∀ n, t.circuit n = if n ∈ sc.circuits then { s.circuit n with localBlock := true } else s.circuit n) ∧
      { t with circuits := s.circuits } = s.answer 0x04 tag (.result .ok)) ∧
  (∀ (s : State) (tag : Tag) (p : List Byte) (sc : Scope), parseScope p = .ok sc →
    (s.takesNow 0x06 tag p →
      runsTo (exec (.remoteBlock tag p) s) fun t =>
        (∀ n, t.circuit n = if n ∈ sc.circuits then { s.circuit n with remoteBlock := true } else s.circuit n) ∧
        { t with circuits := s.circuits } = s.answer 0x06 tag (.result .ok)) ∧
    (s.takesNow 0x07 tag p →
      runsTo (exec (.remoteUnblock tag p) s) fun t =>
        (∀ n, t.circuit n = if n ∈ sc.circuits then { s.circuit n with remoteBlock := false } else s.circuit n) ∧
        { t with circuits := s.circuits } = s.answer 0x07 tag (.result .ok)))

/-- A DRAIN block sets the local blocks in scope and opens the span's watch over the busy circuits, completing it
after the reply with none busy, or joins the open watch (R7, R11). Notice numbers: the model's choice (log 23). -/
def Obligations.DrainBlockAndItsWatch : Prop :=
  (∀ (s : State) (tag : Tag) (p : List Byte) (sc : Scope),
    parseBlock p = .ok (sc, .drain) → s.takesNow 0x04 tag p → (s.span sc.spanIndex).watch = none →
    runsTo (exec (.circuitBlockDrain tag p) s) fun t =>
      let busy := (sc.circuits.filter fun n => (s.circuit n).usage.busy).map fun n => n % 32
      let replied := s.answer 0x04 tag (.drainTaken false busy.length)
      (∀ n, t.circuit n = if n ∈ sc.circuits then { s.circuit n with localBlock := true } else s.circuit n) ∧
      (∀ m, m ≠ sc.spanIndex → t.span m = s.span m) ∧
      (busy ≠ [] → t.span sc.spanIndex =
          { s.span sc.spanIndex with watch := some { positions := busy, originTag := tag, merged := 1 } } ∧
        { t with circuits := s.circuits, spans := s.spans } = replied) ∧
      (busy = [] → t.span sc.spanIndex = s.span sc.spanIndex ∧
        { t with circuits := s.circuits, spans := s.spans } =
          (replied.setFlag .drain).raiseIf (s.enabled .drain) codeDrainDone
            (.noticeDrainDone sc.spanIndex tag 1 .idle))) ∧
  (∀ (s : State) (tag : Tag) (p : List Byte) (sc : Scope) (w : DrainWatch),
    parseBlock p = .ok (sc, .drain) → s.takesNow 0x04 tag p → (s.span sc.spanIndex).watch = some w →
    runsTo (exec (.circuitBlockDrain tag p) s) fun t =>
      let busy := (sc.circuits.filter fun n => (s.circuit n).usage.busy).map fun n => n % 32
      (∀ n, t.circuit n = if n ∈ sc.circuits then { s.circuit n with localBlock := true } else s.circuit n) ∧
      (∀ m, m ≠ sc.spanIndex → t.span m = s.span m) ∧
      (∃ l, t.span sc.spanIndex = { s.span sc.spanIndex with
          watch := some { positions := l, originTag := w.originTag, merged := min (w.merged + 1) 65535 } } ∧
        ∀ q, q < 32 → (q ∈ l ↔ q ∈ w.positions ∨ q ∈ busy)) ∧
      { t with circuits := s.circuits, spans := s.spans } =
        s.answer 0x04 tag (.drainTaken true (busy.filter fun q => !w.positions.contains q).length))

/-- CIRCUIT UNBLOCK clears the local blocks in scope. It takes the positions out of an open watch, and a watch that it
empties completes with cause UNBLOCKED after the reply; with the watch closed it does nothing more (R9, R11). Notice
numbers: the model's choice (log 23). -/
def Obligations.UnblockLeavesTheWatch : Prop :=
  (∀ (s : State) (tag : Tag) (p : List Byte) (sc : Scope) (w : DrainWatch),
    parseScope p = .ok sc → s.takesNow 0x05 tag p → (s.span sc.spanIndex).watch = some w →
    runsTo (exec (.circuitUnblock tag p) s) fun t =>
      let scope := sc.circuits.map fun n => n % 32
      let left := w.positions.filter fun q => !scope.contains q
      let replied := s.answer 0x05 tag (.unblocked (scope.filter fun q => w.positions.contains q).length)
      (∀ n, t.circuit n = if n ∈ sc.circuits then { s.circuit n with localBlock := false } else s.circuit n) ∧
      (∀ m, m ≠ sc.spanIndex → t.span m = s.span m) ∧
      (left ≠ [] → t.span sc.spanIndex =
          { s.span sc.spanIndex with watch := some { w with positions := left } } ∧
        { t with circuits := s.circuits, spans := s.spans } = replied) ∧
      (left = [] → t.span sc.spanIndex = { s.span sc.spanIndex with watch := none } ∧
        { t with circuits := s.circuits, spans := s.spans } =
          (replied.setFlag .drain).raiseIf (s.enabled .drain) codeDrainDone
            (.noticeDrainDone sc.spanIndex w.originTag w.merged .unblocked))) ∧
  (∀ (s : State) (tag : Tag) (p : List Byte) (sc : Scope),
    parseScope p = .ok sc → s.takesNow 0x05 tag p → (s.span sc.spanIndex).watch = none →
    runsTo (exec (.circuitUnblock tag p) s) fun t =>
      (∀ n, t.circuit n = if n ∈ sc.circuits then { s.circuit n with localBlock := false } else s.circuit n) ∧
      { t with circuits := s.circuits } = s.answer 0x05 tag (.unblocked 0))

/-- A FORCED block clears every circuit in scope that is in use and blocks them all: incoming seizures end, calls are
closed, and each is reported lost after the reply, in ascending circuit number; positions leave the span's watch,
which completes last. Of a rated call that is answered, the close writes a FINAL record with cause FORCED (R5, R8,
R10, R11, R67, R68). Notice numbers: the model's choice (log 23). -/
def Obligations.ForcedBlockClearsACircuit : Prop :=
  (∀ (s : State) (tag : Tag) (p : List Byte) (sc : Scope),
    parseBlock p = .ok (sc, .forced) → s.takesNow 0x04 tag p →
    (∀ n h, n ∈ sc.circuits → (s.circuit n).usage = .outgoing h → ∃ c, s.call h = some c ∧ c.circuit = n ∧
      (c.answeredAt = none ∨ c.rating = none)) →
    runsTo (exec (.circuitBlockForced tag p) s) fun t =>
      let busy := sc.circuits.filter fun n => (s.circuit n).usage.busy
      let lost := sc.circuits.filterMap fun n => match (s.circuit n).usage with
        | .outgoing h => (s.call h).map fun c => (h, c)
        | _ => none
      let gone := busy.map fun n => n % 32
      let replied := s.answer 0x04 tag
        (.forcedCleared lost.length (sc.circuits.countP fun n => (s.circuit n).usage == .incoming))
      let told := lost.foldl (fun u e => u.raise codeCallLost (.noticeLost e.1 e.2.serial none)) replied
      (∀ n, t.circuit n = if n ∈ sc.circuits then { s.circuit n with localBlock := true, usage := .idle }
        else s.circuit n) ∧
      (∀ h, t.call h = if (lost.any fun e => e.1 == h) then none else s.call h) ∧
      (∀ g, Table.find t.groups g = (Table.find s.groups g).map fun grp => { grp with
        busyCount := grp.busyCount - busy.countP fun n => (s.circuit n).group == some g }) ∧
      (∀ k, Table.find t.carriers k = (Table.find s.carriers k).map fun x => { x with
        openCalls := x.openCalls - lost.countP fun e => e.2.carrier == k }) ∧
      (∀ m, m ≠ sc.spanIndex → t.span m = s.span m) ∧
      t.span sc.spanIndex = { s.span sc.spanIndex with watch := s.watchAfter sc.spanIndex gone } ∧
      { t with
        circuits := s.circuits, calls := s.calls, groups := s.groups, carriers := s.carriers, spans := s.spans } =
        s.drainTold told sc.spanIndex gone .idle) ∧
  (∀ (s : State) (tag : Tag) (p : List Byte) (n h at_ : Nat) (c : Call) (r : Rating) (k : Carrier),
    parseBlock p = .ok (.circuit n, .forced) → s.takesNow 0x04 tag p → (s.span (n / 32)).watch = none →
    (s.circuit n).usage = .outgoing h → s.call h = some c → c.circuit = n → c.answeredAt = some at_ →
    at_ < 4294967296 → s.time.seconds < 4294967296 → c.rating = some r → r.mark = s.periods.number →
    r.charge < max32 - 1 → r.totalCharge < max32 - 1 → r.saturated = false →
    Table.find s.carriers c.carrier = some k → s.records.queue.length < 2048 →
    runsTo (exec (.circuitBlockForced tag p) s) fun t =>
      let charge := r.charge + if 1920 ≤ r.residue then 1 else 0
      t.circuit n = { s.circuit n with localBlock := true, usage := .idle } ∧
      (∀ m, m ≠ n → t.circuit m = s.circuit m) ∧ t.call h = none ∧ (∀ m, m ≠ h → t.call m = s.call m) ∧
      t.records.queue = s.records.queue ++ [{
        final := some { heldSeconds := (s.time.seconds + 4294967296 - at_) % 4294967296, cause := .forced }
        serial := c.serial, handle := h, sequence := r.sequence, carrier := c.carrier, group := c.group,
        circuit := n, tariff := r.tariff, factor := r.factor, period := s.periods.number,
        answerDay := r.answerDay, answerTime := r.answerTime, billed := r.billed, charge := charge,
        saturated := false }] ∧
      (∃ k', Table.find t.carriers c.carrier = some k' ∧ k'.openCalls = k.openCalls - 1 ∧
        k'.account.recorded = min (k.account.recorded + charge) max48 ∧ k'.snapshot = k.snapshot) ∧
      ∃ raised tag', t.link.sendList = s.link.sendList ++
        { code := 0x04, tag := tag, body := .forcedCleared 1 0 } :: (raised ++
          [{ code := codeCallLost, tag := tag', body := .noticeLost h c.serial none }]))

/-- An INCOMING SEIZE of an idle circuit is accepted and clears the remote block; the other rows of R15 refuse it in
their order and change nothing (R15, R16). -/
def Obligations.IncomingSeizeJudged : Prop :=
  (∀ (s : State) (tag : Tag) (p : List Byte) (n g : Nat),
    parseCircuit p = .ok n → s.takesNow 0x08 tag p → (s.circuit n).group = some g →
    (s.group g).defn.kind ≠ .out → (s.circuit n).localBlock = false → (s.circuit n).usage = .idle →
    runsTo (exec (.incomingSeize tag p) s) fun t =>
      t.circuit n = { s.circuit n with usage := .incoming, remoteBlock := false } ∧
      (∀ m, m ≠ n → t.circuit m = s.circuit m) ∧
      t.groups = Table.modify s.groups g (fun grp => { grp with busyCount := grp.busyCount + 1 }) ∧
      { t with circuits := s.circuits, groups := s.groups } = s.answer 0x08 tag (.result .ok)) ∧
  (∀ (s : State) (tag : Tag) (p : List Byte) (n : Nat), parseCircuit p = .ok n → s.takesNow 0x08 tag p →
    ((s.circuit n).group = none → exec (.incomingSeize tag p) s =
      .next (s.answer 0x08 tag (.result .wrongDirection))) ∧
    ∀ g, (s.circuit n).group = some g →
      ((s.group g).defn.kind = .out → exec (.incomingSeize tag p) s =
        .next (s.answer 0x08 tag (.result .wrongDirection))) ∧
      ((s.group g).defn.kind ≠ .out →
        ((s.circuit n).localBlock = true → exec (.incomingSeize tag p) s =
          .next (s.answer 0x08 tag (.result .blocked))) ∧
        ((s.circuit n).localBlock = false → (s.circuit n).usage = .incoming → exec (.incomingSeize tag p) s =
          .next (s.answer 0x08 tag (.result .duplicate))) ∧
        ∀ h c, (s.circuit n).localBlock = false → (s.circuit n).usage = .outgoing h → s.call h = some c →
          c.answered = true → exec (.incomingSeize tag p) s = .next (s.answer 0x08 tag (.result .circuitBusy))))

/-- Glare is counted, whoever keeps the circuit. This exchange keeps the circuits that its glare control and their
span position give it. The far end takes the others, and the call that lost its circuit ends the same request
reseized, on a circuit of its own group where the re-hunt seizes one, and told by CALL REROUTED, or closed, and told
by CALL LOST with its reason, after the reply (R17, R39, R40, R41, R64, R91, R92, R93). Notice numbers: the model's
choice (log 23). -/
def Obligations.GlareHeldOrGivenUp : Prop :=
  ∀ (s : State) (tag : Tag) (p : List Byte) (n g h : Nat) (c : Call) (grp : Group),
    parseCircuit p = .ok n → s.takesNow 0x08 tag p → (s.circuit n).group = some g →
    Table.find s.groups g = some grp → grp.defn.kind ≠ .out → (s.circuit n).localBlock = false →
    (s.circuit n).usage = .outgoing h → s.call h = some c → c.answered = false →
    let control := grp.defn.glareControl
    let held := control = .all ∨ (control = .odd ∧ n % 2 = 1) ∨ (control = .even ∧ n % 2 = 0)
    (held → exec (.incomingSeize tag p) s =
      .next { s.answer 0x08 tag (.result .glareHeld) with
        groups := Table.modify s.groups g fun grp =>
          { grp with current := { grp.current with glares := min (grp.current.glares + 1) max32 } } }) ∧
    (¬held → runsTo (exec (.incomingSeize tag p) s) fun t =>
      let replied := s.answer 0x08 tag (.result .acceptedGlare)
      t.circuit n = { s.circuit n with usage := .incoming, remoteBlock := false } ∧
      (∃ grp', Table.find t.groups g = some grp' ∧
        grp'.current.glares = min (grp.current.glares + 1) max32) ∧
      (∀ k x, k ≠ g → Table.find s.groups k = some x → ∃ x', Table.find t.groups k = some x' ∧
        x'.current.glares = x.current.glares) ∧
      (∀ k, k ≠ h → t.call k = s.call k) ∧
      ((∃ (z : Seizure) (more : List Nat), z.circuit ≠ n ∧
          t.call h = some { c with
            group := z.group, circuit := z.circuit, role := z.role, carrier := z.carrier, quote := z.quote,
            tried := c.tried ++ more } ∧
          z.carrier = (s.group z.group).defn.carrier ∧ z.quote = s.quote z.group ∧
          ((more = [] ∧ z.group = c.group ∧ z.role = c.role) ∨
            ((∃ before, more = before ++ [z.group]) ∧ z.group ∉ c.tried)) ∧
          (t.circuit z.circuit).usage = .outgoing h ∧ s.available z.circuit = true ∧
          (∀ m, m ≠ n → m ≠ z.circuit → t.circuit m = s.circuit m) ∧
          t.carriers = (if c.carrier = z.carrier then s.carriers else
            Table.modify (Table.modify s.carriers c.carrier fun k => { k with openCalls := k.openCalls - 1 }) z.carrier
              fun k => { k with openCalls := k.openCalls + 1 }) ∧
          t.link = (replied.raise codeCallRerouted (.noticeRerouted h c.serial z)).link) ∨
        ∃ v, v ≠ .seized ∧ ((∀ x ∈ (s.plan c.plan).candidateOrder, x.group ∈ c.tried) → v = .tried) ∧
          t.call h = none ∧ (∀ m, m ≠ n → t.circuit m = s.circuit m) ∧
          t.carriers = Table.modify s.carriers c.carrier (fun k => { k with openCalls := k.openCalls - 1 }) ∧
          t.link = (replied.raise codeCallLost (.noticeLost h c.serial (some v))).link) ∧
      (∀ m q, s.groupCheck c.cls c.ceiling c.group c.role = none →
        s.huntOutcome (s.group c.group) c.cls c.role = .seized m q →
        t.link = (replied.raise codeCallRerouted (.noticeRerouted h c.serial
          { group := c.group, circuit := m, position := q, role := c.role,
            carrier := (s.group c.group).defn.carrier, quote := s.quote c.group })).link) ∧
      { t with
        circuits := s.circuits, groups := s.groups, carriers := s.carriers, calls := s.calls, link := s.link } =
        { replied with link := s.link })

/-- INCOMING RELEASE idles a circuit held INCOMING, and is refused WRONG_STATE otherwise (R18). Notice numbers: the
model's choice (log 23). -/
def Obligations.IncomingReleaseIdles : Prop :=
  ∀ (s : State) (tag : Tag) (p : List Byte) (n : Nat), parseCircuit p = .ok n → s.takesNow 0x09 tag p →
    ((s.circuit n).usage ≠ .incoming →
      exec (.incomingRelease tag p) s = .next (s.answer 0x09 tag (.result .wrongState))) ∧
    ∀ g, (s.circuit n).usage = .incoming → (s.circuit n).group = some g →
      runsTo (exec (.incomingRelease tag p) s) fun t =>
        let replied := s.answer 0x09 tag (.result .ok)
        t.circuit n = { s.circuit n with usage := .idle } ∧ (∀ m, m ≠ n → t.circuit m = s.circuit m) ∧
        t.groups = Table.modify s.groups g (fun grp => { grp with busyCount := grp.busyCount - 1 }) ∧
        (∀ m, m ≠ n / 32 → t.span m = s.span m) ∧
        ((s.span (n / 32)).watch = none → t.span (n / 32) = s.span (n / 32) ∧
          { t with circuits := s.circuits, groups := s.groups, spans := s.spans } = replied) ∧
        ∀ w, (s.span (n / 32)).watch = some w →
          let left := w.positions.filter fun q => q != n % 32
          (left ≠ [] → t.span (n / 32) = { s.span (n / 32) with watch := some { w with positions := left } } ∧
            { t with circuits := s.circuits, groups := s.groups, spans := s.spans } = replied) ∧
          (left = [] → t.span (n / 32) = { s.span (n / 32) with watch := none } ∧
            { t with circuits := s.circuits, groups := s.groups, spans := s.spans } =
              (replied.setFlag .drain).raiseIf (s.enabled .drain) codeDrainDone
                (.noticeDrainDone (n / 32) w.originTag w.merged .idle))

/-- CIRCUIT AUDIT corrects and reports each audited position by the tables of R20 to R22, moves the busy counts with
the usages it changes, takes the positions it idles out of an open watch, keeps the result, and sets the AUDIT flag
unless every outcome is MATCH; a watch it empties completes after the reply (R2, R10, R11, R19 to R23). Notice
numbers: the model's choice (log 23). -/
def Obligations.AuditComparesEachPosition : Prop :=
  ∀ (s : State) (tag : Tag) (p : List Byte) (span first : Nat) (views : List FarView),
    parseAudit p = .ok (span, first, views) → s.takesNow 0x0A tag p →
    runsTo (exec (.circuitAudit tag p) s) fun t =>
      let result := s.auditResult span first views
      let at_ (i : Nat) : Circuit := s.circuit (span * 32 + (first + i))
      let idled (g : Nat) : Nat := (List.range views.length).countP fun i =>
        (at_ i).group == some g && (at_ i).usage == .incoming && views[i]? == some .idle
      let seized (g : Nat) : Nat := (List.range views.length).countP fun i =>
        (at_ i).group == some g && (at_ i).usage == .idle && views[i]? == some .busy
      let gone := ((List.range views.length).filter fun i =>
        (at_ i).group.isSome && (at_ i).usage == .incoming && views[i]? == some .idle).map fun i => first + i
      let replied := s.answer 0x0A tag (.audited span first views.length
        (result.countP fun e => e.2 == .matched) (result.countP fun e => e.2 == .corrected)
        (result.countP fun e => e.2 == .mismatch) result)
      let told := if (result.any fun e => e.2 != .matched) = true then replied.setFlag .audit else replied
      (∀ i v, views[i]? = some v →
        t.circuit (span * 32 + (first + i)) = ((s.circuit (span * 32 + (first + i))).audited v).1) ∧
      (∀ n, (∀ i, i < views.length → n ≠ span * 32 + (first + i)) → t.circuit n = s.circuit n) ∧
      (∀ g grp, Table.find s.groups g = some grp → idled g ≤ grp.busyCount → Table.find t.groups g = some { grp with
        busyCount := grp.busyCount + seized g - idled g }) ∧
      t.span span = { watch := s.watchAfter span gone, lastAudit := some result } ∧
      (∀ m, m ≠ span → t.span m = s.span m) ∧
      { t with circuits := s.circuits, spans := s.spans, groups := s.groups } = s.drainTold told span gone .idle

/-! ### Chapter 2: trunk groups and hunting -/

/-- GROUP DEFINE of an undefined group over ungrouped circuits, and GROUP DELETE of an idle group that no plan and no
call names (R27, R30). -/
def Obligations.GroupsDefinedAndDeleted : Prop :=
  (∀ (s : State) (tag : Tag) (p : List Byte) (g : Nat) (d : GroupDefn) (ms : List Nat),
    parseGroupDefine p = .ok (g, d, ms) → s.takesNow 0x0C tag p → Table.find s.groups g = none →
    s.definitionNamed d → (∀ n ∈ ms, (s.circuit n).group = none) →
    runsTo (exec (.groupDefine tag p) s) fun t =>
      (∀ n, t.circuit n = if n ∈ ms then { s.circuit n with group := some g } else s.circuit n) ∧
      Table.find t.groups g = some
        { defn := d, members := ms, busyCount := 0, rotary := ms.length - 1, overflowCount := 0,
          history := ⟨.clear, .clear, .clear⟩, level := .clear, current := ⟨0, 0, 0, 0, 0, 0, 0, 0⟩,
          previous := ⟨0, 0, 0, 0, 0, 0, 0, 0⟩ } ∧
      (∀ k, k ≠ g → Table.find t.groups k = Table.find s.groups k) ∧
      { t with circuits := s.circuits, groups := s.groups } = s.answer 0x0C tag (.result .ok)) ∧
  (∀ (s : State) (tag : Tag) (p : List Byte) (g : Nat) (grp : Group),
    parseIndex 255 p = .ok g → s.takesNow 0x0F tag p → Table.find s.groups g = some grp → grp.busyCount = 0 →
    (∀ e ∈ s.plans, ∀ x ∈ e.2.entries, x.group ≠ g) → (∀ e ∈ s.calls, e.2.incomingGroup ≠ some g) →
    runsTo (exec (.groupDelete tag p) s) fun t =>
      (∀ n, t.circuit n = if n ∈ grp.members then { s.circuit n with group := none } else s.circuit n) ∧
      Table.find t.groups g = none ∧ (∀ k, k ≠ g → Table.find t.groups k = Table.find s.groups k) ∧
      { t with circuits := s.circuits, groups := s.groups } = s.answer 0x0F tag (.result .ok))

/-- GROUP CHANGE rewrites the definition fields alone, and refuses a change of carrier under OUTGOING members; GROUP
MEMBERS replaces the member list (R28, R29). -/
def Obligations.GroupsChanged : Prop :=
  (∀ (s : State) (tag : Tag) (p : List Byte) (g : Nat) (d : GroupDefn) (grp : Group),
    parseGroupChange p = .ok (g, d) → s.takesNow 0x0D tag p → Table.find s.groups g = some grp →
    s.definitionNamed d →
    (d.carrier = grp.defn.carrier ∨ (∀ n ∈ grp.members, ∀ h, (s.circuit n).usage ≠ .outgoing h) →
      exec (.groupChange tag p) s = .next { s.answer 0x0D tag (.result .ok) with
        groups := Table.modify s.groups g fun x => { x with defn := d } }) ∧
    (d.carrier ≠ grp.defn.carrier → (∃ n ∈ grp.members, ∃ h, (s.circuit n).usage = .outgoing h) →
      exec (.groupChange tag p) s = .next (s.answer 0x0D tag (.result .objectInUse)))) ∧
  (∀ (s : State) (tag : Tag) (p : List Byte) (g : Nat) (ms : List Nat) (grp : Group),
    parseGroupMembers p = .ok (g, ms) → s.takesNow 0x0E tag p → Table.find s.groups g = some grp →
    (∀ n ∈ ms, (s.circuit n).group = none ∨ (s.circuit n).group = some g) →
    (∀ n ∈ grp.members, n ∉ ms → (s.circuit n).usage = .idle) →
    runsTo (exec (.groupMembers tag p) s) fun t =>
      (∀ n, t.circuit n =
        if n ∈ ms ∧ n ∉ grp.members then { s.circuit n with group := some g }
        else if n ∈ grp.members ∧ n ∉ ms then { s.circuit n with group := none } else s.circuit n) ∧
      t.groups = Table.modify s.groups g (fun x => { x with members := ms, rotary := ms.length - 1 }) ∧
      { t with circuits := s.circuits, groups := s.groups } =
        s.answer 0x0E tag (.membersReplaced (ms.countP fun n => !grp.members.contains n)
          (ms.countP fun n => grp.members.contains n) (grp.members.countP fun n => !ms.contains n)))

/-- A hunt overflows NONE_IDLE with nothing available, RESERVED where the reservation check fails, and otherwise
seizes the first available member of the group's hunt order: the lowest in LOW_FIRST, the highest in HIGH_FIRST, the
first after the pointer in ROTARY, and in SPREAD the one whose position reversed in k bits is least, 2^k being the
smallest power of two not below the size. Available is equipped, IDLE and blocked by neither end (R2, R32, R33, R34,
R35, R36, R37). -/
def Obligations.HuntOutcomeByItsThreeSteps : Prop :=
  (∀ (s : State) (n : Nat), s.available n = true ↔ (s.circuit n).group ≠ none ∧ (s.circuit n).usage = .idle ∧
    (s.circuit n).localBlock = false ∧ (s.circuit n).remoteBlock = false) ∧
  (∀ (s : State) (grp : Group), s.availableCount grp = grp.members.countP s.available) ∧
  ∀ (s : State) (grp : Group) (cls : CallClass) (role : Role), grp.members.length ≤ 512 →
    let reserve := if s.guard.state = .guarded then max grp.defn.reservation grp.defn.guardReservation
      else grp.defn.reservation
    let barred := cls = .ordinary ∧ role = .alternate ∧ s.availableCount grp ≤ reserve
    (s.availableCount grp = 0 → s.huntOutcome grp cls role = .overflow .noneIdle) ∧
    (s.availableCount grp ≠ 0 → barred → s.huntOutcome grp cls role = .overflow .reserved) ∧
    (s.availableCount grp ≠ 0 → ¬barred → ∃ n q, s.huntOutcome grp cls role = .seized n q ∧
      grp.members[q]? = some n ∧ s.available n = true ∧
      ∀ q' n', grp.members[q']? = some n' → s.available n' = true →
        (grp.defn.huntMode = .lowFirst → q ≤ q') ∧ (grp.defn.huntMode = .highFirst → q' ≤ q) ∧
        (grp.defn.huntMode = .rotary → grp.rotary < grp.members.length →
          (q + grp.members.length - (grp.rotary + 1)) % grp.members.length ≤
            (q' + grp.members.length - (grp.rotary + 1)) % grp.members.length) ∧
        (grp.defn.huntMode = .spread → ∀ k, grp.members.length ≤ 2 ^ k →
          (∀ j, j < k → 2 ^ j < grp.members.length) → reverseBits k q ≤ reverseBits k q'))

/-- What a hunt leaves: a seizure makes the member OUTGOING and counts an attempt and a seizure, an overflow counts an
attempt and an overflow and touches no circuit; an ordinary seizure from an ALTERNATE entry leaves the reservation
available (R32, R34, R36, R37, R38). -/
def Obligations.HuntEffects : Prop :=
  (∀ (s : State) (g h : Nat) (cls : CallClass) (role : Role) (grp : Group), Table.find s.groups g = some grp →
    (∀ n q, (s.hunt g cls role h).1 = .seized n q → (s.circuit n).group = some g →
      let t := (s.hunt g cls role h).2
      s.available n = true ∧ t.circuit n = { s.circuit n with usage := .outgoing h } ∧ (∀ m, m ≠ n → t.circuit m = s.circuit m) ∧
      Table.find t.groups g = some { grp with
        busyCount := grp.busyCount + 1
        rotary := if grp.defn.huntMode = .rotary then q else grp.rotary
        current := { grp.current with
          attempts := min (grp.current.attempts + 1) max32
          seizures := min (grp.current.seizures + 1) max32 } } ∧
      (∀ k, k ≠ g → Table.find t.groups k = Table.find s.groups k) ∧
      { t with circuits := s.circuits, groups := s.groups } = s) ∧
    (∀ v, (s.hunt g cls role h).1 = .overflow v →
      let t := (s.hunt g cls role h).2
      Table.find t.groups g = some { grp with
        overflowCount := min (grp.overflowCount + 1) 65535
        current := { grp.current with
          attempts := min (grp.current.attempts + 1) max32
          overflows := min (grp.current.overflows + 1) max32 } } ∧
      (∀ k, k ≠ g → Table.find t.groups k = Table.find s.groups k) ∧ { t with groups := s.groups } = s)) ∧
  (∀ (s : State) (g h n q : Nat) (grp : Group), Table.find s.groups g = some grp → grp.members.Nodup →
    (s.hunt g .ordinary .alternate h).1 = .seized n q →
    let t := (s.hunt g .ordinary .alternate h).2
    t.reservationInForce grp ≤ t.availableCount grp)

/-! ### Chapter 3: destination analysis and route plans -/

/-- PREFIX WRITE adds, replaces, or is refused TABLE_FULL; PREFIX DELETE removes exactly its string (R43, R45, R46). That
the REPLACED reply carries the new plan after the old one is the model's reading (log 21). -/
def Obligations.PrefixTableWritten : Prop :=
  (∀ (s : State) (tag : Tag) (p : List Byte) (d : List Nat) (plan : Nat),
    parsePrefixWrite p = .ok (d, plan) → s.takesNow 0x11 tag p →
    let known := (Table.find s.plans plan).isSome
    ((∀ e ∈ s.prefixes, e.digits ≠ d) → s.prefixes.length < 4096 →
      exec (.prefixWrite tag p) s =
        .next { s.answer 0x11 tag (.prefixWritten none (s.prefixes.length + 1) known) with
          prefixes := s.prefixes ++ [{ digits := d, plan := plan }] }) ∧
    ((∀ e ∈ s.prefixes, e.digits ≠ d) → 4096 ≤ s.prefixes.length →
      exec (.prefixWrite tag p) s = .next (s.answer 0x11 tag (.result .tableFull))) ∧
    (∀ e ∈ s.prefixes, e.digits = d → (∀ x ∈ s.prefixes, x.digits = d → x = e) →
      exec (.prefixWrite tag p) s =
        .next { s.answer 0x11 tag (.prefixWritten (some (e.plan, plan)) s.prefixes.length known) with
          prefixes := s.prefixes.map fun x => if x.digits = d then { x with plan := plan } else x })) ∧
  (∀ (s : State) (tag : Tag) (p : List Byte) (d : List Nat),
    parseDigits p = .ok d → s.takesNow 0x12 tag p →
    ((∀ e ∈ s.prefixes, e.digits ≠ d) →
      exec (.prefixDelete tag p) s = .next (s.answer 0x12 tag (.result .noSuchObject))) ∧
    (∀ before after e, s.prefixes = before ++ e :: after → e.digits = d →
      (∀ x ∈ before ++ after, x.digits ≠ d) →
      exec (.prefixDelete tag p) s =
        .next { s.answer 0x12 tag (.prefixDeleted e.plan (before ++ after).length) with
          prefixes := before ++ after }))

/-- A lookup selects the longest entry that begins the destination, and never falls back on a shorter one (R44). -/
def Obligations.LookupSelectsTheLongest : Prop :=
  ∀ (s : State) (dest : List Nat),
    (s.lookup dest = .noMatch ↔ ∀ e ∈ s.prefixes, ¬ e.digits <+: dest) ∧
    ∀ d plan, s.lookup dest = .routed d plan ∨ s.lookup dest = .planUndefined d plan →
      (∃ e ∈ s.prefixes, e.digits = d ∧ e.plan = plan) ∧ d <+: dest ∧
      (∀ e ∈ s.prefixes, e.digits <+: dest → e.digits.length ≤ d.length) ∧
      (s.lookup dest = .routed d plan ↔ (Table.find s.plans plan).isSome = true)

/-- PLAN WRITE defines the plan with its sticky alternate at alternate 0; PLAN DELETE discards it unless a SEIZED
call names it (R49, R50). -/
def Obligations.PlanWriteAndDelete : Prop :=
  ∀ (s : State) (tag : Tag) (p : List Byte) (plan : Nat),
    (∀ entries ceiling, parsePlanWrite p = .ok (plan, entries, ceiling) → s.takesNow 0x14 tag p →
      (∀ e ∈ entries, (Table.find s.groups e.group).isSome = true) →
      runsTo (exec (.planWrite tag p) s) fun t =>
        Table.find t.plans plan = some {
          entries := entries, ceiling := ceiling,
          sticky := if entries.any (fun e => e.role == .alternate) then some 0 else none } ∧
        (∀ k, k ≠ plan → Table.find t.plans k = Table.find s.plans k) ∧
        { t with plans := s.plans } = s.answer 0x14 tag (.planWritten (Table.find s.plans plan).isSome
          (entries.countP fun e => e.role == .first) (entries.countP fun e => e.role == .alternate)
          (s.prefixes.countP fun e => e.plan == plan)
          (s.calls.countP fun e => !e.2.answered && e.2.plan == plan))) ∧
    (parsePlan p = .ok plan → s.takesNow 0x15 tag p → (Table.find s.plans plan).isSome = true →
      (∀ e ∈ s.calls, e.2.answered = true ∨ e.2.plan ≠ plan) →
      runsTo (exec (.planDelete tag p) s) fun t =>
        Table.find t.plans plan = none ∧ (∀ k, k ≠ plan → Table.find t.plans k = Table.find s.plans k) ∧
        { t with plans := s.plans } =
          s.answer 0x15 tag (.planDeleted (s.prefixes.countP fun e => e.plan == plan))) ∧
    (parsePlan p = .ok plan → s.takesNow 0x15 tag p → (Table.find s.plans plan).isSome = true →
      (∃ e ∈ s.calls, e.2.answered = false ∧ e.2.plan = plan) →
      exec (.planDelete tag p) s = .next (s.answer 0x15 tag (.result .objectInUse)))

/-- The candidate order takes the FIRST entries, then the ALTERNATE entries from the sticky one on; the sticky alternate
moves on one when an ordinary call overflows on it, and to the alternate an ordinary call seizes; priority calls and
glare reroutes leave it (R52, R54, R55). -/
def Obligations.StickyAlternateOrdersAndMoves : Prop :=
  (∀ (p : Plan),
    let alternates := p.entries.filter fun e => e.role == .alternate
    p.sticky.getD 0 ≤ alternates.length →
    p.candidateOrder.map (fun c => ({ group := c.group, role := c.role } : PlanEntry)) =
      (p.entries.filter fun e => e.role == .first) ++
        (alternates.drop (p.sticky.getD 0) ++ alternates.take (p.sticky.getD 0))) ∧
  (∀ (s : State) (i : PassInput) (c : Candidate) (p : Plan), Table.find s.plans i.plan = some p →
    (i.cls = .priority ∨ i.movesSticky = false → ∀ seized, s.moveSticky i c seized = s) ∧
    (i.cls = .ordinary → i.movesSticky = true →
      (∀ k, c.number = some k → p.sticky = some k →
        Table.find (s.moveSticky i c false).plans i.plan =
          some { p with sticky := some ((k + 1) % (p.entries.countP fun e => e.role == .alternate)) }) ∧
      (c.number ≠ p.sticky → Table.find (s.moveSticky i c false).plans i.plan = some p) ∧
      (c.number = none → ∀ seized, Table.find (s.moveSticky i c seized).plans i.plan = some p) ∧
      ∀ k, c.number = some k →
        Table.find (s.moveSticky i c true).plans i.plan = some { p with sticky := some k }))

/-! ### Chapters 4 and 5: calls and route selection -/

/-- CALL SETUP whose first candidate passes its checks and is seized creates the call on the lowest FREE handle with the
next serial. One whose first candidate overflows goes on to the next, with the overflow counted and the sticky alternate
moved. One whose candidates all fail their checks, or whose last candidate overflows after such failures, is NO_ROUTE
with the last verdict. An unroutable one changes no state of any block. The effective ceiling is the lower of those the
request and the plan give (R53, R61, R62, R63, R75, R76, R84, R85, R86). -/
def Obligations.SetupSeizesOrIsUnroutable : Prop :=
  (∀ a b : Option Nat, (effectiveCeiling a b = none ↔ a = none ∧ b = none) ∧
    ∀ limit, effectiveCeiling a b = some limit ↔ (a = some limit ∨ b = some limit) ∧
      (∀ x, a = some x → limit ≤ x) ∧ ∀ x, b = some x → limit ≤ x) ∧
  (∀ (s : State) (tag : Tag) (p : List Byte) (o : SetupOperands) (digits : List Nat) (plan : Nat) (c : Candidate)
    (rest : List Candidate) (n q : Nat),
    parseSetup p = .ok o → s.takesNow 0x17 tag p →
    (∀ g, o.incoming = some g → (Table.find s.groups g).isSome = true) →
    s.lookup o.destination = .routed digits plan → (s.plan plan).candidateOrder = c :: rest →
    o.incoming ≠ some c.group →
    let ceiling := effectiveCeiling o.ceiling (s.plan plan).ceiling
    s.groupCheck o.cls ceiling c.group c.role = none → 1 ≤ s.guard.depth →
    s.huntOutcome (s.group c.group) o.cls c.role = .seized n q → (s.circuit n).group = some c.group →
    runsTo (exec (.callSetup tag p) s) fun t =>
      let h := s.lowestFree
      let z : Seizure := { group := c.group, circuit := n, position := q, role := c.role,
                           carrier := (s.group c.group).defn.carrier, quote := s.quote c.group }
      Table.find t.calls h = some {
        serial := s.serialCounter, cls := o.cls, incomingGroup := o.incoming,
        plan := plan, ceiling := ceiling, tried := [c.group], group := c.group, circuit := n, role := c.role,
        carrier := z.carrier, quote := z.quote, answeredAt := none, rating := none } ∧
      (∀ k, k ≠ h → Table.find t.calls k = Table.find s.calls k) ∧
      t.serialCounter = (s.serialCounter + 1) % 4294967296 ∧
      t.circuit n = { s.circuit n with usage := .outgoing h } ∧ (∀ m, m ≠ n → t.circuit m = s.circuit m) ∧
      t.carriers = Table.modify s.carriers z.carrier (fun k => { k with openCalls := k.openCalls + 1 }) ∧
      t.groups = Table.modify s.groups c.group (fun grp => { grp.afterSeizure q with busyCount := grp.busyCount + 1 }) ∧
      t.plans = (if o.cls = .ordinary then Table.modify s.plans plan (fun x => x.setSticky c.number) else s.plans) ∧
      { t with
        calls := s.calls, serialCounter := s.serialCounter, circuits := s.circuits, carriers := s.carriers,
        groups := s.groups, plans := s.plans } =
        s.answer 0x17 tag (.setupDone h s.serialCounter plan z [(c.group, .seized)])) ∧
  (∀ (s : State) (tag : Tag) (p : List Byte) (o : SetupOperands) (digits : List Nat) (plan : Nat) (c d : Candidate)
    (rest : List Candidate) (n q : Nat) (v : Verdict),
    parseSetup p = .ok o → s.takesNow 0x17 tag p →
    (∀ g, o.incoming = some g → (Table.find s.groups g).isSome = true) →
    s.lookup o.destination = .routed digits plan → (s.plan plan).candidateOrder = c :: d :: rest →
    o.incoming ≠ some c.group → o.incoming ≠ some d.group → c.group ≠ d.group →
    let ceiling := effectiveCeiling o.ceiling (s.plan plan).ceiling
    s.groupCheck o.cls ceiling c.group c.role = none → s.groupCheck o.cls ceiling d.group d.role = none →
    s.guard.state = .normal ∨ o.cls = .priority ∨ 2 ≤ s.guard.depth →
    s.huntOutcome (s.group c.group) o.cls c.role = .overflow v →
    s.huntOutcome (s.group d.group) o.cls d.role = .seized n q → (s.circuit n).group = some d.group →
    runsTo (exec (.callSetup tag p) s) fun t =>
      let h := s.lowestFree
      let z : Seizure := { group := d.group, circuit := n, position := q, role := d.role,
                           carrier := (s.group d.group).defn.carrier, quote := s.quote d.group }
      Table.find t.calls h = some {
        serial := s.serialCounter, cls := o.cls, incomingGroup := o.incoming,
        plan := plan, ceiling := ceiling, tried := [c.group, d.group], group := d.group, circuit := n, role := d.role,
        carrier := z.carrier, quote := z.quote, answeredAt := none, rating := none } ∧
      (∀ k, k ≠ h → Table.find t.calls k = Table.find s.calls k) ∧
      t.circuit n = { s.circuit n with usage := .outgoing h } ∧ (∀ m, m ≠ n → t.circuit m = s.circuit m) ∧
      (∀ grp, Table.find s.groups c.group = some grp → Table.find t.groups c.group = some { grp with
        overflowCount := min (grp.overflowCount + 1) 65535
        current := { grp.current with
          attempts := min (grp.current.attempts + 1) max32
          overflows := min (grp.current.overflows + 1) max32 } }) ∧
      (∀ grp, Table.find s.groups d.group = some grp → Table.find t.groups d.group =
        some { grp.afterSeizure q with busyCount := grp.busyCount + 1 }) ∧
      (∀ k, k ≠ c.group → k ≠ d.group → Table.find t.groups k = Table.find s.groups k) ∧
      t.plans = (if o.cls = .ordinary then
        Table.modify s.plans plan (fun x => (x.advanceSticky c.number).setSticky d.number) else s.plans) ∧
      t.carriers = Table.modify s.carriers z.carrier (fun k => { k with openCalls := k.openCalls + 1 }) ∧
      t.link = (s.answer 0x17 tag (.setupDone h s.serialCounter plan z [(c.group, v), (d.group, .seized)])).link) ∧
  (∀ (s : State) (tag : Tag) (p : List Byte) (o : SetupOperands) (digits : List Nat) (plan : Nat)
    (failed : List Candidate) (verdict : Candidate → Verdict),
    parseSetup p = .ok o → s.takesNow 0x17 tag p →
    (∀ g, o.incoming = some g → (Table.find s.groups g).isSome = true) →
    s.lookup o.destination = .routed digits plan →
    (∀ x ∈ failed, (o.incoming = some x.group ∧ verdict x = .backward) ∨ (o.incoming ≠ some x.group ∧
      s.groupCheck o.cls (effectiveCeiling o.ceiling (s.plan plan).ceiling) x.group x.role = some (verdict x))) →
    let trace := failed.map fun x => (x.group, verdict x)
    ((s.plan plan).candidateOrder = failed →
      exec (.callSetup tag p) s = .next (s.answer 0x17 tag
        (.setupNoRoute plan ((failed.getLast?.map verdict).getD .tried) trace))) ∧
    ∀ c v, (s.plan plan).candidateOrder = failed ++ [c] → o.incoming ≠ some c.group →
      s.groupCheck o.cls (effectiveCeiling o.ceiling (s.plan plan).ceiling) c.group c.role = none →
      1 ≤ s.guard.depth → s.huntOutcome (s.group c.group) o.cls c.role = .overflow v →
      exec (.callSetup tag p) s = .next { s.answer 0x17 tag (.setupNoRoute plan v (trace ++ [(c.group, v)])) with
        groups := Table.modify s.groups c.group Group.afterOverflow
        plans := if o.cls = .ordinary then Table.modify s.plans plan (fun x => x.advanceSticky c.number)
          else s.plans }) ∧
  (∀ (s : State) (tag : Tag) (p : List Byte) (o : SetupOperands),
    parseSetup p = .ok o → s.takesNow 0x17 tag p →
    (∀ g, o.incoming = some g → (Table.find s.groups g).isSome = true) →
    (s.lookup o.destination = .noMatch →
      exec (.callSetup tag p) s = .next (s.answer 0x17 tag (.setupUnroutable none))) ∧
    ∀ d plan, s.lookup o.destination = .planUndefined d plan →
      exec (.callSetup tag p) s = .next (s.answer 0x17 tag (.setupUnroutable (some (d, plan))))) ∧
  (∀ s : State, (∃ h, h < 8192 ∧ s.call h = none) →
    s.call s.lowestFree = none ∧ s.lowestFree < 8192 ∧ ∀ h, h < s.lowestFree → s.call h ≠ none)

/-- The checks of a candidate are taken in order, and the first that fails gives the verdict: TRIED, BACKWARD,
OUT_OF_SERVICE, CARRIER, CONGESTED, PRICE, DEPTH. What a pass seizes obeys them: an in-service group that may be seized outward, no suspended carrier, no
capped carrier or congested alternate for an ordinary call, a quote within the ceiling, a group not tried before and not
the incoming one, and in GUARDED fewer groups tried before it than the guard depth for an ordinary call. The quote is the
band's rate times the level's factor over 64, and 0 on the home network (R76, R77, R78, R79, R80, R81, R82, R83, R148). -/
def Obligations.SeizuresObeyTheChecks : Prop :=
  (∀ (s : State) (i : PassInput) (tried : List Nat) (c : Candidate),
    let grp := s.group c.group
    let carrier := s.carrier grp.defn.carrier
    let was := c.group ∈ tried
    let back := i.incoming = some c.group
    let out := grp.defn.kind = .inward ∨ grp.defn.admin = .outOfService
    let barred := carrier.admin = .suspended ∨ (i.cls = .ordinary ∧ carrier.capReached = true)
    let congested := i.cls = .ordinary ∧ c.role = .alternate ∧ grp.level = .congested
    let dear := ∃ limit, i.ceiling = some limit ∧ limit < s.quote c.group
    let deep := s.guard.state = .guarded ∧ i.cls = .ordinary ∧ s.guard.depth ≤ tried.length
    let judged := s.groupCheck i.cls i.ceiling c.group c.role
    (judged = some .outOfService ↔ out) ∧ (judged = some .carrier ↔ ¬out ∧ barred) ∧
    (judged = some .congested ↔ ¬out ∧ ¬barred ∧ congested) ∧
    (judged = some .price ↔ ¬out ∧ ¬barred ∧ ¬congested ∧ dear) ∧
    (judged = none ↔ ¬out ∧ ¬barred ∧ ¬congested ∧ ¬dear) ∧
    (s.depthFails i.cls tried = true ↔ deep) ∧
    (s.check i tried c = some .tried ↔ was) ∧ (s.check i tried c = some .backward ↔ ¬was ∧ back) ∧
    (¬was → ¬back → judged ≠ none → s.check i tried c = judged) ∧
    (s.check i tried c = some .depth ↔ ¬was ∧ ¬back ∧ judged = none ∧ deep) ∧
    (s.check i tried c = none ↔ ¬was ∧ ¬back ∧ judged = none ∧ ¬deep)) ∧
  ∀ (s : State) (i : PassInput) (tried : List Nat) (z : Seizure), (s.pass i tried).seizure = some z →
    let grp := s.group z.group
    let carrier := s.carrier grp.defn.carrier
    grp.defn.kind ≠ .inward ∧ grp.defn.admin = .inService ∧ carrier.admin ≠ .suspended ∧
    (i.cls = .ordinary → carrier.capReached = false) ∧
    (i.cls = .ordinary → z.role = .alternate → grp.level ≠ .congested) ∧
    z.quote = s.quote z.group ∧ (∀ limit, i.ceiling = some limit → z.quote ≤ limit) ∧
    z.group ∉ tried ∧ i.incoming ≠ some z.group ∧ z.carrier = grp.defn.carrier ∧
    (∃ before, (s.pass i tried).tried = before ++ [z.group] ∧ tried <+: before ∧ z.group ∉ before ∧
      before.length < 8 ∧ (s.guard.state = .guarded → i.cls = .ordinary → before.length < s.guard.depth)) ∧
    (grp.defn.carrier = 0 → z.quote = 0) ∧
    ∀ tf e, grp.defn.carrier ≠ 0 → grp.defn.tariff = some tf → Table.find s.tariffs tf = some e →
      let band := s.bandMap.getD (s.time.timeOfDay / 1800) 0
      let rate := if band = 0 then e.active.rate0 else if band = 1 then e.active.rate1
        else if band = 2 then e.active.rate2 else e.active.rate3
      let factor := if grp.level = .clear then e.active.factorClear
        else if grp.level = .busy then e.active.factorBusy else e.active.factorCongested
      z.quote = rate * factor / 64

/-- CALL RETRY gives up the circuit, IDLE and for cause FAULT blocked, and counts the crankback. With every route tried,
or with every candidate failing its checks, it closes the call. With an untried candidate that seizes it reseizes the
call, which keeps its handle and serial and moves between the open-call counts of its carriers. Every route is tried when
every group of the plan stands in the tried list, or the list holds 8 (R64, R88, R89, R90). -/
def Obligations.RetryReseizesOrCloses : Prop :=
  (∀ (s : State) (c : Call), s.allRoutesTried c = true ↔
    (∀ e ∈ (s.plan c.plan).entries, e.group ∈ c.tried) ∨ 8 ≤ c.tried.length) ∧
  (∀ (s : State) (tag : Tag) (p : List Byte) (h g : Nat) (cause : RetryCause) (expected : Option Nat) (c : Call)
    (grp : Group),
    parseRetry p = .ok (h, cause, expected) → s.takesNow 0x18 tag p → s.namesCall h expected c →
    c.answeredAt = none → (s.circuit c.circuit).usage = .outgoing h →
    (s.circuit c.circuit).group = some g → c.group = g → Table.find s.groups g = some grp →
    (s.span (c.circuit / 32)).watch = none →
    let closes (body : Body) := runsTo (exec (.callRetry tag p) s) fun t =>
      t.circuit c.circuit = { s.circuit c.circuit with
        usage := .idle, localBlock := (s.circuit c.circuit).localBlock || cause == .fault } ∧
      (∀ m, m ≠ c.circuit → t.circuit m = s.circuit m) ∧
      Table.find t.groups g = some { grp with
        busyCount := grp.busyCount - 1
        current := { grp.current with crankbacks := min (grp.current.crankbacks + 1) max32 } } ∧
      (∀ k, k ≠ g → Table.find t.groups k = Table.find s.groups k) ∧
      t.carriers = Table.modify s.carriers c.carrier (fun k => { k with openCalls := k.openCalls - 1 }) ∧
      t.calls = Table.erase s.calls h ∧
      { t with circuits := s.circuits, groups := s.groups, carriers := s.carriers, calls := s.calls } =
        s.answer 0x18 tag body
    (s.allRoutesTried c = true → closes (.retryAllTried h c.serial c.circuit)) ∧
    ∀ verdict : Candidate → Verdict, s.allRoutesTried c = false →
      (∀ x ∈ (s.plan c.plan).candidateOrder, (x.group ∈ c.tried ∧ verdict x = .tried) ∨
        (x.group ∉ c.tried ∧ c.incomingGroup = some x.group ∧ verdict x = .backward) ∨
        (x.group ∉ c.tried ∧ c.incomingGroup ≠ some x.group ∧
          s.groupCheck c.cls c.ceiling x.group x.role = some (verdict x))) →
      closes (.retryNoRoute h c.serial c.circuit
        (((s.plan c.plan).candidateOrder.getLast?.map verdict).getD .tried)
        ((s.plan c.plan).candidateOrder.map fun x => (x.group, verdict x)))) ∧
  (∀ (s : State) (tag : Tag) (p : List Byte) (h : Nat) (cause : RetryCause) (expected : Option Nat) (c : Call)
    (skipped rest : List Candidate) (x : Candidate) (n q : Nat),
    parseRetry p = .ok (h, cause, expected) → s.takesNow 0x18 tag p → s.namesCall h expected c →
    c.answeredAt = none → s.allRoutesTried c = false → (s.span (c.circuit / 32)).watch = none →
    (s.plan c.plan).candidateOrder = skipped ++ x :: rest → (∀ y ∈ skipped, y.group ∈ c.tried) →
    x.group ∉ c.tried → c.incomingGroup ≠ some x.group →
    (s.crankback c cause).groupCheck c.cls c.ceiling x.group x.role = none →
    s.depthFails c.cls c.tried = false →
    (s.crankback c cause).huntOutcome ((s.crankback c cause).group x.group) c.cls x.role = .seized n q →
    runsTo (exec (.callRetry tag p) s) fun t =>
      let grp := (s.crankback c cause).group x.group
      let z : Seizure := { group := x.group, circuit := n, position := q, role := x.role,
                           carrier := grp.defn.carrier, quote := (s.crankback c cause).quote x.group }
      t.call h = some { c with
        group := z.group, circuit := n, role := x.role, carrier := z.carrier, quote := z.quote,
        tried := c.tried ++ [x.group] } ∧
      (∀ k, k ≠ h → t.call k = s.call k) ∧ (t.circuit n).usage = .outgoing h ∧
      t.serialCounter = s.serialCounter ∧
      t.link = (s.answer 0x18 tag (.retryDone h c.serial c.circuit z
        (skipped.map (fun y => (y.group, Verdict.tried)) ++ [(x.group, .seized)]))).link ∧
      t.plans = (if c.cls = .ordinary then Table.modify s.plans c.plan (fun y => y.setSticky x.number)
        else s.plans) ∧
      t.carriers = (if c.carrier = z.carrier then s.carriers else
        Table.modify (Table.modify s.carriers c.carrier fun k => { k with openCalls := k.openCalls - 1 }) z.carrier
          fun k => { k with openCalls := k.openCalls + 1 }) ∧
      ∀ old new, (s.circuit c.circuit).usage = .outgoing h → (s.circuit c.circuit).group = some c.group →
        c.group ∈ c.tried → (s.circuit n).group = some x.group → Table.find s.groups c.group = some old →
        Table.find s.groups x.group = some new →
        t.circuit c.circuit = { s.circuit c.circuit with
          usage := .idle, localBlock := (s.circuit c.circuit).localBlock || cause == .fault } ∧
        t.circuit n = { s.circuit n with usage := .outgoing h } ∧
        (∀ m, m ≠ c.circuit → m ≠ n → t.circuit m = s.circuit m) ∧
        Table.find t.groups c.group = some { old with
          busyCount := old.busyCount - 1
          current := { old.current with crankbacks := min (old.current.crankbacks + 1) max32 } } ∧
        Table.find t.groups x.group = some { new.afterSeizure q with busyCount := new.busyCount + 1 } ∧
        (∀ k, k ≠ c.group → k ≠ x.group → Table.find t.groups k = Table.find s.groups k) ∧
        { t with
          circuits := s.circuits, groups := s.groups, carriers := s.carriers, calls := s.calls, plans := s.plans
          link := s.link, periods := s.periods } = s)

/-- The answer of a home-network call and the release of a call without a rating context make no charge and write no
record (R65, R66, R67, R68). -/
def Obligations.UnratedCallsCostNothing : Prop :=
  (∀ (s : State) (tag : Tag) (p : List Byte) (h : Nat) (expected : Option Nat) (c : Call),
    parseAnswer p = .ok (h, expected) → s.takesNow 0x19 tag p → s.namesCall h expected c →
    (c.answeredAt = none → c.carrier = 0 →
      exec (.callAnswer tag p) s = .next { s.answer 0x19 tag (.answered c.serial none) with
        calls := Table.modify s.calls h fun x => { x with answeredAt := some s.time.seconds } }) ∧
    (c.answered = true → exec (.callAnswer tag p) s = .next (s.answer 0x19 tag (.result .wrongState)))) ∧
  (∀ (s : State) (tag : Tag) (p : List Byte) (h g : Nat) (cause : CloseCause) (expected : Option Nat) (c : Call),
    parseRelease p = .ok (h, cause, expected) → s.takesNow 0x1A tag p → s.namesCall h expected c →
    c.answeredAt = none ∨ c.rating = none → (s.circuit c.circuit).usage = .outgoing h →
    (s.circuit c.circuit).group = some g → (s.span (c.circuit / 32)).watch = none →
    runsTo (exec (.callRelease tag p) s) fun t =>
      t.circuit c.circuit = { s.circuit c.circuit with usage := .idle } ∧
      (∀ m, m ≠ c.circuit → t.circuit m = s.circuit m) ∧
      t.groups = Table.modify s.groups g (fun grp => { grp with busyCount := grp.busyCount - 1 }) ∧
      t.carriers = Table.modify s.carriers c.carrier (fun k => { k with openCalls := k.openCalls - 1 }) ∧
      t.calls = Table.erase s.calls h ∧
      { t with circuits := s.circuits, groups := s.groups, carriers := s.carriers, calls := s.calls } =
        s.answer 0x1A tag (.released c.serial c.answered 0 none))

/-- CALL ANSWER of a foreign call makes its rating context and charges S and the step of Ti, to the call and to its
carrier's accumulator. The charge that reaches the cap sets cap reached and the CAPPED flag, and is reported after the
reply where both enables are on (R65, R138, R139, R141, R155). Notice numbers: the model's choice (log 23). -/
def Obligations.ForeignCallAnswered : Prop :=
  ∀ (s : State) (tag : Tag) (p : List Byte) (h tf : Nat) (expected : Option Nat) (c : Call) (grp : Group)
    (e : Tariff) (k : Carrier),
    parseAnswer p = .ok (h, expected) → s.takesNow 0x19 tag p → s.namesCall h expected c →
    c.answeredAt = none → c.carrier ≠ 0 → Table.find s.groups c.group = some grp → grp.defn.tariff = some tf →
    Table.find s.tariffs tf = some e → e.active.inRange = true → Table.find s.carriers c.carrier = some k →
    k.account.accumulator ≤ max48 →
    runsTo (exec (.callAnswer tag p) s) fun t =>
      let v := e.active
      let factor := v.factor grp.level
      let amount := v.rate s.band * factor * v.initial
      let charge := v.setup + amount / 3840
      let replied := s.answer 0x19 tag (.answered c.serial (some (factor, charge)))
      let crossing := if v.setup ≠ 0 ∧ k.cap ≤ k.accumulated v.setup then v.setup else charge
      t.call h = some { c with
        answeredAt := some s.time.seconds
        rating := some { tariff := tf, factor := factor, residue := amount % 3840, charge := charge,
                         billed := v.initial, totalCharge := charge, totalBilled := v.initial,
                         nextDue := (s.time.seconds + v.initial) % 4294967296, sequence := 0,
                         mark := s.periods.number, answerDay := s.time.day, answerTime := s.time.timeOfDay,
                         saturated := false } } ∧
      (∀ m, m ≠ h → t.call m = s.call m) ∧
      (∃ k', Table.find t.carriers c.carrier = some k' ∧
        k'.account.accumulator = min (k.account.accumulator + charge) max48 ∧
        k'.account.recorded = k.account.recorded ∧ k'.openCalls = k.openCalls ∧ k'.snapshot = k.snapshot ∧
        k'.capReached = k.reachedBy charge) ∧
      (∀ m, m ≠ c.carrier → Table.find t.carriers m = Table.find s.carriers m) ∧
      (k.capReached = false → t.link = (s.cappedTold replied c.carrier k crossing).link) ∧
      (k.capReached = true → k.cap ≠ 0 → k.cap ≤ k.account.accumulator → t.link = replied.link) ∧
      (∃ after, t.link.sendList = s.link.sendList ++
        { code := 0x19, tag := tag, body := .answered c.serial (some (factor, charge)) } :: after) ∧
      { t with calls := s.calls, carriers := s.carriers, link := s.link, periods := s.periods } = s

/-- CALL RELEASE of a rated call rounds the residue half up into the charge and appends one FINAL record, counted in its
carrier's recorded field. With a stale period mark it makes the catch-up first: a PARTIAL record goes before the FINAL
one and is counted in the closed snapshot (R66, R67, R69, R143, R144, R156, R163, R173). -/
def Obligations.RatedCallReleased : Prop :=
  ∀ (s : State) (tag : Tag) (p : List Byte) (h at_ : Nat) (cause : CloseCause) (expected : Option Nat) (c : Call)
    (r : Rating) (k : Carrier),
    parseRelease p = .ok (h, cause, expected) → s.takesNow 0x1A tag p → s.namesCall h expected c →
    c.answeredAt = some at_ → at_ < 4294967296 → s.time.seconds < 4294967296 → c.rating = some r →
    r.charge < max32 - 1 → r.totalCharge < max32 - 1 → r.saturated = false →
    Table.find s.carriers c.carrier = some k →
    (r.mark = s.periods.number → s.records.queue.length < 2048 →
    runsTo (exec (.callRelease tag p) s) fun t =>
      let charge := r.charge + if 1920 ≤ r.residue then 1 else 0
      let final : Record :=
        { final := some { heldSeconds := (s.time.seconds + 4294967296 - at_) % 4294967296, cause := cause },
          serial := c.serial, handle := h, sequence := r.sequence, carrier := c.carrier, group := c.group,
          circuit := c.circuit, tariff := r.tariff, factor := r.factor, period := s.periods.number,
          answerDay := r.answerDay, answerTime := r.answerTime, billed := r.billed, charge := charge,
          saturated := false }
      t.records.queue = s.records.queue ++ [final] ∧ t.call h = none ∧ (∀ m, m ≠ h → t.call m = s.call m) ∧
      (t.circuit c.circuit).usage = .idle ∧ (∀ m, m ≠ c.circuit → t.circuit m = s.circuit m) ∧
      (∃ k', Table.find t.carriers c.carrier = some k' ∧ k'.openCalls = k.openCalls - 1 ∧
        k'.account.recorded = min (k.account.recorded + charge) max48 ∧ k'.snapshot = k.snapshot) ∧
      (∀ m, m ≠ c.carrier → Table.find t.carriers m = Table.find s.carriers m) ∧
      (∃ after, t.link.sendList = s.link.sendList ++
        { code := 0x1A, tag := tag, body := .released c.serial true 1 (some charge) } :: after) ∧
      t.periods.number = s.periods.number ∧ t.plans = s.plans ∧ t.time = s.time ∧ t.tariffs = s.tariffs) ∧
    (r.mark ≠ s.periods.number → 0 < r.charge ∨ 0 < r.billed → s.records.queue.length < 2047 →
    runsTo (exec (.callRelease tag p) s) fun t =>
      let rounding := if 1920 ≤ r.residue then 1 else 0
      let final : Record :=
        { final := some { heldSeconds := (s.time.seconds + 4294967296 - at_) % 4294967296, cause := cause },
          serial := c.serial, handle := h, sequence := (r.sequence + 1) % 4294967296, carrier := c.carrier,
          group := c.group, circuit := c.circuit, tariff := r.tariff, factor := r.factor,
          period := s.periods.number, answerDay := r.answerDay, answerTime := r.answerTime, billed := 0,
          charge := rounding, saturated := false }
      t.records.queue = s.records.queue ++ [partialRecord h c r, final] ∧ t.call h = none ∧
      (∀ m, m ≠ h → t.call m = s.call m) ∧
      (t.circuit c.circuit).usage = .idle ∧ (∀ m, m ≠ c.circuit → t.circuit m = s.circuit m) ∧
      (∃ k', Table.find t.carriers c.carrier = some k' ∧ k'.openCalls = k.openCalls - 1 ∧
        k'.account.recorded = min (k.account.recorded + rounding) max48 ∧
        k'.snapshot.account.recorded = min (k.snapshot.account.recorded + r.charge) max48 ∧
        k'.snapshot.pendingCalls = k.snapshot.pendingCalls - 1) ∧
      (∀ m, m ≠ c.carrier → Table.find t.carriers m = Table.find s.carriers m) ∧
      (∃ after, t.link.sendList = s.link.sendList ++
        { code := 0x1A, tag := tag, body := .released c.serial true 2 (some rounding) } :: after) ∧
      (t.periods.sweep.map fun sw => sw.byTouch) = (s.periods.sweep.map fun sw => sw.byTouch + 1) ∧
      t.periods.number = s.periods.number ∧ t.plans = s.plans ∧ t.time = s.time ∧ t.tariffs = s.tariffs)

/-- A rating step splits P × F × T plus the residue into whole SU and a residue below 3,840, and loses nothing
(R138). -/
def Obligations.RatingStepConservesTheCharge : Prop :=
  ∀ (s : State) (h carrier rate t : Nat) (r : Rating) (c : Call), s.call h = some c →
    let w := (rate * r.factor * t + r.residue) / 3840
    r.charge + w ≤ max32 → r.totalCharge + w ≤ max32 →
    ∃ c' r', (s.ratingStep h carrier r rate t).call h = some c' ∧ c'.rating = some r' ∧ r'.residue < 3840 ∧
      3840 * r'.charge + r'.residue = 3840 * r.charge + rate * r.factor * t + r.residue ∧
      r'.totalCharge = r.totalCharge + w ∧ r'.billed = min (r.billed + t) max32 ∧
      r'.totalBilled = min (r.totalBilled + t) max32 ∧ { c' with rating := c.rating } = c

/-- An INCREMENT that is due charges Tk seconds at the present band's rate and moves next due on by Tk; the charge
that reaches the cap is reported. With a stale period mark the catch-up goes first: a PARTIAL record where there is
something to carry, counted in the closed snapshot, one pending call less, and one catch-up by touch more while a
sweep is in flight (R142, R143, R155, R156, R163). Notice numbers: the model's choice (log 23). -/
def Obligations.IncrementChargesTk : Prop :=
  ∀ (s : State) (h : Nat) (c : Call) (r : Rating) (e : Tariff) (k : Carrier) (at_ : Nat),
    s.resetLow = false → s.call h = some c → c.answeredAt = some at_ → c.rating = some r →
    r.nextDue = s.time.seconds → Table.find s.tariffs r.tariff = some e →
    Table.find s.carriers c.carrier = some k →
    let v := e.active
    let amount := v.rate s.band * r.factor * v.incr + r.residue
    let w := amount / 3840
    r.charge + w < max32 → r.totalCharge + w < max32 → r.billed + v.incr < max32 →
    r.totalBilled + v.incr < max32 → k.account.accumulator ≤ max48 →
    (r.mark = s.periods.number → runsTo (exec (.increment h) s) fun t =>
      t.call h = some { c with rating := some { r with
        residue := amount % 3840, charge := r.charge + w, totalCharge := r.totalCharge + w,
        billed := r.billed + v.incr, totalBilled := r.totalBilled + v.incr,
        nextDue := (s.time.seconds + v.incr) % 4294967296 } } ∧
      (∀ m, m ≠ h → t.call m = s.call m) ∧
      (∃ k', Table.find t.carriers c.carrier = some k' ∧
        k'.account.accumulator = min (k.account.accumulator + w) max48 ∧ k'.capReached = k.reachedBy w) ∧
      (∀ m, m ≠ c.carrier → Table.find t.carriers m = Table.find s.carriers m) ∧
      t.link = (s.cappedTold s c.carrier k w).link ∧
      { t with calls := s.calls, carriers := s.carriers, link := s.link } = s) ∧
    (r.mark ≠ s.periods.number → s.records.queue.length < 2048 → runsTo (exec (.increment h) s) fun t =>
      let owes := 0 < r.charge ∨ 0 < r.billed
      t.records.queue = s.records.queue ++ (if owes then [partialRecord h c r] else []) ∧
      t.call h = some { c with rating := some { r with
        residue := amount % 3840, charge := w, totalCharge := r.totalCharge + w,
        billed := v.incr, totalBilled := r.totalBilled + v.incr,
        sequence := if owes then (r.sequence + 1) % 4294967296 else r.sequence
        mark := s.periods.number, nextDue := (s.time.seconds + v.incr) % 4294967296 } } ∧
      (∀ m, m ≠ h → t.call m = s.call m) ∧
      (∃ k', Table.find t.carriers c.carrier = some k' ∧
        k'.account.accumulator = min (k.account.accumulator + w) max48 ∧ k'.capReached = k.reachedBy w ∧
        k'.account.recorded = k.account.recorded ∧
        k'.snapshot.account.recorded =
          (if owes then min (k.snapshot.account.recorded + r.charge) max48 else k.snapshot.account.recorded) ∧
        k'.snapshot.pendingCalls = k.snapshot.pendingCalls - 1) ∧
      (∀ m, m ≠ c.carrier → Table.find t.carriers m = Table.find s.carriers m) ∧
      (∃ told, t.link.sendList = s.link.sendList ++ told ∧ ∀ m ∈ told, m.code = codeQueue ∨ m.code = codeCapped) ∧
      { t with
        calls := s.calls, carriers := s.carriers, records := s.records, link := s.link, periods := s.periods } = s ∧
      t.periods = { s.periods with
        sweep := s.periods.sweep.map fun sw => { sw with byTouch := sw.byTouch + 1 } })

/-! ### Chapters 6 and 7: the congestion monitor and the overload guard -/

/-- A sample classes every defined group, shifts its history, takes the class on which two of the three agree as its
level, or BUSY where all differ, zeroes its interval overflow count, counts the sample, rolls the statistics over at the
interval's end, and hands its measures to the guard. Changes of level set the LEVEL flag and are reported in ascending
group order where both enables are on, before a change of guard state (R98, R99, R100, R101, R102, R104, R114, R117). -/
def Obligations.SampleOfEveryGroup : Prop :=
  ∀ s : State, s.resetLow = false → s.monitor.hold = .running → s.monitor.nextSample = some s.time.seconds →
    Table.rising s.groups = true →
    runsTo (exec .sampleInstant s) fun t =>
      let rolls := decide (s.monitor.statsInterval ≤ s.monitor.samplesInInterval + 1)
      let congested := t.groups.countP fun e => e.2.level == .congested
      let depth := s.link.requests.length
      let newLevel (g : Nat) : Option Level := (Table.find t.groups g).map fun x => x.level
      (∀ g grp, Table.find s.groups g = some grp →
        let available := s.availableCount grp
        let cls : Level :=
          if available ≤ grp.defn.tCong ∨ grp.defn.oCong ≤ grp.overflowCount then .congested
          else if available ≤ grp.defn.tBusy ∨ 1 ≤ grp.overflowCount then .busy else .clear
        let history : History := { oldest := grp.history.middle, middle := grp.history.newest, newest := cls }
        let level := if grp.history.middle = grp.history.newest then grp.history.middle
          else if cls = grp.history.middle ∨ cls = grp.history.newest then cls else .busy
        let stats := { grp.current with
          busySampleSum := grp.current.busySampleSum + grp.busyCount
          samplesTaken := grp.current.samplesTaken + 1
          peakBusy := max grp.current.peakBusy grp.busyCount }
        Table.find t.groups g = some { grp with
          history := history, level := level, overflowCount := 0
          current := if rolls then ⟨0, 0, 0, 0, 0, 0, 0, 0⟩ else stats
          previous := if rolls then stats else grp.previous }) ∧
      (∀ g, Table.find s.groups g = none → Table.find t.groups g = none) ∧
      t.monitor = { s.monitor with
        samplesInInterval := if rolls then 0 else s.monitor.samplesInInterval + 1
        nextSample := some ((s.time.seconds + s.monitor.sampleInterval) % 4294967296) } ∧
      t.guard.lastEval = some { seconds := s.time.seconds, congested := congested, depth := depth,
                                condition := decide ((s.guard.gGroups ≠ 0 ∧ s.guard.gGroups ≤ congested) ∨
                                  (s.guard.qGuard ≠ 0 ∧ s.guard.qGuard ≤ depth)) } ∧
      (t.flag .level = true ↔ s.flag .level = true ∨ ∃ g grp grp', Table.find s.groups g = some grp ∧
        Table.find t.groups g = some grp' ∧ grp'.level ≠ grp.level) ∧
      t.link.sendList.map Message.body = s.link.sendList.map Message.body ++
        (s.groups.filterMap fun e => (newLevel e.1).bind fun l =>
          if l ≠ e.2.level ∧ (s.enabled .level && e.2.defn.levelNotice) = true
          then some (Body.noticeLevel e.1 e.2.level l) else none) ++
        (if t.guard.state ≠ s.guard.state ∧ s.enabled .guard = true
          then [Body.noticeGuard s.guard.state t.guard.state s.guard.setting
            (if t.guard.state = .guarded then .condition else .cleared) (some (congested, depth)) s.time.seconds]
          else []) ∧
      { t with groups := s.groups, monitor := s.monitor, guard := s.guard, link := s.link } = s

/-- MONITOR HOLD, the sample instant that makes it effective, and MONITOR RESUME, by the hold state that finds them
(R107, R108, R109). -/
def Obligations.MonitorHoldAndResumeTaken : Prop :=
  (∀ s : State, s.resetLow = false → s.monitor.hold = .holdPending →
    s.monitor.nextSample = some s.time.seconds →
    exec .sampleInstant s = .next { s with monitor := { s.monitor with hold := .held, nextSample := none } }) ∧
  (∀ (s : State) (tag : Tag),
    (s.takesNow 0x1E tag [] →
      (∀ n, s.monitor.hold = .running → s.monitor.nextSample = some n → exec (.monitorHold tag []) s =
        .next { s.answer 0x1E tag (.holdTaken .holdPending n) with
          monitor := { s.monitor with hold := .holdPending } }) ∧
      (s.monitor.hold ≠ .running →
        exec (.monitorHold tag []) s = .next (s.answer 0x1E tag (.result .wrongState)))) ∧
    (s.takesNow 0x1F tag [] →
      (s.monitor.hold = .held → exec (.monitorResume tag []) s =
        let next := (s.time.seconds + s.monitor.sampleInterval) % 4294967296
        .next { s.answer 0x1F tag (.resumed true next) with
          groups := s.groups.map fun e => (e.1, { e.2 with overflowCount := 0 })
          monitor := { s.monitor with hold := .running, nextSample := some next } }) ∧
      (∀ n, s.monitor.hold = .holdPending → s.monitor.nextSample = some n → exec (.monitorResume tag []) s =
        .next { s.answer 0x1F tag (.resumed false n) with monitor := { s.monitor with hold := .running } }) ∧
      (s.monitor.hold = .running →
        exec (.monitorResume tag []) s = .next (s.answer 0x1F tag (.result .wrongState)))))

/-- MONITOR SET, GUARD PARAMETERS and PERIOD LENGTH clamp their values and write them alone; GUARD PARAMETERS refuses
thresholds out of range whole (R106, R119, R158). -/
def Obligations.ParametersAreClamped : Prop :=
  (∀ (s : State) (tag : Tag) (p : List Byte) (a b : Nat), parseTwo p = .ok (a, b) → s.takesNow 0x1D tag p →
    let a' := max 1 (min a 60)
    let b' := max 1 (min b 720)
    exec (.monitorSet tag p) s =
      .next { s.answer 0x1D tag (.monitorSet a' b' (decide (a' ≠ a)) (decide (b' ≠ b)) s.monitor.nextSample) with
        monitor := { s.monitor with sampleInterval := a', statsInterval := b' } }) ∧
  (∀ (s : State) (tag : Tag) (g q d : Nat), g < 65536 → q < 65536 → d < 65536 →
    let p := be 2 g ++ be 2 q ++ be 2 d
    s.takesNow 0x22 tag p →
    (g ≤ 256 → q ≤ 64 → exec (.guardParameters tag p) s =
      let d' := max 1 (min d 8)
      .next { s.answer 0x22 tag (.guardParameters g q d' (decide (d' ≠ d))) with
        guard := { s.guard with gGroups := g, qGuard := q, depth := d' } }) ∧
    (256 < g ∨ 64 < q → exec (.guardParameters tag p) s = .next (s.answer 0x22 tag (.result .badValue)))) ∧
  (∀ (s : State) (tag : Tag) (n l : Nat), n < 65536 → s.takesNow 0x2F tag (be 2 n) →
    l ∈ [15, 30, 60, 120, 180, 240, 360, 480, 720, 1440] →
    (l ≤ n ∧ ∀ m ∈ [15, 30, 60, 120, 180, 240, 360, 480, 720, 1440], m ≤ n → m ≤ l) ∨ (n < 15 ∧ l = 15) →
    exec (.periodLength tag (be 2 n)) s =
      .next { s.answer 0x2F tag (.periodLength l (decide (l ≠ n))
                ((s.time.timeOfDay / (l * 60) + 1) * (l * 60) % 86400)) with
        periods := { (s.answer 0x2F tag (.result .ok)).periods with length := l } })

/-- GUARD SET writes the setting, makes the state agree with a forced one, zeroes the clear-sample count, and reports
a change of state with cause SETTING after the reply (R117, R118). Notice numbers: the model's choice (log 23). -/
def Obligations.GuardSetForcesTheState : Prop :=
  ∀ (s : State) (tag : Tag) (p : List Byte) (setting : GuardSetting),
    parseGuardSet p = .ok setting → s.takesNow 0x21 tag p →
    let state := if setting = .forceOn then .guarded else if setting = .forceOff then .normal else s.guard.state
    let written := { s.answer 0x21 tag (.guardSet s.guard.setting s.guard.state setting state 0) with
      guard := { s.guard with setting := setting, state := state, clearCount := 0 } }
    exec (.guardSet tag p) s =
      .next (if state = s.guard.state then written
        else (written.setFlag .guard).raiseIf (s.enabled .guard) codeGuard
          (.noticeGuard s.guard.state state setting .setting none s.time.seconds))

/-- The evaluation of the guard: one true condition enters GUARDED in AUTO and three false ones in a row leave it; a
forced setting holds its state; the last evaluation is always written (R114, R115, R116, R117). Notice numbers: the
model's choice (log 23). -/
def Obligations.GuardEvaluationTable : Prop :=
  ∀ (s : State) (congested depth : Nat),
    let condition := decide ((s.guard.gGroups ≠ 0 ∧ s.guard.gGroups ≤ congested) ∨
      (s.guard.qGuard ≠ 0 ∧ s.guard.qGuard ≤ depth))
    let t := s.evaluateGuard congested depth
    t.guard.lastEval = some ⟨s.time.seconds, congested, depth, condition⟩ ∧
    { t with guard := s.guard, link := s.link } = s ∧
    (s.guard.setting ≠ .auto → t.guard.state = s.guard.state ∧ t.guard.clearCount = s.guard.clearCount ∧
      t.link = s.link) ∧
    (s.guard.setting = .auto →
      (condition = true → t.guard.state = .guarded ∧ t.guard.clearCount = 0) ∧
      (condition = false → s.guard.state = .normal → t.guard.state = .normal ∧ t.guard.clearCount = 0) ∧
      (condition = false → s.guard.state = .guarded → s.guard.clearCount < 2 →
        t.guard.state = .guarded ∧ t.guard.clearCount = s.guard.clearCount + 1) ∧
      (condition = false → s.guard.state = .guarded → s.guard.clearCount = 2 →
        t.guard.state = .normal ∧ t.guard.clearCount = 0) ∧
      (t.guard.state = s.guard.state → t.link = s.link) ∧
      (t.guard.state ≠ s.guard.state → t.link =
        ((s.setFlag .guard).raiseIf (s.enabled .guard) codeGuard
          (.noticeGuard s.guard.state t.guard.state .auto
            (if t.guard.state = .guarded then .condition else .cleared) (some (congested, depth))
            s.time.seconds)).link))

/-! ### Chapter 8: clock, bands and tariffs -/

/-- The one-second advance moves the three counters, judges a period boundary, and changes nothing else; it waits while
an event of the present second or a sweep visit has not been taken, the model's reading (R124, R125, R162; log 4). -/
def Obligations.AdvanceMovesTheClockInOrder : Prop :=
  (∀ s : State, s.resetLow = false → s.secondUnfinished = false → s.time.timeOfDay < 86400 →
    runsTo (exec .oneSecondAdvance s) fun t =>
      t.time.seconds = (s.time.seconds + 1) % 4294967296 ∧
      (s.time.timeOfDay < 86399 → t.time.timeOfDay = s.time.timeOfDay + 1 ∧ t.time.day = s.time.day) ∧
      (s.time.timeOfDay = 86399 → t.time.timeOfDay = 0 ∧ t.time.day = (s.time.day + 1) % 65536) ∧
      t.periods = { s.periods with
        boundaryWaiting := decide (t.time.timeOfDay % (s.periods.length * 60) = 0)
        sweep := s.periods.sweep.map fun sw => { sw with visitBeforeAdvance := true } } ∧
      { t with time := s.time, periods := s.periods } = s) ∧
  (∀ s : State,
    s.monitor.nextSample = some s.time.seconds ∨ s.periods.boundaryWaiting = true ∨
      (∃ h c r, (h, c) ∈ s.calls ∧ c.answered = true ∧ c.rating = some r ∧ r.nextDue = s.time.seconds) ∨
      (∃ t e v, (t, e) ∈ s.tariffs ∧ e.staged = some v ∧ v.effective.reachedBy s.clock = true) ∨
      (∃ sw, s.periods.sweep = some sw ∧ sw.visitBeforeAdvance = true) →
    exec .oneSecondAdvance s = .next s)

/-- The pending switch, and CLOCK SET after writing the clock, activate exactly the pending versions the clock has
reached, and report each by the TARIFF flag and, where the class is enabled, a TARIFF notice with its cause, in
ascending tariff index and after the reply (R126, R132). Notice numbers: the model's choice (log 23). -/
def Obligations.TariffsActivatedWhenReached : Prop :=
  (∀ s : State, s.resetLow = false → Table.rising s.tariffs = true →
    runsTo (exec .pendingTariffSwitch s) fun t =>
      activatedBy s.tariffs t.tariffs s.clock ∧
      (t.flag .tariff = true ↔ s.flag .tariff = true ∨
        ∃ e ∈ s.tariffs, ∃ v, e.2.staged = some v ∧ v.effective.reachedBy s.clock = true) ∧
      t.link = (s.tariffsTold s .advance s.clock).link ∧
      { t with tariffs := s.tariffs, link := s.link } = s) ∧
  (∀ (s : State) (tag : Tag) (p : List Byte) (i : Instant),
    parseClockSet p = .ok i → s.takesNow 0x24 tag p → Table.rising s.tariffs = true →
    runsTo (exec (.clockSet tag p) s) fun t =>
      t.time = { seconds := s.time.seconds, timeOfDay := i.time, day := i.day } ∧
      activatedBy s.tariffs t.tariffs i ∧
      (∃ after, t.link.sendList = s.link.sendList ++
        { code := 0x24, tag := tag,
          body := .clockSet s.clock i s.time.seconds (i.time / 1800) (s.bandMap.getD (i.time / 1800) 0)
            (s.tariffs.countP fun e => e.2.staged.any fun v => v.effective.reachedBy i) } :: after) ∧
      t.link = (s.tariffsTold (s.answer 0x24 tag (.clockSet s.clock i s.time.seconds (i.time / 1800)
        (s.bandMap.getD (i.time / 1800) 0)
        (s.tariffs.countP fun e => e.2.staged.any fun v => v.effective.reachedBy i))) .clockSet i).link ∧
      { t with time := s.time, tariffs := s.tariffs, link := s.link, periods := s.periods } = s)

/-- BAND MAP WRITE replaces the map whole, and DRAIN MODE writes the mode alone (R129, R178). -/
def Obligations.BandMapAndDrainModeWritten : Prop :=
  (∀ (s : State) (tag : Tag) (bands : List Nat), bands.length = 48 → (∀ b ∈ bands, b ≤ 3) →
    let p := bands.flatMap (be 1)
    s.takesNow 0x26 tag p →
    exec (.bandMapWrite tag p) s =
      .next { s.answer 0x26 tag (.bandMapWritten
                ((List.range 48).countP fun i => s.bandMap.getD i 0 != bands.getD i 0)
                (bands.getD (s.time.timeOfDay / 1800) 0)) with bandMap := bands }) ∧
  (∀ (s : State) (tag : Tag) (m : DrainMode),
    s.takesNow 0x34 tag [BitVec.ofNat 8 m.code] →
    exec (.drainMode tag [BitVec.ofNat 8 m.code]) s =
      .next { s.answer 0x34 tag (.drainMode s.records.mode m s.records.queue.length s.recordInTransmission) with
        records := { s.records with mode := m } })

/-- TARIFF WRITE defines, replaces, stages or restages by whether the entry is defined and its effective instant is
reached (R131). -/
def Obligations.TariffWriteDispositions : Prop :=
  ∀ (s : State) (tag : Tag) (p : List Byte) (tf : Nat) (v : Version) (effective : Option Instant),
    parseTariffWrite p = .ok (tf, v, effective) → s.takesNow 0x28 tag p →
    let groups := s.groups.countP fun e => e.2.defn.tariff == some tf
    let ratings := s.calls.countP fun e => e.2.rating.any fun r => r.tariff == tf
    let writes (d : TariffDisposition) (e : Tariff) := runsTo (exec (.tariffWrite tag p) s) fun t =>
      Table.find t.tariffs tf = some e ∧ (∀ k, k ≠ tf → Table.find t.tariffs k = Table.find s.tariffs k) ∧
      { t with tariffs := s.tariffs } =
        s.answer 0x28 tag (.tariffWritten d (e.staged.map fun x => x.effective) groups ratings)
    ((∀ i, effective = some i → i.reachedBy s.clock = true) →
      (Table.find s.tariffs tf = none → writes .defined { active := v, staged := none }) ∧
      ∀ e, Table.find s.tariffs tf = some e → writes .activeReplaced { active := v, staged := e.staged }) ∧
    ∀ i, effective = some i → i.reachedBy s.clock = false →
      (Table.find s.tariffs tf = none →
        exec (.tariffWrite tag p) s = .next (s.answer 0x28 tag (.result .noSuchObject))) ∧
      (∀ e, Table.find s.tariffs tf = some e → e.staged = none →
        writes .staged { active := e.active, staged := some ⟨v, i⟩ }) ∧
      ∀ e old, Table.find s.tariffs tf = some e → e.staged = some old →
        writes .restaged { active := e.active, staged := some ⟨v, i⟩ }

/-- TARIFF CANCEL discards the pending version; TARIFF DELETE discards an entry that no group and no rating context
names (R133, R134). -/
def Obligations.TariffCancelAndDelete : Prop :=
  ∀ (s : State) (tag : Tag) (p : List Byte) (tf : Nat) (e : Tariff),
    parseIndex 255 p = .ok tf → Table.find s.tariffs tf = some e →
    (s.takesNow 0x29 tag p →
      (e.staged = none → exec (.tariffCancel tag p) s = .next (s.answer 0x29 tag (.result .wrongState))) ∧
      ∀ v, e.staged = some v → runsTo (exec (.tariffCancel tag p) s) fun t =>
        Table.find t.tariffs tf = some { active := e.active, staged := none } ∧
        (∀ k, k ≠ tf → Table.find t.tariffs k = Table.find s.tariffs k) ∧
        { t with tariffs := s.tariffs } = s.answer 0x29 tag (.tariffCancelled v.effective)) ∧
    (s.takesNow 0x2A tag p →
      ((∃ x ∈ s.groups, x.2.defn.tariff = some tf) ∨ (∃ x ∈ s.calls, ∃ r, x.2.rating = some r ∧ r.tariff = tf) →
        exec (.tariffDelete tag p) s = .next (s.answer 0x2A tag (.result .objectInUse))) ∧
      ((∀ x ∈ s.groups, x.2.defn.tariff ≠ some tf) → (∀ x ∈ s.calls, ∀ r, x.2.rating = some r → r.tariff ≠ tf) →
        runsTo (exec (.tariffDelete tag p) s) fun t =>
          Table.find t.tariffs tf = none ∧ (∀ k, k ≠ tf → Table.find t.tariffs k = Table.find s.tariffs k) ∧
          { t with tariffs := s.tariffs } = s.answer 0x2A tag (.tariffDeleted e.staged.isSome)))

/-! ### Chapter 10: carriers and periods -/

/-- CARRIER WRITE defines a carrier with zero accounts, or rewrites it and evaluates the cap at once; CARRIER DELETE
discards a carrier with no open call that no group names; neither takes carrier 0 (R153, R154, R155). Notice numbers:
the model's choice (log 23). -/
def Obligations.CarriersWrittenAndDeleted : Prop :=
  (∀ (s : State) (tag : Tag) (p : List Byte) (o : CarrierOperands), parseCarrierWrite p = .ok o →
    s.takesNow 0x2C tag p →
    (o.carrier = 0 → exec (.carrierWrite tag p) s = .next (s.answer 0x2C tag (.result .wrongState))) ∧
    (o.carrier ≠ 0 → Table.find s.carriers o.carrier = none →
      runsTo (exec (.carrierWrite tag p) s) fun t =>
        Table.find t.carriers o.carrier = some { admin := o.admin, cap := o.cap, capReached := false,
                                                 cappedNotice := o.cappedNotice, openCalls := 0,
                                                 account := ⟨0, 0, 0, 0, false⟩,
                                                 snapshot := ⟨⟨0, 0, 0, 0, false⟩, 0, true, true⟩ } ∧
        (∀ k, k ≠ o.carrier → Table.find t.carriers k = Table.find s.carriers k) ∧
        { t with carriers := s.carriers } = s.answer 0x2C tag (.carrierWritten false false false 0)) ∧
    (∀ k, o.carrier ≠ 0 → Table.find s.carriers o.carrier = some k →
      runsTo (exec (.carrierWrite tag p) s) fun t =>
        let reached := decide (o.cap ≠ 0 ∧ o.cap ≤ k.account.accumulator)
        let replied := s.answer 0x2C tag (.carrierWritten true k.capReached reached k.account.accumulator)
        Table.find t.carriers o.carrier = some { k with
          admin := o.admin, cap := o.cap, cappedNotice := o.cappedNotice, capReached := reached } ∧
        (∀ j, j ≠ o.carrier → Table.find t.carriers j = Table.find s.carriers j) ∧
        { t with carriers := s.carriers } =
          if reached = true ∧ k.capReached = false then
            (replied.setFlag .capped).raiseIf (s.enabled .capped && o.cappedNotice) codeCapped
              (.noticeCapped o.carrier o.cap k.account.accumulator .capWritten s.time.seconds)
          else replied)) ∧
  (∀ (s : State) (tag : Tag) (p : List Byte) (c : Nat) (k : Carrier), parseIndex 63 p = .ok c →
    s.takesNow 0x2D tag p → c ≠ 0 → Table.find s.carriers c = some k →
    (0 < k.openCalls ∨ (∃ e ∈ s.groups, e.2.defn.carrier = c) →
      exec (.carrierDelete tag p) s = .next (s.answer 0x2D tag (.result .objectInUse))) ∧
    (k.openCalls = 0 → (∀ e ∈ s.groups, e.2.defn.carrier ≠ c) →
      runsTo (exec (.carrierDelete tag p) s) fun t =>
        Table.find t.carriers c = none ∧ (∀ j, j ≠ c → Table.find t.carriers j = Table.find s.carriers j) ∧
        { t with carriers := s.carriers } = s.answer 0x2D tag (.carrierDeleted k.account k.snapshot))) ∧
  ∀ (s : State) (tag : Tag) (p : List Byte), parseIndex 63 p = .ok 0 → s.takesNow 0x2D tag p →
    exec (.carrierDelete tag p) s = .next (s.answer 0x2D tag (.result .wrongState))

/-- PERIOD CLOSE and a period boundary start a close; while a sweep is in flight the request is refused and the boundary
deferred (R159, R160, R161). The marks of a visit due in the new sweep are the model's
reading of R162 (log 5). -/
def Obligations.PeriodClosesStart : Prop :=
  (∀ (s : State) (tag : Tag), s.takesNow 0x30 tag [] →
    (s.periods.sweep.isSome = true →
      exec (.periodClose tag []) s = .next (s.answer 0x30 tag (.result .closeInProgress))) ∧
    (s.periods.sweep = none →
      runsTo (exec (.periodClose tag []) s) fun t =>
        let unread := s.carriers.countP fun e => e.1 != 0 && !e.2.snapshot.read
        let number := (s.periods.number + 1) % 4294967296
        let body := Body.periodClosing s.periods.number number unread
          (t.carriers.map fun e => e.2.snapshot.pendingCalls).sum
        t.carriers = s.carriers.map (fun e => if e.1 = 0 then e else (e.1, { e.2 with
          account := ⟨0, 0, 0, 0, false⟩
          capReached := false
          snapshot := { account := e.2.account, complete := false, read := false,
                        pendingCalls := s.calls.countP fun x => x.2.rating.isSome && x.2.carrier == e.1 } })) ∧
        t.periods = { s.periods with
          closed := some s.periods.number
          number := number
          sweep := some { cause := .request, nextHandle := 0, bySweep := 0, byTouch := 0, snapshotsLost := unread,
                          visitBeforeRequest := true, visitBeforeAdvance := false } } ∧
        t.link = (if unread = 0 then s.answer 0x30 tag body
          else (s.answer 0x30 tag body).setFlag .snapshotLost).link ∧
        { t with carriers := s.carriers, periods := s.periods, link := s.link } = s)) ∧
  (∀ s : State, s.resetLow = false → s.periods.boundaryWaiting = true →
    (s.periods.sweep.isSome = true → exec .periodBoundary s =
      .next { s with periods := { s.periods with boundaryWaiting := false, deferred := true } }) ∧
    (s.periods.sweep = none → runsTo (exec .periodBoundary s) fun t =>
      t.periods.boundaryWaiting = false ∧ t.periods.closed = some s.periods.number ∧
      t.periods.number = (s.periods.number + 1) % 4294967296 ∧ t.periods.deferred = s.periods.deferred ∧
      (∃ sw, t.periods.sweep = some sw ∧ sw.cause = .boundary ∧ sw.nextHandle = 0 ∧ sw.bySweep = 0 ∧
        sw.byTouch = 0) ∧
      (∀ c k, c ≠ 0 → Table.find s.carriers c = some k → ∃ k', Table.find t.carriers c = some k' ∧
        k'.account = ⟨0, 0, 0, 0, false⟩ ∧ k'.snapshot.account = k.account ∧ k'.capReached = false) ∧
      t.link.sendList = s.link.sendList ∧
      { t with carriers := s.carriers, periods := s.periods, link := s.link } = s))

/-- A sweep visit passes by a context that is not stale, and catches up a stale one: with a PARTIAL record, appended
and counted in the closed snapshot or dropped by a full queue, or with none where nothing is owed. After handle 8,191
the sweep ends, the last context caught up or passed; a deferred boundary then starts the next close (R143, R156,
R159, R162, R163, R164, R173). The two marks of a visit due are the model's reading of R162 (log 5). Notice numbers:
the model's choice (log 23). -/
def Obligations.SweepVisitsTheHandles : Prop :=
  ∀ (s : State) (sw : Sweep), s.resetLow = false → s.periods.sweep = some sw →
    let passed := ∀ c r, s.call sw.nextHandle = some c → c.rating = some r → s.periods.closed ≠ some r.mark
    let moved := { sw with
      nextHandle := sw.nextHandle + 1, visitBeforeRequest := false, visitBeforeAdvance := false }
    let notice (closed bySweep : Nat) := Body.noticePeriod closed s.periods.number sw.cause bySweep sw.byTouch
      sw.snapshotsLost s.time.seconds s.clock
    (sw.nextHandle < 8191 → passed → exec .sweepVisit s =
      .next { s with periods := { s.periods with sweep := some moved } }) ∧
    (∀ c r k, sw.nextHandle ≤ 8191 → s.call sw.nextHandle = some c → c.rating = some r →
      s.periods.closed = some r.mark → r.mark ≠ s.periods.number → Table.find s.carriers c.carrier = some k →
      (0 < r.charge ∨ 0 < r.billed → s.records.queue.length < 2048 →
        sw.nextHandle < 8191 ∨ s.periods.deferred = false →
        runsTo (exec .sweepVisit s) fun t =>
          t.records.queue = s.records.queue ++ [partialRecord sw.nextHandle c r] ∧
          t.call sw.nextHandle = some { c with rating := some { r with
            charge := 0, billed := 0, sequence := (r.sequence + 1) % 4294967296, mark := s.periods.number } } ∧
          (∀ h, h ≠ sw.nextHandle → t.call h = s.call h) ∧
          (∃ k', Table.find t.carriers c.carrier = some k' ∧ k'.account = k.account ∧
            k'.snapshot.pendingCalls = k.snapshot.pendingCalls - 1 ∧
            k'.snapshot.account.recorded = min (k.snapshot.account.recorded + r.charge) max48) ∧
          (sw.nextHandle < 8191 →
            t.periods = { s.periods with sweep := some { moved with bySweep := sw.bySweep + 1 } }) ∧
          (sw.nextHandle = 8191 → t.periods = { s.periods with sweep := none } ∧ t.flag .period = true ∧
            (∀ j x, Table.find t.carriers j = some x → x.snapshot.complete = true) ∧
            (s.enabled .period = true → ∃ told tag, t.link.sendList = s.link.sendList ++ told ++
                [{ code := codePeriod, tag := tag, body := notice r.mark (sw.bySweep + 1) }] ∧
              ∀ m ∈ told, m.code = codeQueue))) ∧
      (r.charge = 0 → r.billed = 0 → sw.nextHandle < 8191 → exec .sweepVisit s =
        .next { s with
          calls := Table.modify s.calls sw.nextHandle fun x =>
            { x with rating := some { r with mark := s.periods.number } }
          carriers := Table.modify s.carriers c.carrier fun x =>
            { x with snapshot := { x.snapshot with pendingCalls := x.snapshot.pendingCalls - 1 } }
          periods := { s.periods with sweep := some { moved with bySweep := sw.bySweep + 1 } } }) ∧
      (0 < r.charge ∨ 0 < r.billed → 2048 ≤ s.records.queue.length → sw.nextHandle < 8191 →
        runsTo (exec .sweepVisit s) fun t =>
          t.records = { s.records with dropped := min (s.records.dropped + 1) max32 } ∧
          t.call sw.nextHandle = some { c with rating := some { r with
            charge := 0, billed := 0, sequence := (r.sequence + 1) % 4294967296, mark := s.periods.number } } ∧
          (∀ h, h ≠ sw.nextHandle → t.call h = s.call h) ∧
          (∃ k', Table.find t.carriers c.carrier = some k' ∧ k'.account = k.account ∧
            k'.snapshot.pendingCalls = k.snapshot.pendingCalls - 1 ∧
            k'.snapshot.account.recorded = k.snapshot.account.recorded ∧
            k'.snapshot.account.overflowCount = min (k.snapshot.account.overflowCount + 1) max32 ∧
            k'.snapshot.account.overflowCharge = min (k.snapshot.account.overflowCharge + r.charge) max48) ∧
          t.periods = { s.periods with sweep := some { moved with bySweep := sw.bySweep + 1 } } ∧
          t.link = (s.setFlag .overflow).link)) ∧
    (sw.nextHandle = 8191 → passed → ∀ closed, s.periods.closed = some closed →
      (s.periods.deferred = false → exec .sweepVisit s =
        let ended := { s with
          carriers := s.carriers.map fun e : Nat × Carrier =>
            (e.1, { e.2 with snapshot := { e.2.snapshot with complete := true } })
          periods := { s.periods with sweep := none } }
        .next ((ended.setFlag .period).raiseIf (s.enabled .period) codePeriod (notice closed sw.bySweep))) ∧
      (s.periods.deferred = true → runsTo (exec .sweepVisit s) fun t =>
        let unread := s.carriers.countP fun e => e.1 != 0 && !e.2.snapshot.read
        let told := (s.setFlag .period).raiseIf (s.enabled .period) codePeriod (notice closed sw.bySweep)
        t.periods = { s.periods with
          number := (s.periods.number + 1) % 4294967296
          closed := some s.periods.number
          deferred := false
          sweep := some { cause := .boundary, nextHandle := 0, bySweep := 0, byTouch := 0, snapshotsLost := unread,
                          visitBeforeRequest := false, visitBeforeAdvance := false } } ∧
        t.carriers = s.carriers.map (fun e : Nat × Carrier => (e.1,
          if e.1 = 0 then { e.2 with snapshot := { e.2.snapshot with complete := true } }
          else { e.2 with
            account := ⟨0, 0, 0, 0, false⟩
            capReached := false
            snapshot := { account := e.2.account, complete := false, read := false,
                          pendingCalls := s.calls.countP fun x =>
                            x.2.rating.isSome && x.2.carrier == e.1 } })) ∧
        t.link = (if unread = 0 then told else told.setFlag .snapshotLost).link ∧
        { t with carriers := s.carriers, periods := s.periods, link := s.link } = s))

/-- PERIOD REPORT shows every snapshot as it stood and marks the complete ones read (R166). -/
def Obligations.PeriodReportMarksRead : Prop :=
  ∀ (s : State) (tag : Tag), s.takesNow 0x31 tag [] →
    exec (.periodReport tag []) s = .next { s.answer 0x31 tag
        (.periodReport s.periods.number s.periods.closed s.periods.length
          (s.periods.sweep.map fun sw => sw.nextHandle) s.periods.deferred
          (s.carriers.map fun e => (e.1, e.2.snapshot))) with
      carriers := s.carriers.map fun e : Nat × Carrier => (e.1, { e.2 with
        snapshot := { e.2.snapshot with read := e.2.snapshot.read || e.2.snapshot.complete } }) }

/-! ### Chapter 11: settlement records -/

/-- A record handed to the queue is appended and counted in recorded, or dropped by a full queue, counted in the
overflow tally, with the OVERFLOW flag and no notice (R156, R173). -/
def Obligations.RecordsAppendedOrDropped : Prop :=
  ∀ (s : State) (r : Record) (k : Carrier), Table.find s.carriers r.carrier = some k →
    let t := s.writeRecord r
    let of (k : Carrier) : Account := if r.period = s.periods.number then k.account else k.snapshot.account
    (s.records.queue.length < 2048 →
      t.records.queue = s.records.queue ++ [r] ∧ t.records.dropped = s.records.dropped ∧
      t.records.almostEmpty = decide (s.records.queue.length + 1 ≤ s.records.ae) ∧
      t.records.almostFull = decide (2048 - s.records.af ≤ s.records.queue.length + 1) ∧
      (∃ k', Table.find t.carriers r.carrier = some k' ∧ (of k').recorded = min ((of k).recorded + r.charge) max48 ∧
        (of k').overflowCount = (of k).overflowCount) ∧
      { t with records := s.records, carriers := s.carriers, link := s.link } = s) ∧
    (2048 ≤ s.records.queue.length →
      t.records = { s.records with dropped := min (s.records.dropped + 1) max32 } ∧
      (∃ k', Table.find t.carriers r.carrier = some k' ∧ (of k').recorded = (of k).recorded ∧
        (of k').overflowCount = min ((of k).overflowCount + 1) max32 ∧
        (of k').overflowCharge = min ((of k).overflowCharge + r.charge) max48) ∧
      t.link = (s.setFlag .overflow).link ∧
      { t with records := s.records, carriers := s.carriers, link := s.link } = s)

/-- QUEUE THRESHOLDS clamps and writes both thresholds, evaluates the conditions at once, and reports only their
entries, after the reply (R174, R175). Notice numbers: the model's choice (log 23). -/
def Obligations.ThresholdsEvaluatedAtOnce : Prop :=
  ∀ (s : State) (tag : Tag) (ae af : Nat), ae < 65536 → af < 65536 →
    let p := be 2 ae ++ be 2 af
    s.takesNow 0x33 tag p →
    runsTo (exec (.queueThresholds tag p) s) fun t =>
      let a := min ae 2047
      let f := min af 2047
      let count := s.records.queue.length
      let empty := decide (count ≤ a)
      let full := decide (2048 - f ≤ count)
      let replied := s.answer 0x33 tag (.thresholds a f (decide (a ≠ ae)) (decide (f ≠ af)) count empty full)
      let first := if empty = true ∧ s.records.almostEmpty = false then
          (replied.setFlag .queueAlmostEmpty).raiseIf (s.enabled .queue) codeQueue
            (.noticeQueue .almostEmpty count a .thresholdWritten s.records.mode)
        else replied
      let second := if full = true ∧ s.records.almostFull = false then
          (first.setFlag .queueAlmostFull).raiseIf (s.enabled .queue) codeQueue
            (.noticeQueue .almostFull count f .thresholdWritten s.records.mode)
        else first
      t = { second with records := { s.records with ae := a, af := f, almostEmpty := empty, almostFull := full } }

/-- RECORD FETCH in BATCH removes and returns up to 32 records from the head, leaving one in transmission; in STREAM
it is refused (R174, R176). -/
def Obligations.RecordFetchTakesTheOldest : Prop :=
  ∀ (s : State) (tag : Tag) (n : Nat), n < 65536 → s.takesNow 0x32 tag (be 2 n) →
    (s.records.mode = .stream →
      exec (.recordFetch tag (be 2 n)) s = .next (s.answer 0x32 tag (.result .wrongState))) ∧
    (s.records.mode = .batch →
      runsTo (exec (.recordFetch tag (be 2 n)) s) fun t =>
        let held := if s.recordInTransmission then 1 else 0
        let taken := (s.records.queue.drop held).take (min n 32)
        let left := s.records.queue.take held ++ (s.records.queue.drop held).drop (min n 32)
        t.records = { s.records with
          queue := left
          almostEmpty := if taken = [] then s.records.almostEmpty else decide (left.length ≤ s.records.ae)
          almostFull := if taken = [] then s.records.almostFull
            else decide (2048 - s.records.af ≤ left.length) } ∧
        (∃ after, t.link.sendList = s.link.sendList ++
          { code := 0x32, tag := tag, body := .fetched taken left.length } :: after) ∧
        { t with records := s.records, link := s.link, periods := s.periods } = s)

/-- The RECORD notice of the head record begins on an idle transmitter with nothing else to send, and its end removes
the record and evaluates the thresholds (R177, R186, R188). Notice numbers: the model's choice (log 23). -/
def Obligations.RecordNoticesSendTheQueue : Prop :=
  ∀ s : State, s.resetLow = false →
    (∀ r rest, s.link.transmitter = none → s.link.sendList = [] → s.records.mode = .stream →
      s.records.queue = r :: rest → exec .recordNoticeBegin s =
        .next { s with link := { s.link with
          transmitter := some { code := codeRecord, tag := s.link.noticeCounter,
                                body := .noticeRecord r rest.length }
          noticeCounter := s.link.noticeCounter + 1 } }) ∧
    (s.recordInTransmission = true → runsTo (exec .recordNoticeEnd s) fun t =>
      t.records = { s.records with
        queue := s.records.queue.tail
        almostEmpty := decide (s.records.queue.tail.length ≤ s.records.ae)
        almostFull := decide (2048 - s.records.af ≤ s.records.queue.tail.length) } ∧
      t.link.transmitter = none ∧ t.link.requests = s.link.requests ∧
      (∃ after, t.link.sendList = s.link.sendList ++ after) ∧
      { t with records := s.records, link := s.link } = s)

/-! ### Chapter 12: the link -/

/-- The idle transmitter begins the oldest message of the send list, and its end leaves the transmitter idle
(R186). -/
def Obligations.MessagesBeginAndEnd : Prop :=
  ∀ s : State, s.resetLow = false →
    (∀ m rest, s.link.transmitter = none → s.link.sendList = m :: rest → exec .messageBegin s =
      .next { s with link := { s.link with transmitter := some m, sendList := rest } }) ∧
    (s.recordInTransmission = false →
      exec .messageEnd s = .next { s with link := { s.link with transmitter := none } })

/-- Stretches of space that together reach 20 ms break the link, once: the break empties it, sets again the flags of
unsent STATUS READ replies, and counts the records of unsent fetch replies and of a RECORD notice as lost. The enables,
the counter and every other block are kept. The line's return to mark ends the count and starts the hunt again
(R179, R191). That LINK_BREAK names a stretch, and that a short space is counted so, is the model's choice (log 22). -/
def Obligations.LinkBreakRestartsTheLink : Prop :=
  ∀ (s : State) (ms : Nat), s.resetLow = false →
    (s.link.lineBroken = true → exec (.linkBreak ms) s = .next s) ∧
    (s.link.lineBroken = false → s.link.spaceMs + ms < 20 → exec (.linkBreak ms) s =
      .next { s with link := { s.link with spaceMs := s.link.spaceMs + ms } }) ∧
    (s.link.lineBroken = false → 20 ≤ s.link.spaceMs + ms → s.records.lost ≤ max32 →
      (s.recordInTransmission = true → s.records.queue ≠ []) →
      runsTo (exec (.linkBreak ms) s) fun t =>
        let unsent := s.link.transmitter.toList ++ s.link.sendList
        let fetched := unsent.flatMap fun m => match m.body with
          | .fetched rs _ => rs
          | _ => []
        t.link.requests = [] ∧ t.link.transmitter = none ∧ t.link.assembly = none ∧ t.link.received = [] ∧
        t.link.lineBroken = true ∧ t.link.spaceMs = 0 ∧ t.link.enables = s.link.enables ∧
        t.flag .linkRestart = true ∧
        (∀ f, s.flag f = true → t.flag f = true) ∧
        (∀ m fl d f, m ∈ unsent → m.body = .status fl d → fl.getLsbD f.bit = true → t.flag f = true) ∧
        t.records.queue = (if s.recordInTransmission then s.records.queue.tail else s.records.queue) ∧
        t.records.lost =
          min (s.records.lost + (if s.recordInTransmission then 1 else 0) + fetched.length) max32 ∧
        (s.recordInTransmission = false → t.link.sendList = [] ∧
          t.link.noticeCounter = s.link.noticeCounter ∧ (fetched = [] → t.records = s.records)) ∧
        { t with link := s.link, records := s.records } = s) ∧
    (s.link.lineBroken = true → exec .lineReturnsToMark s =
      .next { s with link := { s.link with lineBroken := false, spaceMs := 0, received := [] } }) ∧
    (s.link.lineBroken = false → exec .lineReturnsToMark s =
      .next { s with link := { s.link with spaceMs := 0 } })

/-- The frames of a message, received whole, queue exactly that request: on their own, as the end of a message being
assembled that has their type and tag, or in place of another, which is discarded with FRAME_ERROR. A frame with a length
out of range or with another CRC sets FRAME_ERROR, discards a message being assembled and queues nothing (R183, R184,
R185). That one command carries a stretch of bytes (log 11), that a frame whose type byte differs from the assembly's in
bit 7 alone is of another message (log 12), and that a byte ends a space that is no break (log 22), are the model's. -/
def Obligations.ReceiverJudgesFrames : Prop :=
  (∀ (s : State) (type : Byte) (tag : Tag) (payload : List Byte),
    isMessageType type = true → payload.length ≤ 4096 → s.resetLow = false → s.link.lineBroken = false →
    s.link.received = [] → s.link.requests.length < 64 →
    ((∀ a, s.link.assembly = some a → a.type ≠ type ∨ a.tag ≠ tag) →
      exec (.frameReceived (frames type tag payload)) s =
        let e := if s.link.assembly = none then s else s.setFlag .frameError
        .next { e with link := { e.link with
          assembly := none
          spaceMs := 0
          requests := s.link.requests ++
            [{ type := type, tag := tag, payload := payload, overlong := false }] } }) ∧
    ∀ a, s.link.assembly = some a → a.type = type → a.tag = tag → a.payload.length + payload.length ≤ 4096 →
      exec (.frameReceived (frames type tag payload)) s =
        .next { s with link := { s.link with
          assembly := none
          spaceMs := 0
          requests := s.link.requests ++ [{ a with payload := a.payload ++ payload }] } }) ∧
  (∀ (s : State) (h l : Byte) (rest : List Byte), s.resetLow = false → s.link.lineBroken = false →
    s.link.received = [] → h.toNat * 256 + l.toNat < 3 ∨ 1027 < h.toNat * 256 + l.toNat →
    h ≠ 0xC3 → l ≠ 0xC3 → (∀ b ∈ rest, b ≠ 0xC3) →
    exec (.frameReceived (0xC3 :: h :: l :: rest)) s =
      let e := s.setFlag .frameError
      .next { e with link := { e.link with assembly := none, spaceMs := 0 } }) ∧
  (∀ (s : State) (h l : Byte) (content : List Byte) (c d : Byte), s.resetLow = false → s.link.lineBroken = false →
    s.link.received = [] → h.toNat * 256 + l.toNat = content.length → 3 ≤ content.length → content.length ≤ 1027 →
    c.toNat * 256 + d.toNat ≠ (crc (h :: l :: content)).toNat → (∀ b ∈ h :: l :: content ++ [c, d], b ≠ 0xC3) →
    exec (.frameReceived (0xC3 :: h :: l :: content ++ [c, d])) s =
      let e := s.setFlag .frameError
      .next { e with link := { e.link with assembly := none, spaceMs := 0 } })

/-- The CRC of the nine characters 123456789 is 0x29B1, the wire image of a message carries bit 7, and a settlement
record takes 41 bytes (R183, section 12.6). -/
def Obligations.WireLayouts : Prop :=
  crc [0x31, 0x32, 0x33, 0x34, 0x35, 0x36, 0x37, 0x38, 0x39] = 0x29B1 ∧
  (∀ r : Record, r.bytes.length = 41) ∧
  (∀ (m : Message), m.code < 64 → m.body.payload.length ≤ 1024 →
    m.wire.take 1 = [0xC3] ∧ m.wire.length = 8 + m.body.payload.length ∧
    m.wire[3]? = some (BitVec.ofNat 8 (128 + m.code)))

/-- DEVICE RESTART with no sweep in flight closes every call, idles every circuit, closes every watch, restarts the
groups, the monitor and the guard, and keeps the tables, the clock and the serial counter; every answered foreign call
writes a FINAL record with cause RESTART, in ascending handle order, and the open-call counts fall by the calls closed.
A sweep in flight is first carried to its end, a deferred close with it (R3, R12, R26, R72, R112, R122, R169, R182, R190). -/
def Obligations.DeviceRestartClearsRunningState : Prop :=
  (∀ (s : State) (tag : Tag), s.takesNow 0x03 tag [] → s.periods.sweep = none → s.TablesSound →
    runsTo (exec (.deviceRestart tag []) s) fun t =>
      (∀ h, t.call h = none) ∧ (∀ n, t.circuit n = { s.circuit n with usage := .idle }) ∧
      (∀ m, t.span m = { s.span m with watch := none }) ∧
      (∀ g, Table.find t.groups g = (Table.find s.groups g).map fun grp => { grp with
        busyCount := 0, overflowCount := 0, history := ⟨.clear, .clear, .clear⟩, level := .clear
        current := ⟨0, 0, 0, 0, 0, 0, 0, 0⟩, previous := ⟨0, 0, 0, 0, 0, 0, 0, 0⟩ }) ∧
      t.monitor = { s.monitor with
        samplesInInterval := 0
        nextSample := if s.monitor.hold = .held then none
          else some ((s.time.seconds + s.monitor.sampleInterval) % 4294967296) } ∧
      t.guard = { s.guard with
        lastEval := none, clearCount := 0
        state := if s.guard.setting = .auto then .normal else s.guard.state } ∧
      (∃ after, t.link.sendList = s.link.sendList ++
        { code := 0x03, tag := tag,
          body := .restarted s.calls.length (s.calls.countP fun e => e.2.answered && e.2.rating.isSome)
            (s.spans.countP fun e => e.2.watch.isSome) } :: after) ∧
      t.link.requests = s.link.requests.tail ∧ t.link.enables = s.link.enables ∧ t.time = s.time ∧
      t.serialCounter = s.serialCounter ∧ t.prefixes = s.prefixes ∧ t.plans = s.plans ∧
      t.tariffs = s.tariffs ∧ t.bandMap = s.bandMap ∧ t.periods = s.periods ∧ t.pending = s.pending ∧
      (∀ k x, Table.find s.carriers k = some x → ∃ x', Table.find t.carriers k = some x' ∧
        x'.openCalls = (x.openCalls - s.calls.countP fun e => e.2.carrier == k) ∧ x'.snapshot.read = x.snapshot.read) ∧
      t.records.mode = s.records.mode ∧ t.records.ae = s.records.ae ∧ t.records.af = s.records.af ∧
      t.records.lost = s.records.lost ∧
      let rated := s.calls.filter fun e => e.2.answered && e.2.rating.isSome
      ((∀ e ∈ s.calls, ∀ r, e.2.rating = some r → r.mark = s.periods.number) →
        s.records.queue.length + rated.length ≤ 2048 → ∃ finals, t.records.queue = s.records.queue ++ finals ∧
        (finals.map fun r => (r.handle, r.serial)) = (rated.map fun e => (e.1, e.2.serial)) ∧
        ∀ r ∈ finals, ∃ part, r.final = some part ∧ part.cause = .restart)) ∧
  ∀ (s : State) (tag : Tag), s.takesNow 0x03 tag [] → s.periods.Sound →
    runsTo (exec (.deviceRestart tag []) s) fun t =>
      (∀ h, t.call h = none) ∧ t.periods.sweep = none ∧ t.periods.deferred = false ∧
      (s.periods.sweep.isSome = true → t.flag .period = true) ∧
      t.periods.number = if s.periods.deferred = true then (s.periods.number + 1) % 4294967296
        else s.periods.number

/-- The requests that read reply with what stands and change nothing; GROUP REPORT with CLEAR_CURRENT then zeroes the
group's current statistics. An UNROUTABLE lookup says why. The entries of PLAN READ are numbered by their place among the
ALTERNATE entries, and the earliest instant of CLOCK READ is that of a pending version that no other comes before (R24,
R31, R47, R48, R51, R70, R105, R110, R120, R127, R129, R135, R165, R180). -/
def Obligations.ReadingRequestsOnlyReply : Prop :=
  (∀ (s : State) (tag : Tag) (p : List Byte),
    (∀ sp, parseIndex 255 p = .ok sp → s.takesNow 0x0B tag p → exec (.spanReport tag p) s =
      .next (s.answer 0x0B tag (.spanReport ((List.range 32).map fun q => s.circuit (sp * 32 + q)) (s.span sp)))) ∧
    (∀ g grp, parseIndex 255 p = .ok g → Table.find s.groups g = some grp → s.takesNow 0x10 tag p →
      exec (.groupRead tag p) s = .next (s.answer 0x10 tag (.groupRead grp.defn grp.members grp.members.length
        grp.busyCount (grp.members.countP s.available) grp.rotary grp.overflowCount))) ∧
    (∀ d x plan, parseDigits p = .ok d → s.lookup d = .routed x plan → s.takesNow 0x13 tag p →
      exec (.prefixLookup tag p) s = .next (s.answer 0x13 tag (.lookupRouted x plan s.prefixes.length))) ∧
    (∀ d, parseDigits p = .ok d → s.takesNow 0x13 tag p →
      (s.lookup d = .noMatch → exec (.prefixLookup tag p) s =
        .next (s.answer 0x13 tag (.lookupUnroutable none s.prefixes.length))) ∧
      ∀ x plan, s.lookup d = .planUndefined x plan → exec (.prefixLookup tag p) s =
        .next (s.answer 0x13 tag (.lookupUnroutable (some (x, plan)) s.prefixes.length))) ∧
    (∀ plan x, parsePlan p = .ok plan → Table.find s.plans plan = some x → s.takesNow 0x16 tag p →
      exec (.planRead tag p) s = .next (s.answer 0x16 tag (.planRead
        ((numberEntries x.entries 0).map fun c => (⟨c.group, c.role⟩, c.number)) x.ceiling x.stickyGroup
        (x.candidateOrder.map Candidate.group) (s.prefixes.countP fun e => e.plan == plan)
        (s.calls.countP fun e => !e.2.answered && e.2.plan == plan)))) ∧
    (∀ h c, parseHandle p = .ok h → s.call h = some c → s.takesNow 0x1B tag p →
      exec (.callRead tag p) s = .next (s.answer 0x1B tag (.callRead h c))) ∧
    (∀ g clear grp, parseGroupReport p = .ok (g, clear) → s.takesNow 0x1C tag p →
      Table.find s.groups g = some grp → exec (.groupReport tag p) s =
      .next { s.answer 0x1C tag (.groupReport g grp.level grp.history grp.overflowCount grp.current grp.previous
                s.monitor.samplesInInterval s.monitor.statsInterval s.monitor.hold) with
        groups := if clear then
            Table.modify s.groups g fun x => { x with current := ⟨0, 0, 0, 0, 0, 0, 0, 0⟩ }
          else s.groups }) ∧
    (∀ tf e, parseIndex 255 p = .ok tf → Table.find s.tariffs tf = some e → s.takesNow 0x2B tag p →
      exec (.tariffRead tag p) s = .next (s.answer 0x2B tag (.tariffRead e
        (s.groups.countP fun x => x.2.defn.tariff == some tf)
        (s.calls.countP fun x => x.2.rating.any fun r => r.tariff == tf) s.band (e.active.rate s.band)))) ∧
    (∀ c k, parseIndex 63 p = .ok c → Table.find s.carriers c = some k → s.takesNow 0x2E tag p →
      exec (.carrierReport tag p) s = .next (s.answer 0x2E tag
        (.carrierReport k.admin k.cap k.capReached k.cappedNotice k.openCalls k.account s.periods.number))) ∧
    (s.takesNow 0x20 tag [] → exec (.monitorRead tag []) s = .next (s.answer 0x20 tag (.monitorRead s.monitor
      (s.groups.countP fun e => e.2.level == .clear) (s.groups.countP fun e => e.2.level == .busy)
      (s.groups.countP fun e => e.2.level == .congested)))) ∧
    (s.takesNow 0x23 tag [] →
      exec (.guardRead tag []) s = .next (s.answer 0x23 tag (.guardRead s.guard s.monitor.hold))) ∧
    (s.takesNow 0x25 tag [] → exec (.clockRead tag []) s = .next (s.answer 0x25 tag
      (.clockRead s.time.seconds s.clock (s.time.timeOfDay / 1800) (s.bandMap.getD (s.time.timeOfDay / 1800) 0)
        (s.tariffs.countP fun e => e.2.staged.isSome) (earliestStaged s.tariffs)))) ∧
    (s.takesNow 0x27 tag [] → exec (.bandMapRead tag []) s = .next (s.answer 0x27 tag
      (.bandMapRead s.bandMap (s.time.timeOfDay / 1800) (s.bandMap.getD (s.time.timeOfDay / 1800) 0)))) ∧
    (s.takesNow 0x35 tag [] → exec (.queueRead tag []) s = .next (s.answer 0x35 tag
      (.queueRead s.records.queue.length s.records.mode s.records.ae s.records.af s.records.almostEmpty
        s.records.almostFull
        (if s.recordInTransmission then s.records.queue.head?.map fun r => (r.serial, r.sequence) else none)
        s.records.queue.head? s.records.dropped s.records.lost s.records.lastLost)))) ∧
  (∀ (x : Plan) (i : Nat) (e : PlanEntry), x.entries[i]? = some e → ∃ c, (numberEntries x.entries 0)[i]? = some c ∧
    c.group = e.group ∧ c.role = e.role ∧ c.number =
      if e.role = .alternate then some ((x.entries.take i).countP fun y => y.role == .alternate) else none) ∧
  ∀ (s : State), ((∀ e ∈ s.tariffs, e.2.staged = none) → earliestStaged s.tariffs = none) ∧
    ∀ e ∈ s.tariffs, ∀ v, e.2.staged = some v → ∃ i, earliestStaged s.tariffs = some i ∧
      i.reachedBy v.effective = true ∧ ∃ f ∈ s.tariffs, ∃ w, f.2.staged = some w ∧ w.effective = i

/-! ### Invariants -/

/-- The state after reset is sound: the record queue, the link, the clock, the monitor, the guard, the periods and the
ratings in range, and circuits, calls, groups and watches agreeing (R3, R4, R26, R73, R112, R122, R123, R128, R169, R182,
R192). That the sparse tables are in canonical form is the model's choice (log 16). -/
def Obligations.ResetIsSound : Prop :=
  State.reset.Sound

/-- Every step keeps the record queue within its capacity and its held flags equal to their conditions (R172,
R174). -/
def Obligations.StepKeepsRecordQueueSound : Prop :=
  ∀ s t : State, s.records.Sound → step s = .next t → t.records.Sound

/-- Every step keeps the request queue at 64 requests of at most 4,096 payload bytes, and the count of a space that is
no break yet below 20 ms (R184, R185, R191; log 22). -/
def Obligations.StepKeepsRequestQueueSound : Prop :=
  ∀ s t : State, s.link.Sound → step s = .next t → t.link.Sound

/-- Every step keeps the clock, the band map, the monitor, the guard and the period fields in range (R96, R113, R123,
R128, R157). -/
def Obligations.StepKeepsControlsInRange : Prop :=
  ∀ s t : State, s.ClockSound → s.ControlSound → s.periods.Sound → step s = .next t →
    t.ClockSound ∧ t.ControlSound ∧ t.periods.Sound

/-- Every step keeps every rating residue below 3,840 and the tables in their canonical form, the model's choice
(R137, R138, R139; log 16). Every step keeps a circuit OUTGOING with a handle exactly when the call on it names the circuit, a
circuit's group the one that lists it, each busy count the number of busy members, and the set of an open watch not empty
(R1, R2, R4, R25, R60). -/
def Obligations.StepKeepsRatingsAndTablesSound : Prop :=
  (∀ s t : State, s.RatingsSound → s.TablesSound → step s = .next t → t.RatingsSound ∧ t.TablesSound) ∧
  ∀ s t : State, s.Agrees → step s = .next t → t.Agrees
end

