-- ==== Sys2Proof/Laws/State.lean ====
section
/-! SUPPORT. One lemma for each field and each update of the state: what the update leaves alone. What it writes
stands in the laws of its chapter.. -/

namespace Sys2Proof.Machine

variable (s : State)

/-! ### setFlag -/

@[simp] theorem State.setFlag_resetLow (f : Flag) : (s.setFlag f).resetLow = s.resetLow := rfl
@[simp] theorem State.setFlag_rateStraps (f : Flag) : (s.setFlag f).rateStraps = s.rateStraps := rfl
@[simp] theorem State.setFlag_circuits (f : Flag) : (s.setFlag f).circuits = s.circuits := rfl
@[simp] theorem State.setFlag_spans (f : Flag) : (s.setFlag f).spans = s.spans := rfl
@[simp] theorem State.setFlag_groups (f : Flag) : (s.setFlag f).groups = s.groups := rfl
@[simp] theorem State.setFlag_prefixes (f : Flag) : (s.setFlag f).prefixes = s.prefixes := rfl
@[simp] theorem State.setFlag_plans (f : Flag) : (s.setFlag f).plans = s.plans := rfl
@[simp] theorem State.setFlag_calls (f : Flag) : (s.setFlag f).calls = s.calls := rfl
@[simp] theorem State.setFlag_serialCounter (f : Flag) : (s.setFlag f).serialCounter = s.serialCounter := rfl
@[simp] theorem State.setFlag_monitor (f : Flag) : (s.setFlag f).monitor = s.monitor := rfl
@[simp] theorem State.setFlag_guard (f : Flag) : (s.setFlag f).guard = s.guard := rfl
@[simp] theorem State.setFlag_time (f : Flag) : (s.setFlag f).time = s.time := rfl
@[simp] theorem State.setFlag_bandMap (f : Flag) : (s.setFlag f).bandMap = s.bandMap := rfl
@[simp] theorem State.setFlag_tariffs (f : Flag) : (s.setFlag f).tariffs = s.tariffs := rfl
@[simp] theorem State.setFlag_carriers (f : Flag) : (s.setFlag f).carriers = s.carriers := rfl
@[simp] theorem State.setFlag_periods (f : Flag) : (s.setFlag f).periods = s.periods := rfl
@[simp] theorem State.setFlag_records (f : Flag) : (s.setFlag f).records = s.records := rfl
@[simp] theorem State.setFlag_pending (f : Flag) : (s.setFlag f).pending = s.pending := rfl
@[simp] theorem State.setFlag_link_requests (f : Flag) : (s.setFlag f).link.requests = s.link.requests := rfl
@[simp] theorem State.setFlag_link_sendList (f : Flag) : (s.setFlag f).link.sendList = s.link.sendList := rfl
@[simp] theorem State.setFlag_link_transmitter (f : Flag) : (s.setFlag f).link.transmitter = s.link.transmitter := rfl
@[simp] theorem State.setFlag_link_assembly (f : Flag) : (s.setFlag f).link.assembly = s.link.assembly := rfl
@[simp] theorem State.setFlag_link_received (f : Flag) : (s.setFlag f).link.received = s.link.received := rfl
@[simp] theorem State.setFlag_link_lineBroken (f : Flag) : (s.setFlag f).link.lineBroken = s.link.lineBroken := rfl
@[simp] theorem State.setFlag_link_spaceMs (f : Flag) : (s.setFlag f).link.spaceMs = s.link.spaceMs := rfl
@[simp] theorem State.setFlag_link_enables (f : Flag) : (s.setFlag f).link.enables = s.link.enables := rfl
@[simp] theorem State.setFlag_link_noticeCounter (f : Flag) : (s.setFlag f).link.noticeCounter = s.link.noticeCounter := rfl

/-! ### send -/

@[simp] theorem State.send_resetLow (m : Message) : (s.send m).resetLow = s.resetLow := rfl
@[simp] theorem State.send_rateStraps (m : Message) : (s.send m).rateStraps = s.rateStraps := rfl
@[simp] theorem State.send_circuits (m : Message) : (s.send m).circuits = s.circuits := rfl
@[simp] theorem State.send_spans (m : Message) : (s.send m).spans = s.spans := rfl
@[simp] theorem State.send_groups (m : Message) : (s.send m).groups = s.groups := rfl
@[simp] theorem State.send_prefixes (m : Message) : (s.send m).prefixes = s.prefixes := rfl
@[simp] theorem State.send_plans (m : Message) : (s.send m).plans = s.plans := rfl
@[simp] theorem State.send_calls (m : Message) : (s.send m).calls = s.calls := rfl
@[simp] theorem State.send_serialCounter (m : Message) : (s.send m).serialCounter = s.serialCounter := rfl
@[simp] theorem State.send_monitor (m : Message) : (s.send m).monitor = s.monitor := rfl
@[simp] theorem State.send_guard (m : Message) : (s.send m).guard = s.guard := rfl
@[simp] theorem State.send_time (m : Message) : (s.send m).time = s.time := rfl
@[simp] theorem State.send_bandMap (m : Message) : (s.send m).bandMap = s.bandMap := rfl
@[simp] theorem State.send_tariffs (m : Message) : (s.send m).tariffs = s.tariffs := rfl
@[simp] theorem State.send_carriers (m : Message) : (s.send m).carriers = s.carriers := rfl
@[simp] theorem State.send_periods (m : Message) : (s.send m).periods = s.periods := rfl
@[simp] theorem State.send_records (m : Message) : (s.send m).records = s.records := rfl
@[simp] theorem State.send_pending (m : Message) : (s.send m).pending = s.pending := rfl
@[simp] theorem State.send_link_requests (m : Message) : (s.send m).link.requests = s.link.requests := rfl
@[simp] theorem State.send_link_transmitter (m : Message) : (s.send m).link.transmitter = s.link.transmitter := rfl
@[simp] theorem State.send_link_assembly (m : Message) : (s.send m).link.assembly = s.link.assembly := rfl
@[simp] theorem State.send_link_received (m : Message) : (s.send m).link.received = s.link.received := rfl
@[simp] theorem State.send_link_lineBroken (m : Message) : (s.send m).link.lineBroken = s.link.lineBroken := rfl
@[simp] theorem State.send_link_spaceMs (m : Message) : (s.send m).link.spaceMs = s.link.spaceMs := rfl
@[simp] theorem State.send_link_flags (m : Message) : (s.send m).link.flags = s.link.flags := rfl
@[simp] theorem State.send_link_enables (m : Message) : (s.send m).link.enables = s.link.enables := rfl
@[simp] theorem State.send_link_noticeCounter (m : Message) : (s.send m).link.noticeCounter = s.link.noticeCounter := rfl

/-! ### raise -/

@[simp] theorem State.raise_resetLow (k : Nat) (b : Body) : (s.raise k b).resetLow = s.resetLow := rfl
@[simp] theorem State.raise_rateStraps (k : Nat) (b : Body) : (s.raise k b).rateStraps = s.rateStraps := rfl
@[simp] theorem State.raise_circuits (k : Nat) (b : Body) : (s.raise k b).circuits = s.circuits := rfl
@[simp] theorem State.raise_spans (k : Nat) (b : Body) : (s.raise k b).spans = s.spans := rfl
@[simp] theorem State.raise_groups (k : Nat) (b : Body) : (s.raise k b).groups = s.groups := rfl
@[simp] theorem State.raise_prefixes (k : Nat) (b : Body) : (s.raise k b).prefixes = s.prefixes := rfl
@[simp] theorem State.raise_plans (k : Nat) (b : Body) : (s.raise k b).plans = s.plans := rfl
@[simp] theorem State.raise_calls (k : Nat) (b : Body) : (s.raise k b).calls = s.calls := rfl
@[simp] theorem State.raise_serialCounter (k : Nat) (b : Body) : (s.raise k b).serialCounter = s.serialCounter := rfl
@[simp] theorem State.raise_monitor (k : Nat) (b : Body) : (s.raise k b).monitor = s.monitor := rfl
@[simp] theorem State.raise_guard (k : Nat) (b : Body) : (s.raise k b).guard = s.guard := rfl
@[simp] theorem State.raise_time (k : Nat) (b : Body) : (s.raise k b).time = s.time := rfl
@[simp] theorem State.raise_bandMap (k : Nat) (b : Body) : (s.raise k b).bandMap = s.bandMap := rfl
@[simp] theorem State.raise_tariffs (k : Nat) (b : Body) : (s.raise k b).tariffs = s.tariffs := rfl
@[simp] theorem State.raise_carriers (k : Nat) (b : Body) : (s.raise k b).carriers = s.carriers := rfl
@[simp] theorem State.raise_periods (k : Nat) (b : Body) : (s.raise k b).periods = s.periods := rfl
@[simp] theorem State.raise_records (k : Nat) (b : Body) : (s.raise k b).records = s.records := rfl
@[simp] theorem State.raise_pending (k : Nat) (b : Body) : (s.raise k b).pending = s.pending := rfl
@[simp] theorem State.raise_link_requests (k : Nat) (b : Body) : (s.raise k b).link.requests = s.link.requests := rfl
@[simp] theorem State.raise_link_transmitter (k : Nat) (b : Body) : (s.raise k b).link.transmitter = s.link.transmitter := rfl
@[simp] theorem State.raise_link_assembly (k : Nat) (b : Body) : (s.raise k b).link.assembly = s.link.assembly := rfl
@[simp] theorem State.raise_link_received (k : Nat) (b : Body) : (s.raise k b).link.received = s.link.received := rfl
@[simp] theorem State.raise_link_lineBroken (k : Nat) (b : Body) : (s.raise k b).link.lineBroken = s.link.lineBroken := rfl
@[simp] theorem State.raise_link_spaceMs (k : Nat) (b : Body) : (s.raise k b).link.spaceMs = s.link.spaceMs := rfl
@[simp] theorem State.raise_link_flags (k : Nat) (b : Body) : (s.raise k b).link.flags = s.link.flags := rfl
@[simp] theorem State.raise_link_enables (k : Nat) (b : Body) : (s.raise k b).link.enables = s.link.enables := rfl

/-! ### raiseIf -/

@[simp] theorem State.raiseIf_resetLow (on : Bool) (k : Nat) (b : Body) : (s.raiseIf on k b).resetLow = s.resetLow := by cases on <;> rfl
@[simp] theorem State.raiseIf_rateStraps (on : Bool) (k : Nat) (b : Body) : (s.raiseIf on k b).rateStraps = s.rateStraps := by cases on <;> rfl
@[simp] theorem State.raiseIf_circuits (on : Bool) (k : Nat) (b : Body) : (s.raiseIf on k b).circuits = s.circuits := by cases on <;> rfl
@[simp] theorem State.raiseIf_spans (on : Bool) (k : Nat) (b : Body) : (s.raiseIf on k b).spans = s.spans := by cases on <;> rfl
@[simp] theorem State.raiseIf_groups (on : Bool) (k : Nat) (b : Body) : (s.raiseIf on k b).groups = s.groups := by cases on <;> rfl
@[simp] theorem State.raiseIf_prefixes (on : Bool) (k : Nat) (b : Body) : (s.raiseIf on k b).prefixes = s.prefixes := by cases on <;> rfl
@[simp] theorem State.raiseIf_plans (on : Bool) (k : Nat) (b : Body) : (s.raiseIf on k b).plans = s.plans := by cases on <;> rfl
@[simp] theorem State.raiseIf_calls (on : Bool) (k : Nat) (b : Body) : (s.raiseIf on k b).calls = s.calls := by cases on <;> rfl
@[simp] theorem State.raiseIf_serialCounter (on : Bool) (k : Nat) (b : Body) : (s.raiseIf on k b).serialCounter = s.serialCounter := by cases on <;> rfl
@[simp] theorem State.raiseIf_monitor (on : Bool) (k : Nat) (b : Body) : (s.raiseIf on k b).monitor = s.monitor := by cases on <;> rfl
@[simp] theorem State.raiseIf_guard (on : Bool) (k : Nat) (b : Body) : (s.raiseIf on k b).guard = s.guard := by cases on <;> rfl
@[simp] theorem State.raiseIf_time (on : Bool) (k : Nat) (b : Body) : (s.raiseIf on k b).time = s.time := by cases on <;> rfl
@[simp] theorem State.raiseIf_bandMap (on : Bool) (k : Nat) (b : Body) : (s.raiseIf on k b).bandMap = s.bandMap := by cases on <;> rfl
@[simp] theorem State.raiseIf_tariffs (on : Bool) (k : Nat) (b : Body) : (s.raiseIf on k b).tariffs = s.tariffs := by cases on <;> rfl
@[simp] theorem State.raiseIf_carriers (on : Bool) (k : Nat) (b : Body) : (s.raiseIf on k b).carriers = s.carriers := by cases on <;> rfl
@[simp] theorem State.raiseIf_periods (on : Bool) (k : Nat) (b : Body) : (s.raiseIf on k b).periods = s.periods := by cases on <;> rfl
@[simp] theorem State.raiseIf_records (on : Bool) (k : Nat) (b : Body) : (s.raiseIf on k b).records = s.records := by cases on <;> rfl
@[simp] theorem State.raiseIf_pending (on : Bool) (k : Nat) (b : Body) : (s.raiseIf on k b).pending = s.pending := by cases on <;> rfl
@[simp] theorem State.raiseIf_link_requests (on : Bool) (k : Nat) (b : Body) : (s.raiseIf on k b).link.requests = s.link.requests := by cases on <;> rfl
@[simp] theorem State.raiseIf_link_transmitter (on : Bool) (k : Nat) (b : Body) : (s.raiseIf on k b).link.transmitter = s.link.transmitter := by cases on <;> rfl
@[simp] theorem State.raiseIf_link_assembly (on : Bool) (k : Nat) (b : Body) : (s.raiseIf on k b).link.assembly = s.link.assembly := by cases on <;> rfl
@[simp] theorem State.raiseIf_link_received (on : Bool) (k : Nat) (b : Body) : (s.raiseIf on k b).link.received = s.link.received := by cases on <;> rfl
@[simp] theorem State.raiseIf_link_lineBroken (on : Bool) (k : Nat) (b : Body) : (s.raiseIf on k b).link.lineBroken = s.link.lineBroken := by cases on <;> rfl
@[simp] theorem State.raiseIf_link_spaceMs (on : Bool) (k : Nat) (b : Body) : (s.raiseIf on k b).link.spaceMs = s.link.spaceMs := by cases on <;> rfl
@[simp] theorem State.raiseIf_link_flags (on : Bool) (k : Nat) (b : Body) : (s.raiseIf on k b).link.flags = s.link.flags := by cases on <;> rfl
@[simp] theorem State.raiseIf_link_enables (on : Bool) (k : Nat) (b : Body) : (s.raiseIf on k b).link.enables = s.link.enables := by cases on <;> rfl

/-! ### setCircuit -/

@[simp] theorem State.setCircuit_resetLow (n : Nat) (c : Circuit) : (s.setCircuit n c).resetLow = s.resetLow := rfl
@[simp] theorem State.setCircuit_rateStraps (n : Nat) (c : Circuit) : (s.setCircuit n c).rateStraps = s.rateStraps := rfl
@[simp] theorem State.setCircuit_spans (n : Nat) (c : Circuit) : (s.setCircuit n c).spans = s.spans := rfl
@[simp] theorem State.setCircuit_groups (n : Nat) (c : Circuit) : (s.setCircuit n c).groups = s.groups := rfl
@[simp] theorem State.setCircuit_prefixes (n : Nat) (c : Circuit) : (s.setCircuit n c).prefixes = s.prefixes := rfl
@[simp] theorem State.setCircuit_plans (n : Nat) (c : Circuit) : (s.setCircuit n c).plans = s.plans := rfl
@[simp] theorem State.setCircuit_calls (n : Nat) (c : Circuit) : (s.setCircuit n c).calls = s.calls := rfl
@[simp] theorem State.setCircuit_serialCounter (n : Nat) (c : Circuit) : (s.setCircuit n c).serialCounter = s.serialCounter := rfl
@[simp] theorem State.setCircuit_monitor (n : Nat) (c : Circuit) : (s.setCircuit n c).monitor = s.monitor := rfl
@[simp] theorem State.setCircuit_guard (n : Nat) (c : Circuit) : (s.setCircuit n c).guard = s.guard := rfl
@[simp] theorem State.setCircuit_time (n : Nat) (c : Circuit) : (s.setCircuit n c).time = s.time := rfl
@[simp] theorem State.setCircuit_bandMap (n : Nat) (c : Circuit) : (s.setCircuit n c).bandMap = s.bandMap := rfl
@[simp] theorem State.setCircuit_tariffs (n : Nat) (c : Circuit) : (s.setCircuit n c).tariffs = s.tariffs := rfl
@[simp] theorem State.setCircuit_carriers (n : Nat) (c : Circuit) : (s.setCircuit n c).carriers = s.carriers := rfl
@[simp] theorem State.setCircuit_periods (n : Nat) (c : Circuit) : (s.setCircuit n c).periods = s.periods := rfl
@[simp] theorem State.setCircuit_records (n : Nat) (c : Circuit) : (s.setCircuit n c).records = s.records := rfl
@[simp] theorem State.setCircuit_link (n : Nat) (c : Circuit) : (s.setCircuit n c).link = s.link := rfl
@[simp] theorem State.setCircuit_pending (n : Nat) (c : Circuit) : (s.setCircuit n c).pending = s.pending := rfl

/-! ### setSpan -/

@[simp] theorem State.setSpan_resetLow (n : Nat) (r : Span) : (s.setSpan n r).resetLow = s.resetLow := rfl
@[simp] theorem State.setSpan_rateStraps (n : Nat) (r : Span) : (s.setSpan n r).rateStraps = s.rateStraps := rfl
@[simp] theorem State.setSpan_circuits (n : Nat) (r : Span) : (s.setSpan n r).circuits = s.circuits := rfl
@[simp] theorem State.setSpan_groups (n : Nat) (r : Span) : (s.setSpan n r).groups = s.groups := rfl
@[simp] theorem State.setSpan_prefixes (n : Nat) (r : Span) : (s.setSpan n r).prefixes = s.prefixes := rfl
@[simp] theorem State.setSpan_plans (n : Nat) (r : Span) : (s.setSpan n r).plans = s.plans := rfl
@[simp] theorem State.setSpan_calls (n : Nat) (r : Span) : (s.setSpan n r).calls = s.calls := rfl
@[simp] theorem State.setSpan_serialCounter (n : Nat) (r : Span) : (s.setSpan n r).serialCounter = s.serialCounter := rfl
@[simp] theorem State.setSpan_monitor (n : Nat) (r : Span) : (s.setSpan n r).monitor = s.monitor := rfl
@[simp] theorem State.setSpan_guard (n : Nat) (r : Span) : (s.setSpan n r).guard = s.guard := rfl
@[simp] theorem State.setSpan_time (n : Nat) (r : Span) : (s.setSpan n r).time = s.time := rfl
@[simp] theorem State.setSpan_bandMap (n : Nat) (r : Span) : (s.setSpan n r).bandMap = s.bandMap := rfl
@[simp] theorem State.setSpan_tariffs (n : Nat) (r : Span) : (s.setSpan n r).tariffs = s.tariffs := rfl
@[simp] theorem State.setSpan_carriers (n : Nat) (r : Span) : (s.setSpan n r).carriers = s.carriers := rfl
@[simp] theorem State.setSpan_periods (n : Nat) (r : Span) : (s.setSpan n r).periods = s.periods := rfl
@[simp] theorem State.setSpan_records (n : Nat) (r : Span) : (s.setSpan n r).records = s.records := rfl
@[simp] theorem State.setSpan_link (n : Nat) (r : Span) : (s.setSpan n r).link = s.link := rfl
@[simp] theorem State.setSpan_pending (n : Nat) (r : Span) : (s.setSpan n r).pending = s.pending := rfl

/-! ### setLocalBlock -/

@[simp] theorem State.setLocalBlock_resetLow (n : Nat) (b : Bool) : (s.setLocalBlock n b).resetLow = s.resetLow := rfl
@[simp] theorem State.setLocalBlock_rateStraps (n : Nat) (b : Bool) : (s.setLocalBlock n b).rateStraps = s.rateStraps := rfl
@[simp] theorem State.setLocalBlock_spans (n : Nat) (b : Bool) : (s.setLocalBlock n b).spans = s.spans := rfl
@[simp] theorem State.setLocalBlock_groups (n : Nat) (b : Bool) : (s.setLocalBlock n b).groups = s.groups := rfl
@[simp] theorem State.setLocalBlock_prefixes (n : Nat) (b : Bool) : (s.setLocalBlock n b).prefixes = s.prefixes := rfl
@[simp] theorem State.setLocalBlock_plans (n : Nat) (b : Bool) : (s.setLocalBlock n b).plans = s.plans := rfl
@[simp] theorem State.setLocalBlock_calls (n : Nat) (b : Bool) : (s.setLocalBlock n b).calls = s.calls := rfl
@[simp] theorem State.setLocalBlock_serialCounter (n : Nat) (b : Bool) : (s.setLocalBlock n b).serialCounter = s.serialCounter := rfl
@[simp] theorem State.setLocalBlock_monitor (n : Nat) (b : Bool) : (s.setLocalBlock n b).monitor = s.monitor := rfl
@[simp] theorem State.setLocalBlock_guard (n : Nat) (b : Bool) : (s.setLocalBlock n b).guard = s.guard := rfl
@[simp] theorem State.setLocalBlock_time (n : Nat) (b : Bool) : (s.setLocalBlock n b).time = s.time := rfl
@[simp] theorem State.setLocalBlock_bandMap (n : Nat) (b : Bool) : (s.setLocalBlock n b).bandMap = s.bandMap := rfl
@[simp] theorem State.setLocalBlock_tariffs (n : Nat) (b : Bool) : (s.setLocalBlock n b).tariffs = s.tariffs := rfl
@[simp] theorem State.setLocalBlock_carriers (n : Nat) (b : Bool) : (s.setLocalBlock n b).carriers = s.carriers := rfl
@[simp] theorem State.setLocalBlock_periods (n : Nat) (b : Bool) : (s.setLocalBlock n b).periods = s.periods := rfl
@[simp] theorem State.setLocalBlock_records (n : Nat) (b : Bool) : (s.setLocalBlock n b).records = s.records := rfl
@[simp] theorem State.setLocalBlock_link (n : Nat) (b : Bool) : (s.setLocalBlock n b).link = s.link := rfl
@[simp] theorem State.setLocalBlock_pending (n : Nat) (b : Bool) : (s.setLocalBlock n b).pending = s.pending := rfl

/-! ### setRemoteBlock -/

@[simp] theorem State.setRemoteBlock_resetLow (n : Nat) (b : Bool) : (s.setRemoteBlock n b).resetLow = s.resetLow := rfl
@[simp] theorem State.setRemoteBlock_rateStraps (n : Nat) (b : Bool) : (s.setRemoteBlock n b).rateStraps = s.rateStraps := rfl
@[simp] theorem State.setRemoteBlock_spans (n : Nat) (b : Bool) : (s.setRemoteBlock n b).spans = s.spans := rfl
@[simp] theorem State.setRemoteBlock_groups (n : Nat) (b : Bool) : (s.setRemoteBlock n b).groups = s.groups := rfl
@[simp] theorem State.setRemoteBlock_prefixes (n : Nat) (b : Bool) : (s.setRemoteBlock n b).prefixes = s.prefixes := rfl
@[simp] theorem State.setRemoteBlock_plans (n : Nat) (b : Bool) : (s.setRemoteBlock n b).plans = s.plans := rfl
@[simp] theorem State.setRemoteBlock_calls (n : Nat) (b : Bool) : (s.setRemoteBlock n b).calls = s.calls := rfl
@[simp] theorem State.setRemoteBlock_serialCounter (n : Nat) (b : Bool) : (s.setRemoteBlock n b).serialCounter = s.serialCounter := rfl
@[simp] theorem State.setRemoteBlock_monitor (n : Nat) (b : Bool) : (s.setRemoteBlock n b).monitor = s.monitor := rfl
@[simp] theorem State.setRemoteBlock_guard (n : Nat) (b : Bool) : (s.setRemoteBlock n b).guard = s.guard := rfl
@[simp] theorem State.setRemoteBlock_time (n : Nat) (b : Bool) : (s.setRemoteBlock n b).time = s.time := rfl
@[simp] theorem State.setRemoteBlock_bandMap (n : Nat) (b : Bool) : (s.setRemoteBlock n b).bandMap = s.bandMap := rfl
@[simp] theorem State.setRemoteBlock_tariffs (n : Nat) (b : Bool) : (s.setRemoteBlock n b).tariffs = s.tariffs := rfl
@[simp] theorem State.setRemoteBlock_carriers (n : Nat) (b : Bool) : (s.setRemoteBlock n b).carriers = s.carriers := rfl
@[simp] theorem State.setRemoteBlock_periods (n : Nat) (b : Bool) : (s.setRemoteBlock n b).periods = s.periods := rfl
@[simp] theorem State.setRemoteBlock_records (n : Nat) (b : Bool) : (s.setRemoteBlock n b).records = s.records := rfl
@[simp] theorem State.setRemoteBlock_link (n : Nat) (b : Bool) : (s.setRemoteBlock n b).link = s.link := rfl
@[simp] theorem State.setRemoteBlock_pending (n : Nat) (b : Bool) : (s.setRemoteBlock n b).pending = s.pending := rfl

/-! ### modifyGroup -/

@[simp] theorem State.modifyGroup_resetLow (g : Nat) (f : Group → Group) : (s.modifyGroup g f).resetLow = s.resetLow := rfl
@[simp] theorem State.modifyGroup_rateStraps (g : Nat) (f : Group → Group) : (s.modifyGroup g f).rateStraps = s.rateStraps := rfl
@[simp] theorem State.modifyGroup_circuits (g : Nat) (f : Group → Group) : (s.modifyGroup g f).circuits = s.circuits := rfl
@[simp] theorem State.modifyGroup_spans (g : Nat) (f : Group → Group) : (s.modifyGroup g f).spans = s.spans := rfl
@[simp] theorem State.modifyGroup_prefixes (g : Nat) (f : Group → Group) : (s.modifyGroup g f).prefixes = s.prefixes := rfl
@[simp] theorem State.modifyGroup_plans (g : Nat) (f : Group → Group) : (s.modifyGroup g f).plans = s.plans := rfl
@[simp] theorem State.modifyGroup_calls (g : Nat) (f : Group → Group) : (s.modifyGroup g f).calls = s.calls := rfl
@[simp] theorem State.modifyGroup_serialCounter (g : Nat) (f : Group → Group) : (s.modifyGroup g f).serialCounter = s.serialCounter := rfl
@[simp] theorem State.modifyGroup_monitor (g : Nat) (f : Group → Group) : (s.modifyGroup g f).monitor = s.monitor := rfl
@[simp] theorem State.modifyGroup_guard (g : Nat) (f : Group → Group) : (s.modifyGroup g f).guard = s.guard := rfl
@[simp] theorem State.modifyGroup_time (g : Nat) (f : Group → Group) : (s.modifyGroup g f).time = s.time := rfl
@[simp] theorem State.modifyGroup_bandMap (g : Nat) (f : Group → Group) : (s.modifyGroup g f).bandMap = s.bandMap := rfl
@[simp] theorem State.modifyGroup_tariffs (g : Nat) (f : Group → Group) : (s.modifyGroup g f).tariffs = s.tariffs := rfl
@[simp] theorem State.modifyGroup_carriers (g : Nat) (f : Group → Group) : (s.modifyGroup g f).carriers = s.carriers := rfl
@[simp] theorem State.modifyGroup_periods (g : Nat) (f : Group → Group) : (s.modifyGroup g f).periods = s.periods := rfl
@[simp] theorem State.modifyGroup_records (g : Nat) (f : Group → Group) : (s.modifyGroup g f).records = s.records := rfl
@[simp] theorem State.modifyGroup_link (g : Nat) (f : Group → Group) : (s.modifyGroup g f).link = s.link := rfl
@[simp] theorem State.modifyGroup_pending (g : Nat) (f : Group → Group) : (s.modifyGroup g f).pending = s.pending := rfl

/-! ### countStats -/

@[simp] theorem State.countStats_resetLow (g : Nat) (f : Stats → Stats) : (s.countStats g f).resetLow = s.resetLow := rfl
@[simp] theorem State.countStats_rateStraps (g : Nat) (f : Stats → Stats) : (s.countStats g f).rateStraps = s.rateStraps := rfl
@[simp] theorem State.countStats_circuits (g : Nat) (f : Stats → Stats) : (s.countStats g f).circuits = s.circuits := rfl
@[simp] theorem State.countStats_spans (g : Nat) (f : Stats → Stats) : (s.countStats g f).spans = s.spans := rfl
@[simp] theorem State.countStats_prefixes (g : Nat) (f : Stats → Stats) : (s.countStats g f).prefixes = s.prefixes := rfl
@[simp] theorem State.countStats_plans (g : Nat) (f : Stats → Stats) : (s.countStats g f).plans = s.plans := rfl
@[simp] theorem State.countStats_calls (g : Nat) (f : Stats → Stats) : (s.countStats g f).calls = s.calls := rfl
@[simp] theorem State.countStats_serialCounter (g : Nat) (f : Stats → Stats) : (s.countStats g f).serialCounter = s.serialCounter := rfl
@[simp] theorem State.countStats_monitor (g : Nat) (f : Stats → Stats) : (s.countStats g f).monitor = s.monitor := rfl
@[simp] theorem State.countStats_guard (g : Nat) (f : Stats → Stats) : (s.countStats g f).guard = s.guard := rfl
@[simp] theorem State.countStats_time (g : Nat) (f : Stats → Stats) : (s.countStats g f).time = s.time := rfl
@[simp] theorem State.countStats_bandMap (g : Nat) (f : Stats → Stats) : (s.countStats g f).bandMap = s.bandMap := rfl
@[simp] theorem State.countStats_tariffs (g : Nat) (f : Stats → Stats) : (s.countStats g f).tariffs = s.tariffs := rfl
@[simp] theorem State.countStats_carriers (g : Nat) (f : Stats → Stats) : (s.countStats g f).carriers = s.carriers := rfl
@[simp] theorem State.countStats_periods (g : Nat) (f : Stats → Stats) : (s.countStats g f).periods = s.periods := rfl
@[simp] theorem State.countStats_records (g : Nat) (f : Stats → Stats) : (s.countStats g f).records = s.records := rfl
@[simp] theorem State.countStats_link (g : Nat) (f : Stats → Stats) : (s.countStats g f).link = s.link := rfl
@[simp] theorem State.countStats_pending (g : Nat) (f : Stats → Stats) : (s.countStats g f).pending = s.pending := rfl

/-! ### modifyPlan -/

@[simp] theorem State.modifyPlan_resetLow (p : Nat) (f : Plan → Plan) : (s.modifyPlan p f).resetLow = s.resetLow := rfl
@[simp] theorem State.modifyPlan_rateStraps (p : Nat) (f : Plan → Plan) : (s.modifyPlan p f).rateStraps = s.rateStraps := rfl
@[simp] theorem State.modifyPlan_circuits (p : Nat) (f : Plan → Plan) : (s.modifyPlan p f).circuits = s.circuits := rfl
@[simp] theorem State.modifyPlan_spans (p : Nat) (f : Plan → Plan) : (s.modifyPlan p f).spans = s.spans := rfl
@[simp] theorem State.modifyPlan_groups (p : Nat) (f : Plan → Plan) : (s.modifyPlan p f).groups = s.groups := rfl
@[simp] theorem State.modifyPlan_prefixes (p : Nat) (f : Plan → Plan) : (s.modifyPlan p f).prefixes = s.prefixes := rfl
@[simp] theorem State.modifyPlan_calls (p : Nat) (f : Plan → Plan) : (s.modifyPlan p f).calls = s.calls := rfl
@[simp] theorem State.modifyPlan_serialCounter (p : Nat) (f : Plan → Plan) : (s.modifyPlan p f).serialCounter = s.serialCounter := rfl
@[simp] theorem State.modifyPlan_monitor (p : Nat) (f : Plan → Plan) : (s.modifyPlan p f).monitor = s.monitor := rfl
@[simp] theorem State.modifyPlan_guard (p : Nat) (f : Plan → Plan) : (s.modifyPlan p f).guard = s.guard := rfl
@[simp] theorem State.modifyPlan_time (p : Nat) (f : Plan → Plan) : (s.modifyPlan p f).time = s.time := rfl
@[simp] theorem State.modifyPlan_bandMap (p : Nat) (f : Plan → Plan) : (s.modifyPlan p f).bandMap = s.bandMap := rfl
@[simp] theorem State.modifyPlan_tariffs (p : Nat) (f : Plan → Plan) : (s.modifyPlan p f).tariffs = s.tariffs := rfl
@[simp] theorem State.modifyPlan_carriers (p : Nat) (f : Plan → Plan) : (s.modifyPlan p f).carriers = s.carriers := rfl
@[simp] theorem State.modifyPlan_periods (p : Nat) (f : Plan → Plan) : (s.modifyPlan p f).periods = s.periods := rfl
@[simp] theorem State.modifyPlan_records (p : Nat) (f : Plan → Plan) : (s.modifyPlan p f).records = s.records := rfl
@[simp] theorem State.modifyPlan_link (p : Nat) (f : Plan → Plan) : (s.modifyPlan p f).link = s.link := rfl
@[simp] theorem State.modifyPlan_pending (p : Nat) (f : Plan → Plan) : (s.modifyPlan p f).pending = s.pending := rfl

/-! ### modifyCall -/

@[simp] theorem State.modifyCall_resetLow (h : Nat) (f : Call → Call) : (s.modifyCall h f).resetLow = s.resetLow := rfl
@[simp] theorem State.modifyCall_rateStraps (h : Nat) (f : Call → Call) : (s.modifyCall h f).rateStraps = s.rateStraps := rfl
@[simp] theorem State.modifyCall_circuits (h : Nat) (f : Call → Call) : (s.modifyCall h f).circuits = s.circuits := rfl
@[simp] theorem State.modifyCall_spans (h : Nat) (f : Call → Call) : (s.modifyCall h f).spans = s.spans := rfl
@[simp] theorem State.modifyCall_groups (h : Nat) (f : Call → Call) : (s.modifyCall h f).groups = s.groups := rfl
@[simp] theorem State.modifyCall_prefixes (h : Nat) (f : Call → Call) : (s.modifyCall h f).prefixes = s.prefixes := rfl
@[simp] theorem State.modifyCall_plans (h : Nat) (f : Call → Call) : (s.modifyCall h f).plans = s.plans := rfl
@[simp] theorem State.modifyCall_serialCounter (h : Nat) (f : Call → Call) : (s.modifyCall h f).serialCounter = s.serialCounter := rfl
@[simp] theorem State.modifyCall_monitor (h : Nat) (f : Call → Call) : (s.modifyCall h f).monitor = s.monitor := rfl
@[simp] theorem State.modifyCall_guard (h : Nat) (f : Call → Call) : (s.modifyCall h f).guard = s.guard := rfl
@[simp] theorem State.modifyCall_time (h : Nat) (f : Call → Call) : (s.modifyCall h f).time = s.time := rfl
@[simp] theorem State.modifyCall_bandMap (h : Nat) (f : Call → Call) : (s.modifyCall h f).bandMap = s.bandMap := rfl
@[simp] theorem State.modifyCall_tariffs (h : Nat) (f : Call → Call) : (s.modifyCall h f).tariffs = s.tariffs := rfl
@[simp] theorem State.modifyCall_carriers (h : Nat) (f : Call → Call) : (s.modifyCall h f).carriers = s.carriers := rfl
@[simp] theorem State.modifyCall_periods (h : Nat) (f : Call → Call) : (s.modifyCall h f).periods = s.periods := rfl
@[simp] theorem State.modifyCall_records (h : Nat) (f : Call → Call) : (s.modifyCall h f).records = s.records := rfl
@[simp] theorem State.modifyCall_link (h : Nat) (f : Call → Call) : (s.modifyCall h f).link = s.link := rfl
@[simp] theorem State.modifyCall_pending (h : Nat) (f : Call → Call) : (s.modifyCall h f).pending = s.pending := rfl

/-! ### setRating -/

@[simp] theorem State.setRating_resetLow (h : Nat) (r : Rating) : (s.setRating h r).resetLow = s.resetLow := rfl
@[simp] theorem State.setRating_rateStraps (h : Nat) (r : Rating) : (s.setRating h r).rateStraps = s.rateStraps := rfl
@[simp] theorem State.setRating_circuits (h : Nat) (r : Rating) : (s.setRating h r).circuits = s.circuits := rfl
@[simp] theorem State.setRating_spans (h : Nat) (r : Rating) : (s.setRating h r).spans = s.spans := rfl
@[simp] theorem State.setRating_groups (h : Nat) (r : Rating) : (s.setRating h r).groups = s.groups := rfl
@[simp] theorem State.setRating_prefixes (h : Nat) (r : Rating) : (s.setRating h r).prefixes = s.prefixes := rfl
@[simp] theorem State.setRating_plans (h : Nat) (r : Rating) : (s.setRating h r).plans = s.plans := rfl
@[simp] theorem State.setRating_serialCounter (h : Nat) (r : Rating) : (s.setRating h r).serialCounter = s.serialCounter := rfl
@[simp] theorem State.setRating_monitor (h : Nat) (r : Rating) : (s.setRating h r).monitor = s.monitor := rfl
@[simp] theorem State.setRating_guard (h : Nat) (r : Rating) : (s.setRating h r).guard = s.guard := rfl
@[simp] theorem State.setRating_time (h : Nat) (r : Rating) : (s.setRating h r).time = s.time := rfl
@[simp] theorem State.setRating_bandMap (h : Nat) (r : Rating) : (s.setRating h r).bandMap = s.bandMap := rfl
@[simp] theorem State.setRating_tariffs (h : Nat) (r : Rating) : (s.setRating h r).tariffs = s.tariffs := rfl
@[simp] theorem State.setRating_carriers (h : Nat) (r : Rating) : (s.setRating h r).carriers = s.carriers := rfl
@[simp] theorem State.setRating_periods (h : Nat) (r : Rating) : (s.setRating h r).periods = s.periods := rfl
@[simp] theorem State.setRating_records (h : Nat) (r : Rating) : (s.setRating h r).records = s.records := rfl
@[simp] theorem State.setRating_link (h : Nat) (r : Rating) : (s.setRating h r).link = s.link := rfl
@[simp] theorem State.setRating_pending (h : Nat) (r : Rating) : (s.setRating h r).pending = s.pending := rfl

/-! ### modifyCarrier -/

@[simp] theorem State.modifyCarrier_resetLow (c : Nat) (f : Carrier → Carrier) : (s.modifyCarrier c f).resetLow = s.resetLow := rfl
@[simp] theorem State.modifyCarrier_rateStraps (c : Nat) (f : Carrier → Carrier) : (s.modifyCarrier c f).rateStraps = s.rateStraps := rfl
@[simp] theorem State.modifyCarrier_circuits (c : Nat) (f : Carrier → Carrier) : (s.modifyCarrier c f).circuits = s.circuits := rfl
@[simp] theorem State.modifyCarrier_spans (c : Nat) (f : Carrier → Carrier) : (s.modifyCarrier c f).spans = s.spans := rfl
@[simp] theorem State.modifyCarrier_groups (c : Nat) (f : Carrier → Carrier) : (s.modifyCarrier c f).groups = s.groups := rfl
@[simp] theorem State.modifyCarrier_prefixes (c : Nat) (f : Carrier → Carrier) : (s.modifyCarrier c f).prefixes = s.prefixes := rfl
@[simp] theorem State.modifyCarrier_plans (c : Nat) (f : Carrier → Carrier) : (s.modifyCarrier c f).plans = s.plans := rfl
@[simp] theorem State.modifyCarrier_calls (c : Nat) (f : Carrier → Carrier) : (s.modifyCarrier c f).calls = s.calls := rfl
@[simp] theorem State.modifyCarrier_serialCounter (c : Nat) (f : Carrier → Carrier) : (s.modifyCarrier c f).serialCounter = s.serialCounter := rfl
@[simp] theorem State.modifyCarrier_monitor (c : Nat) (f : Carrier → Carrier) : (s.modifyCarrier c f).monitor = s.monitor := rfl
@[simp] theorem State.modifyCarrier_guard (c : Nat) (f : Carrier → Carrier) : (s.modifyCarrier c f).guard = s.guard := rfl
@[simp] theorem State.modifyCarrier_time (c : Nat) (f : Carrier → Carrier) : (s.modifyCarrier c f).time = s.time := rfl
@[simp] theorem State.modifyCarrier_bandMap (c : Nat) (f : Carrier → Carrier) : (s.modifyCarrier c f).bandMap = s.bandMap := rfl
@[simp] theorem State.modifyCarrier_tariffs (c : Nat) (f : Carrier → Carrier) : (s.modifyCarrier c f).tariffs = s.tariffs := rfl
@[simp] theorem State.modifyCarrier_periods (c : Nat) (f : Carrier → Carrier) : (s.modifyCarrier c f).periods = s.periods := rfl
@[simp] theorem State.modifyCarrier_records (c : Nat) (f : Carrier → Carrier) : (s.modifyCarrier c f).records = s.records := rfl
@[simp] theorem State.modifyCarrier_link (c : Nat) (f : Carrier → Carrier) : (s.modifyCarrier c f).link = s.link := rfl
@[simp] theorem State.modifyCarrier_pending (c : Nat) (f : Carrier → Carrier) : (s.modifyCarrier c f).pending = s.pending := rfl

/-! ### modifyAccountOf -/

@[simp] theorem State.modifyAccountOf_resetLow (r : Record) (f : Account → Account) : (s.modifyAccountOf r f).resetLow = s.resetLow := rfl
@[simp] theorem State.modifyAccountOf_rateStraps (r : Record) (f : Account → Account) : (s.modifyAccountOf r f).rateStraps = s.rateStraps := rfl
@[simp] theorem State.modifyAccountOf_circuits (r : Record) (f : Account → Account) : (s.modifyAccountOf r f).circuits = s.circuits := rfl
@[simp] theorem State.modifyAccountOf_spans (r : Record) (f : Account → Account) : (s.modifyAccountOf r f).spans = s.spans := rfl
@[simp] theorem State.modifyAccountOf_groups (r : Record) (f : Account → Account) : (s.modifyAccountOf r f).groups = s.groups := rfl
@[simp] theorem State.modifyAccountOf_prefixes (r : Record) (f : Account → Account) : (s.modifyAccountOf r f).prefixes = s.prefixes := rfl
@[simp] theorem State.modifyAccountOf_plans (r : Record) (f : Account → Account) : (s.modifyAccountOf r f).plans = s.plans := rfl
@[simp] theorem State.modifyAccountOf_calls (r : Record) (f : Account → Account) : (s.modifyAccountOf r f).calls = s.calls := rfl
@[simp] theorem State.modifyAccountOf_serialCounter (r : Record) (f : Account → Account) : (s.modifyAccountOf r f).serialCounter = s.serialCounter := rfl
@[simp] theorem State.modifyAccountOf_monitor (r : Record) (f : Account → Account) : (s.modifyAccountOf r f).monitor = s.monitor := rfl
@[simp] theorem State.modifyAccountOf_guard (r : Record) (f : Account → Account) : (s.modifyAccountOf r f).guard = s.guard := rfl
@[simp] theorem State.modifyAccountOf_time (r : Record) (f : Account → Account) : (s.modifyAccountOf r f).time = s.time := rfl
@[simp] theorem State.modifyAccountOf_bandMap (r : Record) (f : Account → Account) : (s.modifyAccountOf r f).bandMap = s.bandMap := rfl
@[simp] theorem State.modifyAccountOf_tariffs (r : Record) (f : Account → Account) : (s.modifyAccountOf r f).tariffs = s.tariffs := rfl
@[simp] theorem State.modifyAccountOf_periods (r : Record) (f : Account → Account) : (s.modifyAccountOf r f).periods = s.periods := rfl
@[simp] theorem State.modifyAccountOf_records (r : Record) (f : Account → Account) : (s.modifyAccountOf r f).records = s.records := rfl
@[simp] theorem State.modifyAccountOf_link (r : Record) (f : Account → Account) : (s.modifyAccountOf r f).link = s.link := rfl
@[simp] theorem State.modifyAccountOf_pending (r : Record) (f : Account → Account) : (s.modifyAccountOf r f).pending = s.pending := rfl

/-! ### openCallOn -/

@[simp] theorem State.openCallOn_resetLow (c : Nat) : (s.openCallOn c).resetLow = s.resetLow := rfl
@[simp] theorem State.openCallOn_rateStraps (c : Nat) : (s.openCallOn c).rateStraps = s.rateStraps := rfl
@[simp] theorem State.openCallOn_circuits (c : Nat) : (s.openCallOn c).circuits = s.circuits := rfl
@[simp] theorem State.openCallOn_spans (c : Nat) : (s.openCallOn c).spans = s.spans := rfl
@[simp] theorem State.openCallOn_groups (c : Nat) : (s.openCallOn c).groups = s.groups := rfl
@[simp] theorem State.openCallOn_prefixes (c : Nat) : (s.openCallOn c).prefixes = s.prefixes := rfl
@[simp] theorem State.openCallOn_plans (c : Nat) : (s.openCallOn c).plans = s.plans := rfl
@[simp] theorem State.openCallOn_calls (c : Nat) : (s.openCallOn c).calls = s.calls := rfl
@[simp] theorem State.openCallOn_serialCounter (c : Nat) : (s.openCallOn c).serialCounter = s.serialCounter := rfl
@[simp] theorem State.openCallOn_monitor (c : Nat) : (s.openCallOn c).monitor = s.monitor := rfl
@[simp] theorem State.openCallOn_guard (c : Nat) : (s.openCallOn c).guard = s.guard := rfl
@[simp] theorem State.openCallOn_time (c : Nat) : (s.openCallOn c).time = s.time := rfl
@[simp] theorem State.openCallOn_bandMap (c : Nat) : (s.openCallOn c).bandMap = s.bandMap := rfl
@[simp] theorem State.openCallOn_tariffs (c : Nat) : (s.openCallOn c).tariffs = s.tariffs := rfl
@[simp] theorem State.openCallOn_periods (c : Nat) : (s.openCallOn c).periods = s.periods := rfl
@[simp] theorem State.openCallOn_records (c : Nat) : (s.openCallOn c).records = s.records := rfl
@[simp] theorem State.openCallOn_link (c : Nat) : (s.openCallOn c).link = s.link := rfl
@[simp] theorem State.openCallOn_pending (c : Nat) : (s.openCallOn c).pending = s.pending := rfl

/-! ### closeCallOn -/

@[simp] theorem State.closeCallOn_resetLow (c : Nat) : (s.closeCallOn c).resetLow = s.resetLow := rfl
@[simp] theorem State.closeCallOn_rateStraps (c : Nat) : (s.closeCallOn c).rateStraps = s.rateStraps := rfl
@[simp] theorem State.closeCallOn_circuits (c : Nat) : (s.closeCallOn c).circuits = s.circuits := rfl
@[simp] theorem State.closeCallOn_spans (c : Nat) : (s.closeCallOn c).spans = s.spans := rfl
@[simp] theorem State.closeCallOn_groups (c : Nat) : (s.closeCallOn c).groups = s.groups := rfl
@[simp] theorem State.closeCallOn_prefixes (c : Nat) : (s.closeCallOn c).prefixes = s.prefixes := rfl
@[simp] theorem State.closeCallOn_plans (c : Nat) : (s.closeCallOn c).plans = s.plans := rfl
@[simp] theorem State.closeCallOn_calls (c : Nat) : (s.closeCallOn c).calls = s.calls := rfl
@[simp] theorem State.closeCallOn_serialCounter (c : Nat) : (s.closeCallOn c).serialCounter = s.serialCounter := rfl
@[simp] theorem State.closeCallOn_monitor (c : Nat) : (s.closeCallOn c).monitor = s.monitor := rfl
@[simp] theorem State.closeCallOn_guard (c : Nat) : (s.closeCallOn c).guard = s.guard := rfl
@[simp] theorem State.closeCallOn_time (c : Nat) : (s.closeCallOn c).time = s.time := rfl
@[simp] theorem State.closeCallOn_bandMap (c : Nat) : (s.closeCallOn c).bandMap = s.bandMap := rfl
@[simp] theorem State.closeCallOn_tariffs (c : Nat) : (s.closeCallOn c).tariffs = s.tariffs := rfl
@[simp] theorem State.closeCallOn_periods (c : Nat) : (s.closeCallOn c).periods = s.periods := rfl
@[simp] theorem State.closeCallOn_records (c : Nat) : (s.closeCallOn c).records = s.records := rfl
@[simp] theorem State.closeCallOn_link (c : Nat) : (s.closeCallOn c).link = s.link := rfl
@[simp] theorem State.closeCallOn_pending (c : Nat) : (s.closeCallOn c).pending = s.pending := rfl

/-! ### countCatchUp -/

@[simp] theorem State.countCatchUp_resetLow (b : Bool) : (s.countCatchUp b).resetLow = s.resetLow := rfl
@[simp] theorem State.countCatchUp_rateStraps (b : Bool) : (s.countCatchUp b).rateStraps = s.rateStraps := rfl
@[simp] theorem State.countCatchUp_circuits (b : Bool) : (s.countCatchUp b).circuits = s.circuits := rfl
@[simp] theorem State.countCatchUp_spans (b : Bool) : (s.countCatchUp b).spans = s.spans := rfl
@[simp] theorem State.countCatchUp_groups (b : Bool) : (s.countCatchUp b).groups = s.groups := rfl
@[simp] theorem State.countCatchUp_prefixes (b : Bool) : (s.countCatchUp b).prefixes = s.prefixes := rfl
@[simp] theorem State.countCatchUp_plans (b : Bool) : (s.countCatchUp b).plans = s.plans := rfl
@[simp] theorem State.countCatchUp_calls (b : Bool) : (s.countCatchUp b).calls = s.calls := rfl
@[simp] theorem State.countCatchUp_serialCounter (b : Bool) : (s.countCatchUp b).serialCounter = s.serialCounter := rfl
@[simp] theorem State.countCatchUp_monitor (b : Bool) : (s.countCatchUp b).monitor = s.monitor := rfl
@[simp] theorem State.countCatchUp_guard (b : Bool) : (s.countCatchUp b).guard = s.guard := rfl
@[simp] theorem State.countCatchUp_time (b : Bool) : (s.countCatchUp b).time = s.time := rfl
@[simp] theorem State.countCatchUp_bandMap (b : Bool) : (s.countCatchUp b).bandMap = s.bandMap := rfl
@[simp] theorem State.countCatchUp_tariffs (b : Bool) : (s.countCatchUp b).tariffs = s.tariffs := rfl
@[simp] theorem State.countCatchUp_carriers (b : Bool) : (s.countCatchUp b).carriers = s.carriers := rfl
@[simp] theorem State.countCatchUp_records (b : Bool) : (s.countCatchUp b).records = s.records := rfl
@[simp] theorem State.countCatchUp_link (b : Bool) : (s.countCatchUp b).link = s.link := rfl
@[simp] theorem State.countCatchUp_pending (b : Bool) : (s.countCatchUp b).pending = s.pending := rfl
@[simp] theorem State.countCatchUp_periods_number (b : Bool) : (s.countCatchUp b).periods.number = s.periods.number := rfl
@[simp] theorem State.countCatchUp_periods_length (b : Bool) : (s.countCatchUp b).periods.length = s.periods.length := rfl
@[simp] theorem State.countCatchUp_periods_closed (b : Bool) : (s.countCatchUp b).periods.closed = s.periods.closed := rfl
@[simp] theorem State.countCatchUp_periods_deferred (b : Bool) : (s.countCatchUp b).periods.deferred = s.periods.deferred := rfl
@[simp] theorem State.countCatchUp_periods_boundaryWaiting (b : Bool) : (s.countCatchUp b).periods.boundaryWaiting = s.periods.boundaryWaiting := rfl

/-! ### setReceived -/

@[simp] theorem State.setReceived_resetLow (bs : List Byte) : (s.setReceived bs).resetLow = s.resetLow := rfl
@[simp] theorem State.setReceived_rateStraps (bs : List Byte) : (s.setReceived bs).rateStraps = s.rateStraps := rfl
@[simp] theorem State.setReceived_circuits (bs : List Byte) : (s.setReceived bs).circuits = s.circuits := rfl
@[simp] theorem State.setReceived_spans (bs : List Byte) : (s.setReceived bs).spans = s.spans := rfl
@[simp] theorem State.setReceived_groups (bs : List Byte) : (s.setReceived bs).groups = s.groups := rfl
@[simp] theorem State.setReceived_prefixes (bs : List Byte) : (s.setReceived bs).prefixes = s.prefixes := rfl
@[simp] theorem State.setReceived_plans (bs : List Byte) : (s.setReceived bs).plans = s.plans := rfl
@[simp] theorem State.setReceived_calls (bs : List Byte) : (s.setReceived bs).calls = s.calls := rfl
@[simp] theorem State.setReceived_serialCounter (bs : List Byte) : (s.setReceived bs).serialCounter = s.serialCounter := rfl
@[simp] theorem State.setReceived_monitor (bs : List Byte) : (s.setReceived bs).monitor = s.monitor := rfl
@[simp] theorem State.setReceived_guard (bs : List Byte) : (s.setReceived bs).guard = s.guard := rfl
@[simp] theorem State.setReceived_time (bs : List Byte) : (s.setReceived bs).time = s.time := rfl
@[simp] theorem State.setReceived_bandMap (bs : List Byte) : (s.setReceived bs).bandMap = s.bandMap := rfl
@[simp] theorem State.setReceived_tariffs (bs : List Byte) : (s.setReceived bs).tariffs = s.tariffs := rfl
@[simp] theorem State.setReceived_carriers (bs : List Byte) : (s.setReceived bs).carriers = s.carriers := rfl
@[simp] theorem State.setReceived_periods (bs : List Byte) : (s.setReceived bs).periods = s.periods := rfl
@[simp] theorem State.setReceived_records (bs : List Byte) : (s.setReceived bs).records = s.records := rfl
@[simp] theorem State.setReceived_pending (bs : List Byte) : (s.setReceived bs).pending = s.pending := rfl
@[simp] theorem State.setReceived_link_requests (bs : List Byte) : (s.setReceived bs).link.requests = s.link.requests := rfl
@[simp] theorem State.setReceived_link_sendList (bs : List Byte) : (s.setReceived bs).link.sendList = s.link.sendList := rfl
@[simp] theorem State.setReceived_link_transmitter (bs : List Byte) : (s.setReceived bs).link.transmitter = s.link.transmitter := rfl
@[simp] theorem State.setReceived_link_assembly (bs : List Byte) : (s.setReceived bs).link.assembly = s.link.assembly := rfl
@[simp] theorem State.setReceived_link_lineBroken (bs : List Byte) : (s.setReceived bs).link.lineBroken = s.link.lineBroken := rfl
@[simp] theorem State.setReceived_link_spaceMs (bs : List Byte) : (s.setReceived bs).link.spaceMs = s.link.spaceMs := rfl
@[simp] theorem State.setReceived_link_flags (bs : List Byte) : (s.setReceived bs).link.flags = s.link.flags := rfl
@[simp] theorem State.setReceived_link_enables (bs : List Byte) : (s.setReceived bs).link.enables = s.link.enables := rfl
@[simp] theorem State.setReceived_link_noticeCounter (bs : List Byte) : (s.setReceived bs).link.noticeCounter = s.link.noticeCounter := rfl

/-! ### setAssembly -/

@[simp] theorem State.setAssembly_resetLow (a : Option Request) : (s.setAssembly a).resetLow = s.resetLow := rfl
@[simp] theorem State.setAssembly_rateStraps (a : Option Request) : (s.setAssembly a).rateStraps = s.rateStraps := rfl
@[simp] theorem State.setAssembly_circuits (a : Option Request) : (s.setAssembly a).circuits = s.circuits := rfl
@[simp] theorem State.setAssembly_spans (a : Option Request) : (s.setAssembly a).spans = s.spans := rfl
@[simp] theorem State.setAssembly_groups (a : Option Request) : (s.setAssembly a).groups = s.groups := rfl
@[simp] theorem State.setAssembly_prefixes (a : Option Request) : (s.setAssembly a).prefixes = s.prefixes := rfl
@[simp] theorem State.setAssembly_plans (a : Option Request) : (s.setAssembly a).plans = s.plans := rfl
@[simp] theorem State.setAssembly_calls (a : Option Request) : (s.setAssembly a).calls = s.calls := rfl
@[simp] theorem State.setAssembly_serialCounter (a : Option Request) : (s.setAssembly a).serialCounter = s.serialCounter := rfl
@[simp] theorem State.setAssembly_monitor (a : Option Request) : (s.setAssembly a).monitor = s.monitor := rfl
@[simp] theorem State.setAssembly_guard (a : Option Request) : (s.setAssembly a).guard = s.guard := rfl
@[simp] theorem State.setAssembly_time (a : Option Request) : (s.setAssembly a).time = s.time := rfl
@[simp] theorem State.setAssembly_bandMap (a : Option Request) : (s.setAssembly a).bandMap = s.bandMap := rfl
@[simp] theorem State.setAssembly_tariffs (a : Option Request) : (s.setAssembly a).tariffs = s.tariffs := rfl
@[simp] theorem State.setAssembly_carriers (a : Option Request) : (s.setAssembly a).carriers = s.carriers := rfl
@[simp] theorem State.setAssembly_periods (a : Option Request) : (s.setAssembly a).periods = s.periods := rfl
@[simp] theorem State.setAssembly_records (a : Option Request) : (s.setAssembly a).records = s.records := rfl
@[simp] theorem State.setAssembly_pending (a : Option Request) : (s.setAssembly a).pending = s.pending := rfl
@[simp] theorem State.setAssembly_link_requests (a : Option Request) : (s.setAssembly a).link.requests = s.link.requests := rfl
@[simp] theorem State.setAssembly_link_sendList (a : Option Request) : (s.setAssembly a).link.sendList = s.link.sendList := rfl
@[simp] theorem State.setAssembly_link_transmitter (a : Option Request) : (s.setAssembly a).link.transmitter = s.link.transmitter := rfl
@[simp] theorem State.setAssembly_link_received (a : Option Request) : (s.setAssembly a).link.received = s.link.received := rfl
@[simp] theorem State.setAssembly_link_lineBroken (a : Option Request) : (s.setAssembly a).link.lineBroken = s.link.lineBroken := rfl
@[simp] theorem State.setAssembly_link_spaceMs (a : Option Request) : (s.setAssembly a).link.spaceMs = s.link.spaceMs := rfl
@[simp] theorem State.setAssembly_link_flags (a : Option Request) : (s.setAssembly a).link.flags = s.link.flags := rfl
@[simp] theorem State.setAssembly_link_enables (a : Option Request) : (s.setAssembly a).link.enables = s.link.enables := rfl
@[simp] theorem State.setAssembly_link_noticeCounter (a : Option Request) : (s.setAssembly a).link.noticeCounter = s.link.noticeCounter := rfl

/-! ### dropHeadRequest -/

@[simp] theorem State.dropHeadRequest_resetLow : (s.dropHeadRequest).resetLow = s.resetLow := rfl
@[simp] theorem State.dropHeadRequest_rateStraps : (s.dropHeadRequest).rateStraps = s.rateStraps := rfl
@[simp] theorem State.dropHeadRequest_circuits : (s.dropHeadRequest).circuits = s.circuits := rfl
@[simp] theorem State.dropHeadRequest_spans : (s.dropHeadRequest).spans = s.spans := rfl
@[simp] theorem State.dropHeadRequest_groups : (s.dropHeadRequest).groups = s.groups := rfl
@[simp] theorem State.dropHeadRequest_prefixes : (s.dropHeadRequest).prefixes = s.prefixes := rfl
@[simp] theorem State.dropHeadRequest_plans : (s.dropHeadRequest).plans = s.plans := rfl
@[simp] theorem State.dropHeadRequest_calls : (s.dropHeadRequest).calls = s.calls := rfl
@[simp] theorem State.dropHeadRequest_serialCounter : (s.dropHeadRequest).serialCounter = s.serialCounter := rfl
@[simp] theorem State.dropHeadRequest_monitor : (s.dropHeadRequest).monitor = s.monitor := rfl
@[simp] theorem State.dropHeadRequest_guard : (s.dropHeadRequest).guard = s.guard := rfl
@[simp] theorem State.dropHeadRequest_time : (s.dropHeadRequest).time = s.time := rfl
@[simp] theorem State.dropHeadRequest_bandMap : (s.dropHeadRequest).bandMap = s.bandMap := rfl
@[simp] theorem State.dropHeadRequest_tariffs : (s.dropHeadRequest).tariffs = s.tariffs := rfl
@[simp] theorem State.dropHeadRequest_carriers : (s.dropHeadRequest).carriers = s.carriers := rfl
@[simp] theorem State.dropHeadRequest_periods : (s.dropHeadRequest).periods = s.periods := rfl
@[simp] theorem State.dropHeadRequest_records : (s.dropHeadRequest).records = s.records := rfl
@[simp] theorem State.dropHeadRequest_pending : (s.dropHeadRequest).pending = s.pending := rfl
@[simp] theorem State.dropHeadRequest_link_sendList : (s.dropHeadRequest).link.sendList = s.link.sendList := rfl
@[simp] theorem State.dropHeadRequest_link_transmitter : (s.dropHeadRequest).link.transmitter = s.link.transmitter := rfl
@[simp] theorem State.dropHeadRequest_link_assembly : (s.dropHeadRequest).link.assembly = s.link.assembly := rfl
@[simp] theorem State.dropHeadRequest_link_received : (s.dropHeadRequest).link.received = s.link.received := rfl
@[simp] theorem State.dropHeadRequest_link_lineBroken : (s.dropHeadRequest).link.lineBroken = s.link.lineBroken := rfl
@[simp] theorem State.dropHeadRequest_link_spaceMs : (s.dropHeadRequest).link.spaceMs = s.link.spaceMs := rfl
@[simp] theorem State.dropHeadRequest_link_flags : (s.dropHeadRequest).link.flags = s.link.flags := rfl
@[simp] theorem State.dropHeadRequest_link_enables : (s.dropHeadRequest).link.enables = s.link.enables := rfl
@[simp] theorem State.dropHeadRequest_link_noticeCounter : (s.dropHeadRequest).link.noticeCounter = s.link.noticeCounter := rfl

/-! ### withoutMessages -/

@[simp] theorem State.withoutMessages_resetLow : (s.withoutMessages).resetLow = s.resetLow := rfl
@[simp] theorem State.withoutMessages_rateStraps : (s.withoutMessages).rateStraps = s.rateStraps := rfl
@[simp] theorem State.withoutMessages_circuits : (s.withoutMessages).circuits = s.circuits := rfl
@[simp] theorem State.withoutMessages_spans : (s.withoutMessages).spans = s.spans := rfl
@[simp] theorem State.withoutMessages_groups : (s.withoutMessages).groups = s.groups := rfl
@[simp] theorem State.withoutMessages_prefixes : (s.withoutMessages).prefixes = s.prefixes := rfl
@[simp] theorem State.withoutMessages_plans : (s.withoutMessages).plans = s.plans := rfl
@[simp] theorem State.withoutMessages_calls : (s.withoutMessages).calls = s.calls := rfl
@[simp] theorem State.withoutMessages_serialCounter : (s.withoutMessages).serialCounter = s.serialCounter := rfl
@[simp] theorem State.withoutMessages_monitor : (s.withoutMessages).monitor = s.monitor := rfl
@[simp] theorem State.withoutMessages_guard : (s.withoutMessages).guard = s.guard := rfl
@[simp] theorem State.withoutMessages_time : (s.withoutMessages).time = s.time := rfl
@[simp] theorem State.withoutMessages_bandMap : (s.withoutMessages).bandMap = s.bandMap := rfl
@[simp] theorem State.withoutMessages_tariffs : (s.withoutMessages).tariffs = s.tariffs := rfl
@[simp] theorem State.withoutMessages_carriers : (s.withoutMessages).carriers = s.carriers := rfl
@[simp] theorem State.withoutMessages_periods : (s.withoutMessages).periods = s.periods := rfl
@[simp] theorem State.withoutMessages_records : (s.withoutMessages).records = s.records := rfl
@[simp] theorem State.withoutMessages_pending : (s.withoutMessages).pending = s.pending := rfl
@[simp] theorem State.withoutMessages_link_requests : (s.withoutMessages).link.requests = s.link.requests := rfl
@[simp] theorem State.withoutMessages_link_transmitter : (s.withoutMessages).link.transmitter = s.link.transmitter := rfl
@[simp] theorem State.withoutMessages_link_assembly : (s.withoutMessages).link.assembly = s.link.assembly := rfl
@[simp] theorem State.withoutMessages_link_received : (s.withoutMessages).link.received = s.link.received := rfl
@[simp] theorem State.withoutMessages_link_lineBroken : (s.withoutMessages).link.lineBroken = s.link.lineBroken := rfl
@[simp] theorem State.withoutMessages_link_spaceMs : (s.withoutMessages).link.spaceMs = s.link.spaceMs := rfl
@[simp] theorem State.withoutMessages_link_flags : (s.withoutMessages).link.flags = s.link.flags := rfl
@[simp] theorem State.withoutMessages_link_enables : (s.withoutMessages).link.enables = s.link.enables := rfl
@[simp] theorem State.withoutMessages_link_noticeCounter : (s.withoutMessages).link.noticeCounter = s.link.noticeCounter := rfl

/-! ### sendFirst -/

@[simp] theorem State.sendFirst_resetLow (ms : List Message) : (s.sendFirst ms).resetLow = s.resetLow := rfl
@[simp] theorem State.sendFirst_rateStraps (ms : List Message) : (s.sendFirst ms).rateStraps = s.rateStraps := rfl
@[simp] theorem State.sendFirst_circuits (ms : List Message) : (s.sendFirst ms).circuits = s.circuits := rfl
@[simp] theorem State.sendFirst_spans (ms : List Message) : (s.sendFirst ms).spans = s.spans := rfl
@[simp] theorem State.sendFirst_groups (ms : List Message) : (s.sendFirst ms).groups = s.groups := rfl
@[simp] theorem State.sendFirst_prefixes (ms : List Message) : (s.sendFirst ms).prefixes = s.prefixes := rfl
@[simp] theorem State.sendFirst_plans (ms : List Message) : (s.sendFirst ms).plans = s.plans := rfl
@[simp] theorem State.sendFirst_calls (ms : List Message) : (s.sendFirst ms).calls = s.calls := rfl
@[simp] theorem State.sendFirst_serialCounter (ms : List Message) : (s.sendFirst ms).serialCounter = s.serialCounter := rfl
@[simp] theorem State.sendFirst_monitor (ms : List Message) : (s.sendFirst ms).monitor = s.monitor := rfl
@[simp] theorem State.sendFirst_guard (ms : List Message) : (s.sendFirst ms).guard = s.guard := rfl
@[simp] theorem State.sendFirst_time (ms : List Message) : (s.sendFirst ms).time = s.time := rfl
@[simp] theorem State.sendFirst_bandMap (ms : List Message) : (s.sendFirst ms).bandMap = s.bandMap := rfl
@[simp] theorem State.sendFirst_tariffs (ms : List Message) : (s.sendFirst ms).tariffs = s.tariffs := rfl
@[simp] theorem State.sendFirst_carriers (ms : List Message) : (s.sendFirst ms).carriers = s.carriers := rfl
@[simp] theorem State.sendFirst_periods (ms : List Message) : (s.sendFirst ms).periods = s.periods := rfl
@[simp] theorem State.sendFirst_records (ms : List Message) : (s.sendFirst ms).records = s.records := rfl
@[simp] theorem State.sendFirst_pending (ms : List Message) : (s.sendFirst ms).pending = s.pending := rfl
@[simp] theorem State.sendFirst_link_requests (ms : List Message) : (s.sendFirst ms).link.requests = s.link.requests := rfl
@[simp] theorem State.sendFirst_link_transmitter (ms : List Message) : (s.sendFirst ms).link.transmitter = s.link.transmitter := rfl
@[simp] theorem State.sendFirst_link_assembly (ms : List Message) : (s.sendFirst ms).link.assembly = s.link.assembly := rfl
@[simp] theorem State.sendFirst_link_received (ms : List Message) : (s.sendFirst ms).link.received = s.link.received := rfl
@[simp] theorem State.sendFirst_link_lineBroken (ms : List Message) : (s.sendFirst ms).link.lineBroken = s.link.lineBroken := rfl
@[simp] theorem State.sendFirst_link_spaceMs (ms : List Message) : (s.sendFirst ms).link.spaceMs = s.link.spaceMs := rfl
@[simp] theorem State.sendFirst_link_flags (ms : List Message) : (s.sendFirst ms).link.flags = s.link.flags := rfl
@[simp] theorem State.sendFirst_link_enables (ms : List Message) : (s.sendFirst ms).link.enables = s.link.enables := rfl
@[simp] theorem State.sendFirst_link_noticeCounter (ms : List Message) : (s.sendFirst ms).link.noticeCounter = s.link.noticeCounter := rfl

/-! ### oweVisitToRequests -/

@[simp] theorem State.oweVisitToRequests_resetLow : (s.oweVisitToRequests).resetLow = s.resetLow := rfl
@[simp] theorem State.oweVisitToRequests_rateStraps : (s.oweVisitToRequests).rateStraps = s.rateStraps := rfl
@[simp] theorem State.oweVisitToRequests_circuits : (s.oweVisitToRequests).circuits = s.circuits := rfl
@[simp] theorem State.oweVisitToRequests_spans : (s.oweVisitToRequests).spans = s.spans := rfl
@[simp] theorem State.oweVisitToRequests_groups : (s.oweVisitToRequests).groups = s.groups := rfl
@[simp] theorem State.oweVisitToRequests_prefixes : (s.oweVisitToRequests).prefixes = s.prefixes := rfl
@[simp] theorem State.oweVisitToRequests_plans : (s.oweVisitToRequests).plans = s.plans := rfl
@[simp] theorem State.oweVisitToRequests_calls : (s.oweVisitToRequests).calls = s.calls := rfl
@[simp] theorem State.oweVisitToRequests_serialCounter : (s.oweVisitToRequests).serialCounter = s.serialCounter := rfl
@[simp] theorem State.oweVisitToRequests_monitor : (s.oweVisitToRequests).monitor = s.monitor := rfl
@[simp] theorem State.oweVisitToRequests_guard : (s.oweVisitToRequests).guard = s.guard := rfl
@[simp] theorem State.oweVisitToRequests_time : (s.oweVisitToRequests).time = s.time := rfl
@[simp] theorem State.oweVisitToRequests_bandMap : (s.oweVisitToRequests).bandMap = s.bandMap := rfl
@[simp] theorem State.oweVisitToRequests_tariffs : (s.oweVisitToRequests).tariffs = s.tariffs := rfl
@[simp] theorem State.oweVisitToRequests_carriers : (s.oweVisitToRequests).carriers = s.carriers := rfl
@[simp] theorem State.oweVisitToRequests_records : (s.oweVisitToRequests).records = s.records := rfl
@[simp] theorem State.oweVisitToRequests_link : (s.oweVisitToRequests).link = s.link := rfl
@[simp] theorem State.oweVisitToRequests_pending : (s.oweVisitToRequests).pending = s.pending := rfl
@[simp] theorem State.oweVisitToRequests_periods_number : (s.oweVisitToRequests).periods.number = s.periods.number := rfl
@[simp] theorem State.oweVisitToRequests_periods_length : (s.oweVisitToRequests).periods.length = s.periods.length := rfl
@[simp] theorem State.oweVisitToRequests_periods_closed : (s.oweVisitToRequests).periods.closed = s.periods.closed := rfl
@[simp] theorem State.oweVisitToRequests_periods_deferred : (s.oweVisitToRequests).periods.deferred = s.periods.deferred := rfl
@[simp] theorem State.oweVisitToRequests_periods_boundaryWaiting : (s.oweVisitToRequests).periods.boundaryWaiting = s.periods.boundaryWaiting := rfl

/-! ### answer -/

@[simp] theorem State.answer_resetLow (k : Nat) (g : Tag) (b : Body) : (s.answer k g b).resetLow = s.resetLow := rfl
@[simp] theorem State.answer_rateStraps (k : Nat) (g : Tag) (b : Body) : (s.answer k g b).rateStraps = s.rateStraps := rfl
@[simp] theorem State.answer_circuits (k : Nat) (g : Tag) (b : Body) : (s.answer k g b).circuits = s.circuits := rfl
@[simp] theorem State.answer_spans (k : Nat) (g : Tag) (b : Body) : (s.answer k g b).spans = s.spans := rfl
@[simp] theorem State.answer_groups (k : Nat) (g : Tag) (b : Body) : (s.answer k g b).groups = s.groups := rfl
@[simp] theorem State.answer_prefixes (k : Nat) (g : Tag) (b : Body) : (s.answer k g b).prefixes = s.prefixes := rfl
@[simp] theorem State.answer_plans (k : Nat) (g : Tag) (b : Body) : (s.answer k g b).plans = s.plans := rfl
@[simp] theorem State.answer_calls (k : Nat) (g : Tag) (b : Body) : (s.answer k g b).calls = s.calls := rfl
@[simp] theorem State.answer_serialCounter (k : Nat) (g : Tag) (b : Body) : (s.answer k g b).serialCounter = s.serialCounter := rfl
@[simp] theorem State.answer_monitor (k : Nat) (g : Tag) (b : Body) : (s.answer k g b).monitor = s.monitor := rfl
@[simp] theorem State.answer_guard (k : Nat) (g : Tag) (b : Body) : (s.answer k g b).guard = s.guard := rfl
@[simp] theorem State.answer_time (k : Nat) (g : Tag) (b : Body) : (s.answer k g b).time = s.time := rfl
@[simp] theorem State.answer_bandMap (k : Nat) (g : Tag) (b : Body) : (s.answer k g b).bandMap = s.bandMap := rfl
@[simp] theorem State.answer_tariffs (k : Nat) (g : Tag) (b : Body) : (s.answer k g b).tariffs = s.tariffs := rfl
@[simp] theorem State.answer_carriers (k : Nat) (g : Tag) (b : Body) : (s.answer k g b).carriers = s.carriers := rfl
@[simp] theorem State.answer_records (k : Nat) (g : Tag) (b : Body) : (s.answer k g b).records = s.records := rfl
@[simp] theorem State.answer_pending (k : Nat) (g : Tag) (b : Body) : (s.answer k g b).pending = s.pending := rfl
@[simp] theorem State.answer_link_transmitter (k : Nat) (g : Tag) (b : Body) : (s.answer k g b).link.transmitter = s.link.transmitter := rfl
@[simp] theorem State.answer_link_assembly (k : Nat) (g : Tag) (b : Body) : (s.answer k g b).link.assembly = s.link.assembly := rfl
@[simp] theorem State.answer_link_received (k : Nat) (g : Tag) (b : Body) : (s.answer k g b).link.received = s.link.received := rfl
@[simp] theorem State.answer_link_lineBroken (k : Nat) (g : Tag) (b : Body) : (s.answer k g b).link.lineBroken = s.link.lineBroken := rfl
@[simp] theorem State.answer_link_spaceMs (k : Nat) (g : Tag) (b : Body) : (s.answer k g b).link.spaceMs = s.link.spaceMs := rfl
@[simp] theorem State.answer_link_flags (k : Nat) (g : Tag) (b : Body) : (s.answer k g b).link.flags = s.link.flags := rfl
@[simp] theorem State.answer_link_enables (k : Nat) (g : Tag) (b : Body) : (s.answer k g b).link.enables = s.link.enables := rfl
@[simp] theorem State.answer_link_noticeCounter (k : Nat) (g : Tag) (b : Body) : (s.answer k g b).link.noticeCounter = s.link.noticeCounter := rfl
@[simp] theorem State.answer_periods_number (k : Nat) (g : Tag) (b : Body) : (s.answer k g b).periods.number = s.periods.number := rfl
@[simp] theorem State.answer_periods_length (k : Nat) (g : Tag) (b : Body) : (s.answer k g b).periods.length = s.periods.length := rfl
@[simp] theorem State.answer_periods_closed (k : Nat) (g : Tag) (b : Body) : (s.answer k g b).periods.closed = s.periods.closed := rfl
@[simp] theorem State.answer_periods_deferred (k : Nat) (g : Tag) (b : Body) : (s.answer k g b).periods.deferred = s.periods.deferred := rfl
@[simp] theorem State.answer_periods_boundaryWaiting (k : Nat) (g : Tag) (b : Body) : (s.answer k g b).periods.boundaryWaiting = s.periods.boundaryWaiting := rfl

end Sys2Proof.Machine
end

