-- ==== Sys2Proof/Laws/Table.lean ====
section
/-! SUPPORT. The laws of sparse tables: a read after each write, and that every write keeps the rising order. -/

namespace Sys2Proof.Machine

variable {α : Type}

/-! ### A read after a write -/

@[simp] theorem Table.find_nil (n : Nat) : Table.find ([] : Table α) n = none := rfl

@[simp] theorem Table.find_cons (k : Nat) (v : α) (t : Table α) (n : Nat) :
    Table.find ((k, v) :: t) n = if k = n then some v else Table.find t n := rfl

@[simp] theorem Table.find_put_self (t : Table α) (n : Nat) (v : α) : Table.find (Table.put t n v) n = some v := by
  induction t with
  | nil => simp [Table.put]
  | cons e t ih =>
    obtain ⟨k, w⟩ := e
    simp only [Table.put]
    split
    · simp
    · split
      · simp
      · rename_i h; simp [ih, Ne.symm h]

theorem Table.find_put_ne (t : Table α) {m n : Nat} (v : α) (h : m ≠ n) :
    Table.find (Table.put t n v) m = Table.find t m := by
  induction t with
  | nil => simp [Table.put, h.symm]
  | cons e t ih =>
    obtain ⟨k, w⟩ := e
    simp only [Table.put]
    split
    · simp [h.symm]
    · split
      · rename_i hk; subst hk; simp [h.symm]
      · simp [ih]

/-- A read after a write of one entry. -/
theorem Table.find_put (t : Table α) (m n : Nat) (v : α) :
    Table.find (Table.put t n v) m = if m = n then some v else Table.find t m := by
  split
  · subst_vars; simp
  · exact Table.find_put_ne t v ‹_›

/-- A read after an entry is taken out. -/
theorem Table.find_erase (t : Table α) (m n : Nat) :
    Table.find (Table.erase t n) m = if m = n then none else Table.find t m := by
  induction t with
  | nil => simp [Table.erase]
  | cons e t ih =>
    obtain ⟨k, w⟩ := e
    simp only [Table.erase, List.filter_cons] at ih ⊢
    by_cases hk : k = n
    · subst hk; simp only [bne_self_eq_false, Bool.false_eq_true, if_false, ih, Table.find_cons]
      by_cases hm : m = k
      · simp [hm]
      · simp [hm, Ne.symm hm]
    · simp only [bne_iff_ne, ne_eq, hk, not_false_eq_true, if_true, Table.find_cons, ih]
      by_cases hm : m = n
      · subst hm; simp [hk]
      · simp [hm]

@[simp] theorem Table.find_erase_self (t : Table α) (n : Nat) : Table.find (Table.erase t n) n = none := by
  simp [Table.find_erase]

/-- A read after one record is rewritten. -/
theorem Table.find_modify (t : Table α) (m n : Nat) (f : α → α) :
    Table.find (Table.modify t n f) m = if m = n then (Table.find t n).map f else Table.find t m := by
  induction t with
  | nil => simp [Table.modify]
  | cons e t ih =>
    obtain ⟨k, w⟩ := e
    simp only [Table.modify, List.map_cons] at ih ⊢
    by_cases hk : k = n
    · subst hk
      by_cases hm : m = k
      · simp [hm]
      · simp [hm, Ne.symm hm, ih]
    · by_cases hm : m = n
      · subst hm; simp [hk, ih]
      · simp [hk, hm, ih]

@[simp] theorem Table.find_modify_self (t : Table α) (n : Nat) (f : α → α) :
    Table.find (Table.modify t n f) n = (Table.find t n).map f := by simp [Table.find_modify]

theorem Table.find_modify_ne (t : Table α) {m n : Nat} (f : α → α) (h : m ≠ n) :
    Table.find (Table.modify t n f) m = Table.find t m := by simp [Table.find_modify, h]

/-- A read after every record is rewritten. -/
@[simp] theorem Table.find_mapAll (t : Table α) (n : Nat) (f : α → α) :
    Table.find (Table.mapAll t f) n = (Table.find t n).map f := by
  induction t with
  | nil => rfl
  | cons e t ih =>
    obtain ⟨k, w⟩ := e
    simp only [Table.mapAll, List.map_cons, Table.find_cons] at ih ⊢
    split
    · rfl
    · exact ih

/-- Two rewritings of one record are one. -/
theorem Table.modify_modify (t : Table α) (n : Nat) (f g : α → α) :
    Table.modify (Table.modify t n f) n g = Table.modify t n fun x => g (f x) := by
  simp only [Table.modify, List.map_map]
  congr 1; funext e; by_cases h : e.1 = n <;> simp [h]

/-! ### Entries and reads -/

theorem Table.mem_of_find {t : Table α} {n : Nat} {v : α} (h : Table.find t n = some v) : (n, v) ∈ t := by
  induction t with
  | nil => simp at h
  | cons e t ih =>
    obtain ⟨k, w⟩ := e
    simp only [Table.find_cons] at h
    split at h
    · subst_vars; simp_all
    · exact List.mem_cons_of_mem _ (ih h)

theorem Table.isSome_find_iff (t : Table α) (n : Nat) : (Table.find t n).isSome = true ↔ ∃ v, (n, v) ∈ t := by
  induction t with
  | nil => simp
  | cons e t ih =>
    obtain ⟨k, w⟩ := e
    simp only [Table.find_cons, List.mem_cons, Prod.mk.injEq]
    split
    · subst_vars; exact iff_of_true rfl ⟨w, .inl ⟨rfl, rfl⟩⟩
    · rw [ih]
      constructor
      · rintro ⟨v, hv⟩; exact ⟨v, .inr hv⟩
      · rintro ⟨v, ⟨rfl, -⟩ | hv⟩
        · contradiction
        · exact ⟨v, hv⟩

/-! ### The rising order -/

/-- Rising order in terms of the whole list. -/
theorem Table.rising_iff (t : Table α) : Table.rising t = true ↔ t.Pairwise fun a b => a.1 < b.1 := by
  induction t with
  | nil => simp [Table.rising]
  | cons e t ih =>
    cases t with
    | nil => simp [Table.rising]
    | cons f t =>
      obtain ⟨k, v⟩ := e
      obtain ⟨l, w⟩ := f
      rw [Table.rising, Bool.and_eq_true, ih, List.pairwise_cons (a := (k, v)), decide_eq_true_eq]
      constructor
      · rintro ⟨hkl, ht⟩
        refine ⟨?_, ht⟩
        intro b hb
        rcases List.mem_cons.mp hb with rfl | hb
        · exact hkl
        · exact Nat.lt_trans hkl ((List.pairwise_cons.mp ht).1 b hb)
      · rintro ⟨hk, ht⟩
        exact ⟨hk (l, w) (List.mem_cons_self ..), ht⟩

/-- An entry of a rising table is what a read gives. -/
theorem Table.find_of_mem {t : Table α} (hr : Table.rising t = true) {n : Nat} {v : α} (h : (n, v) ∈ t) :
    Table.find t n = some v := by
  rw [Table.rising_iff] at hr
  induction t with
  | nil => simp at h
  | cons e t ih =>
    obtain ⟨k, w⟩ := e
    rw [List.pairwise_cons] at hr
    rcases List.mem_cons.mp h with heq | h
    · cases heq; simp
    · have : k < n := hr.1 (n, v) h
      simp only [Table.find_cons, Nat.ne_of_lt this, if_false]
      exact ih hr.2 h

theorem Table.mem_put {t : Table α} {n : Nat} {v : α} {e : Nat × α} (h : e ∈ Table.put t n v) :
    e = (n, v) ∨ e ∈ t := by
  induction t with
  | nil => simpa [Table.put] using h
  | cons f t ih =>
    obtain ⟨k, w⟩ := f
    simp only [Table.put] at h
    split at h
    · simpa using h
    · split at h
      · rcases List.mem_cons.mp h with h | h
        · exact .inl h
        · exact .inr (List.mem_cons_of_mem _ h)
      · rcases List.mem_cons.mp h with h | h
        · exact .inr (h ▸ List.mem_cons_self ..)
        · exact (ih h).imp id (List.mem_cons_of_mem _)

theorem Table.rising_put {t : Table α} (hr : Table.rising t = true) (n : Nat) (v : α) :
    Table.rising (Table.put t n v) = true := by
  rw [Table.rising_iff] at hr ⊢
  induction t with
  | nil => simp [Table.put]
  | cons e t ih =>
    obtain ⟨k, w⟩ := e
    rw [List.pairwise_cons] at hr
    simp only [Table.put]
    split
    · rename_i hn
      refine List.pairwise_cons.mpr ⟨?_, List.pairwise_cons.mpr hr⟩
      intro b hb
      rcases List.mem_cons.mp hb with rfl | hb
      · exact hn
      · exact Nat.lt_trans hn (hr.1 b hb)
    · split
      · subst_vars; exact List.pairwise_cons.mpr hr
      · refine List.pairwise_cons.mpr ⟨?_, ih hr.2⟩
        intro b hb
        rcases Table.mem_put hb with rfl | hb
        · show k < n; omega
        · exact hr.1 b hb

theorem Table.rising_erase {t : Table α} (hr : Table.rising t = true) (n : Nat) :
    Table.rising (Table.erase t n) = true := by
  rw [Table.rising_iff] at hr ⊢
  exact hr.filter _

/-- A rewriting that keeps every index keeps the order. -/
theorem Table.rising_map {t : Table α} (hr : Table.rising t = true) (f : Nat × α → Nat × α)
    (hf : ∀ e, (f e).1 = e.1) : Table.rising (t.map f) = true := by
  rw [Table.rising_iff] at hr ⊢
  rw [List.pairwise_map]
  exact hr.imp fun {a b} h => by rw [hf, hf]; exact h

theorem Table.rising_modify {t : Table α} (hr : Table.rising t = true) (n : Nat) (f : α → α) :
    Table.rising (Table.modify t n f) = true :=
  Table.rising_map hr _ fun e => by split <;> rfl

theorem Table.rising_mapAll {t : Table α} (hr : Table.rising t = true) (f : α → α) :
    Table.rising (Table.mapAll t f) = true := Table.rising_map hr _ fun _ => rfl

end Sys2Proof.Machine
end

