-- ==== Sys2Proof/Laws/Ops.lean ====
section
/-! SUPPORT. What the named operations on circuits, spans, groups, calls, carriers and messages write, one lemma for
each operation, with its frame. -/

namespace Sys2Proof.Machine

open Sys2Proof

variable (s : State)

/-! ### Arithmetic of fields -/

theorem satAdd_eq_min (top a b : Nat) : satAdd top a b = min (a + b) top := by
  unfold satAdd; split <;> omega

theorem satAdd_le (top a b : Nat) : satAdd top a b ≤ top := by rw [satAdd_eq_min]; exact Nat.min_le_right ..

theorem wrap32_eq (n : Nat) : wrap32 n = n % 4294967296 := rfl

theorem wrap32_lt (n : Nat) : wrap32 n < 4294967296 := Nat.mod_lt _ (by decide)

theorem clamp_eq {low high : Nat} (h : low ≤ high) (n : Nat) : clamp low high n = max low (min n high) := by
  unfold clamp; split
  · omega
  · split <;> omega

/-! ### Messages and flags -/

@[simp] theorem State.send_sendList (m : Message) : (s.send m).link.sendList = s.link.sendList ++ [m] := rfl

@[simp] theorem State.raise_sendList (k : Nat) (b : Body) :
    (s.raise k b).link.sendList = s.link.sendList ++ [{ code := k, tag := s.link.noticeCounter, body := b }] := rfl

@[simp] theorem State.raise_noticeCounter (k : Nat) (b : Body) :
    (s.raise k b).link.noticeCounter = s.link.noticeCounter + 1 := rfl

@[simp] theorem State.raiseIf_true (k : Nat) (b : Body) : s.raiseIf true k b = s.raise k b := rfl

@[simp] theorem State.raiseIf_false (k : Nat) (b : Body) : s.raiseIf false k b = s := rfl

/-- What a conditional notice adds to the send list. -/
theorem State.raiseIf_sendList (on : Bool) (k : Nat) (b : Body) :
    ∃ l, (s.raiseIf on k b).link.sendList = s.link.sendList ++ l ∧ (on = false → l = []) := by
  cases on
  · exact ⟨[], by simp⟩
  · exact ⟨_, rfl, by simp⟩

/-- Different flags have different bits. -/
theorem Flag.bit_inj {f g : Flag} : f.bit = g.bit → f = g := by cases f <;> cases g <;> decide

theorem Flag.bit_lt (f : Flag) : f.bit < 14 := by cases f <;> decide

/-- A flag that is set is set, and the others stand as they stood (R187). -/
@[simp] theorem State.flag_setFlag (f g : Flag) : (s.setFlag f).flag g = (s.flag g || decide (f = g)) := by
  unfold State.flag State.setFlag
  cases f <;> cases g <;> simp [Flag.bit]

@[simp] theorem State.flag_raise (k : Nat) (b : Body) (f : Flag) : (s.raise k b).flag f = s.flag f := rfl

@[simp] theorem State.flag_raiseIf (on : Bool) (k : Nat) (b : Body) (f : Flag) :
    (s.raiseIf on k b).flag f = s.flag f := by cases on <;> rfl

@[simp] theorem State.enabled_setFlag (f : Flag) (c : NoticeClass) : (s.setFlag f).enabled c = s.enabled c := rfl

@[simp] theorem State.enabled_raise (k : Nat) (b : Body) (c : NoticeClass) : (s.raise k b).enabled c = s.enabled c := rfl

@[simp] theorem State.enabled_raiseIf (on : Bool) (k : Nat) (b : Body) (c : NoticeClass) :
    (s.raiseIf on k b).enabled c = s.enabled c := by cases on <;> rfl

/-- Messages and flags touch the link alone. -/
theorem State.raiseIf_frame (on : Bool) (k : Nat) (b : Body) : { s.raiseIf on k b with link := s.link } = s := by
  cases on <;> rfl

/-! ### Circuits and spans -/

/-- A circuit's record after a record is written (R1). -/
@[simp] theorem State.circuit_setCircuit (n m : Nat) (c : Circuit) :
    (s.setCircuit n c).circuit m = if m = n then c else s.circuit m := by
  unfold State.circuit State.setCircuit
  by_cases hc : c = Circuit.powerOn
  · subst hc; simp only [if_true, Table.find_erase]; split <;> rfl
  · simp only [hc, if_false, Table.find_put]; split <;> rfl

/-- A span's record after a record is written (R4). -/
@[simp] theorem State.span_setSpan (n m : Nat) (r : Span) :
    (s.setSpan n r).span m = if m = n then r else s.span m := by
  unfold State.span State.setSpan
  by_cases hr : r = Span.powerOn
  · subst hr; simp only [if_true, Table.find_erase]; split <;> rfl
  · simp only [hr, if_false, Table.find_put]; split <;> rfl

/-- A circuit is written in the canonical form of its table (log 16). -/
theorem State.setCircuit_rising (h : Table.rising s.circuits = true) (n : Nat) (c : Circuit) :
    Table.rising (s.setCircuit n c).circuits = true := by
  unfold State.setCircuit; split
  · exact Table.rising_erase h n
  · exact Table.rising_put h n c

theorem State.setCircuit_listed (h : ∀ e ∈ s.circuits, e.2 ≠ Circuit.powerOn) (n : Nat) (c : Circuit) :
    ∀ e ∈ (s.setCircuit n c).circuits, e.2 ≠ Circuit.powerOn := by
  intro e he
  unfold State.setCircuit at he
  split at he
  · exact h e (List.mem_filter.mp he).1
  · rcases Table.mem_put he with rfl | he
    · assumption
    · exact h e he

theorem State.setSpan_rising (h : Table.rising s.spans = true) (n : Nat) (r : Span) :
    Table.rising (s.setSpan n r).spans = true := by
  unfold State.setSpan; split
  · exact Table.rising_erase h n
  · exact Table.rising_put h n r

theorem State.setSpan_listed (h : ∀ e ∈ s.spans, e.2 ≠ Span.powerOn) (n : Nat) (r : Span) :
    ∀ e ∈ (s.setSpan n r).spans, e.2 ≠ Span.powerOn := by
  intro e he
  unfold State.setSpan at he
  split at he
  · exact h e (List.mem_filter.mp he).1
  · rcases Table.mem_put he with rfl | he
    · assumption
    · exact h e he

/-- A read depends on its own table alone. -/
theorem State.circuit_congr {s t : State} (h : t.circuits = s.circuits) (n : Nat) : t.circuit n = s.circuit n := by
  simp [State.circuit, h]

theorem State.span_congr {s t : State} (h : t.spans = s.spans) (n : Nat) : t.span n = s.span n := by
  simp [State.span, h]

@[simp] theorem State.circuit_modifyGroup (g : Nat) (f : Group → Group) (n : Nat) :
    (s.modifyGroup g f).circuit n = s.circuit n := rfl

@[simp] theorem State.span_modifyGroup (g : Nat) (f : Group → Group) (n : Nat) :
    (s.modifyGroup g f).span n = s.span n := rfl

@[simp] theorem State.span_setCircuit (n : Nat) (c : Circuit) (m : Nat) : (s.setCircuit n c).span m = s.span m := rfl

@[simp] theorem State.circuit_setSpan (n : Nat) (r : Span) (m : Nat) : (s.setSpan n r).circuit m = s.circuit m := rfl

/-- A group's record after one group is rewritten. -/
@[simp] theorem State.find_modifyGroup (g k : Nat) (f : Group → Group) :
    Table.find (s.modifyGroup g f).groups k =
      if k = g then (Table.find s.groups g).map f else Table.find s.groups k := Table.find_modify ..

/-- A change of usage of an ungrouped circuit. -/
theorem State.setUsage_of_none {n : Nat} (h : (s.circuit n).group = none) (u : Usage) :
    s.setUsage n u = s.setCircuit n { s.circuit n with usage := u } := by simp [State.setUsage, h]

/-- A change of usage of a grouped circuit: its record and its group's busy count (R2). -/
theorem State.setUsage_of_some {n g : Nat} (h : (s.circuit n).group = some g) (u : Usage) :
    s.setUsage n u = (s.setCircuit n { s.circuit n with usage := u }).modifyGroup g fun grp =>
      { grp with busyCount := busyAfter grp.busyCount (s.circuit n).usage u } := by simp [State.setUsage, h]

/-- A change of usage touches the circuits and the groups alone. -/
theorem State.setUsage_frame (n : Nat) (u : Usage) :
    ∃ cs gs, s.setUsage n u = { s with circuits := cs, groups := gs } := by
  cases h : (s.circuit n).group with
  | none => exact ⟨_, s.groups, by rw [s.setUsage_of_none h]; rfl⟩
  | some g => exact ⟨_, _, by rw [s.setUsage_of_some h]; rfl⟩

/-- A change of usage writes one circuit's record. -/
@[simp] theorem State.circuit_setUsage (n m : Nat) (u : Usage) :
    (s.setUsage n u).circuit m = if m = n then { s.circuit n with usage := u } else s.circuit m := by
  cases h : (s.circuit n).group with
  | none => rw [s.setUsage_of_none h, State.circuit_setCircuit]
  | some g => rw [s.setUsage_of_some h, State.circuit_modifyGroup, State.circuit_setCircuit]

/-- A change of usage leaves the definition of every group alone. -/
theorem State.setUsage_group (n g : Nat) (u : Usage) (grp : Group) (h : Table.find s.groups g = some grp) :
    ∃ b, Table.find (s.setUsage n u).groups g = some { grp with busyCount := b } := by
  cases hc : (s.circuit n).group with
  | none => rw [s.setUsage_of_none hc]; exact ⟨grp.busyCount, h⟩
  | some k =>
    rw [s.setUsage_of_some hc, State.find_modifyGroup]
    by_cases hk : g = k
    · subst hk; simp only [if_true, State.setCircuit_groups, h, Option.map_some]; exact ⟨_, rfl⟩
    · simp only [hk, if_false, State.setCircuit_groups, h]; exact ⟨grp.busyCount, rfl⟩

@[simp] theorem State.setUsage_spans (n : Nat) (u : Usage) : (s.setUsage n u).spans = s.spans := by
  obtain ⟨_, _, h⟩ := s.setUsage_frame n u; rw [h]

@[simp] theorem State.setUsage_calls (n : Nat) (u : Usage) : (s.setUsage n u).calls = s.calls := by
  obtain ⟨_, _, h⟩ := s.setUsage_frame n u; rw [h]

@[simp] theorem State.setUsage_link (n : Nat) (u : Usage) : (s.setUsage n u).link = s.link := by
  obtain ⟨_, _, h⟩ := s.setUsage_frame n u; rw [h]

/-- With its watch closed, a span has no watch set to leave. -/
theorem State.unwatch_of_closed {n : Nat} (h : (s.span (spanOf n)).watch = none) : s.unwatch n = s := by
  simp [State.unwatch, h]

/-- A position leaves an open watch's set (R10). -/
theorem State.unwatch_of_open {n : Nat} {w : DrainWatch} (h : (s.span (spanOf n)).watch = some w) :
    s.unwatch n = s.setSpan (spanOf n) { s.span (spanOf n) with
      watch := some { w with positions := w.positions.filter fun p => p != positionOf n } } := by
  simp [State.unwatch, h]

/-- A position leaves its span's watch set (R10). -/
theorem State.span_unwatch (n m : Nat) :
    (s.unwatch n).span m =
      if m = spanOf n then { s.span m with watch := (s.span m).watch.map fun w =>
        { w with positions := w.positions.filter fun p => p != positionOf n } } else s.span m := by
  cases h : (s.span (spanOf n)).watch with
  | none =>
    rw [s.unwatch_of_closed h]
    split
    · rename_i hm
      rw [hm, h, Option.map_none, ← h]
    · rfl
  | some w =>
    rw [s.unwatch_of_open h, State.span_setSpan]
    split
    · rename_i hm; rw [hm, h, Option.map_some]
    · rfl

/-- Leaving a watch set touches the spans alone. -/
theorem State.unwatch_frame (n : Nat) : ∃ sp, s.unwatch n = { s with spans := sp } := by
  cases h : (s.span (spanOf n)).watch with
  | none => exact ⟨s.spans, s.unwatch_of_closed h⟩
  | some w => exact ⟨_, s.unwatch_of_open h⟩

@[simp] theorem State.circuit_unwatch (n m : Nat) : (s.unwatch n).circuit m = s.circuit m := by
  obtain ⟨_, h⟩ := s.unwatch_frame n; rw [h]; rfl

@[simp] theorem State.unwatch_groups (n : Nat) : (s.unwatch n).groups = s.groups := by
  obtain ⟨_, h⟩ := s.unwatch_frame n; rw [h]

/-- A circuit becomes IDLE and leaves its watch set (R10); the records besides stand. -/
theorem State.makeIdle_spec (n : Nat) :
    (∀ m, (s.makeIdle n).circuit m = if m = n then { s.circuit n with usage := .idle } else s.circuit m) ∧
    (∀ m, (s.makeIdle n).span m =
      if m = spanOf n then { s.span m with watch := (s.span m).watch.map fun w =>
        { w with positions := w.positions.filter fun p => p != positionOf n } } else s.span m) ∧
    (s.makeIdle n).groups = (s.setUsage n .idle).groups ∧
    ∃ cs gs sp, s.makeIdle n = { s with circuits := cs, groups := gs, spans := sp } := by
  refine ⟨fun m => ?_, fun m => ?_, ?_, ?_⟩
  · rw [State.makeIdle, State.circuit_unwatch, State.circuit_setUsage]
  · rw [State.makeIdle, State.span_unwatch, State.span_congr (s.setUsage_spans n .idle) m]
  · rw [State.makeIdle, State.unwatch_groups]
  · obtain ⟨cs, gs, h⟩ := s.setUsage_frame n .idle
    obtain ⟨sp, h'⟩ := (s.setUsage n .idle).unwatch_frame n
    exact ⟨cs, gs, sp, by rw [State.makeIdle, h', h]⟩

/-- The completion of a watch: nothing happens but to an open watch with an empty set (R11). -/
theorem State.completeWatch_spec (sp : Nat) (cause : DrainCause) :
    (s.completeWatch sp cause = s ∧ ∀ w, (s.span sp).watch = some w → w.positions ≠ []) ∨
    ∃ w, (s.span sp).watch = some w ∧ w.positions = [] ∧
      s.completeWatch sp cause =
        ((s.setFlag .drain).raiseIf (s.enabled .drain) codeDrainDone
          (.noticeDrainDone sp w.originTag w.merged cause)).setSpan sp { s.span sp with watch := none } := by
  unfold State.completeWatch
  cases h : (s.span sp).watch with
  | none => exact .inl ⟨rfl, by simp⟩
  | some w =>
    by_cases hp : w.positions = []
    · exact .inr ⟨w, rfl, hp, by simp [hp]⟩
    · exact .inl ⟨by simp [hp], by rintro _ ⟨⟩; exact hp⟩

theorem State.completeWatch_of_closed {sp : Nat} (h : (s.span sp).watch = none) (cause : DrainCause) :
    s.completeWatch sp cause = s := by simp [State.completeWatch, h]

/-- The completion of a watch that positions have left is told as the statements say it (R10, R11). -/
theorem State.completeWatch_told {t : State} {sp : Nat} {gone : List Nat} (he : t.enabled .drain = s.enabled .drain)
    (h : (t.span sp).watch = (s.span sp).watch.map fun w =>
      { w with positions := w.positions.filter fun q => !gone.contains q }) (cause : DrainCause) :
    (t.completeWatch sp cause).link = (s.drainTold t sp gone cause).link ∧
      ((t.completeWatch sp cause).span sp).watch = s.watchAfter sp gone := by
  unfold State.completeWatch State.drainTold State.watchAfter
  cases hs : (s.span sp).watch with
  | none =>
    rw [hs, Option.map_none] at h
    simp only [h, Option.bind_none, and_self]
  | some w =>
    rw [hs, Option.map_some] at h
    by_cases hw : (w.positions.filter fun q => !gone.contains q) = []
    · simp only [h, hw, if_true, he, Option.bind_some, State.setSpan_link, State.span_setSpan, and_self]
    · simp only [h, hw, if_false, Option.bind_some, and_self]

/-! ### Groups, plans, calls and carriers -/

@[simp] theorem State.find_modifyPlan (p k : Nat) (f : Plan → Plan) :
    Table.find (s.modifyPlan p f).plans k =
      if k = p then (Table.find s.plans p).map f else Table.find s.plans k := Table.find_modify ..

@[simp] theorem State.call_modifyCall (h k : Nat) (f : Call → Call) :
    (s.modifyCall h f).call k = if k = h then (s.call h).map f else s.call k := Table.find_modify ..

@[simp] theorem State.call_setRating (h k : Nat) (r : Rating) :
    (s.setRating h r).call k =
      if k = h then (s.call h).map fun c => { c with rating := some r } else s.call k := s.call_modifyCall h k _

@[simp] theorem State.find_modifyCarrier (c k : Nat) (f : Carrier → Carrier) :
    Table.find (s.modifyCarrier c f).carriers k =
      if k = c then (Table.find s.carriers c).map f else Table.find s.carriers k := Table.find_modify ..

theorem State.call_congr {s t : State} (h : t.calls = s.calls) (k : Nat) : t.call k = s.call k := by
  simp [State.call, h]

theorem State.group_congr {s t : State} (h : t.groups = s.groups) (g : Nat) : t.group g = s.group g := by
  simp [State.group, h]

/-- The lowest FREE handle at or after one, within the handles looked at. -/
theorem lowestFreeFrom_spec (calls : Table Call) (fuel : Nat) : ∀ h, (∃ k, h ≤ k ∧ k < h + fuel ∧
    Table.find calls k = none) → Table.find calls (lowestFreeFrom calls fuel h) = none ∧
      h ≤ lowestFreeFrom calls fuel h ∧ lowestFreeFrom calls fuel h < h + fuel ∧
      ∀ k, h ≤ k → k < lowestFreeFrom calls fuel h → Table.find calls k ≠ none := by
  induction fuel with
  | zero => rintro h ⟨k, h1, h2, -⟩; omega
  | succ fuel ih =>
    rintro h ⟨k, h1, h2, hk⟩
    simp only [lowestFreeFrom]
    by_cases hn : Table.find calls h = none
    · rw [if_pos (by simp [hn])]
      exact ⟨hn, Nat.le_refl _, by omega, fun k _ _ => by omega⟩
    · rw [if_neg (by simp [hn])]
      have hne : k ≠ h := by rintro rfl; exact hn hk
      obtain ⟨a, b, c, d⟩ := ih (h + 1) ⟨k, by omega, by omega, hk⟩
      refine ⟨a, by omega, by omega, fun j hj1 hj2 => ?_⟩
      by_cases hj : j = h
      · subst hj; exact hn
      · exact d j (by omega) hj2

end Sys2Proof.Machine
end

