-- ==== Sys2Proof/Laws/PerInstr.lean ====
section
/-! SUPPORT. The lemma family RequestCode: a well-formed command that is a request has the type byte of a whole
message, and the type is unknown only for UNKNOWN_REQUEST (R183, R184, section 12.6). -/

namespace Sys2Proof.Laws

/-- The type byte of a well-formed request: bit 6 clear, and a known request code, but for UNKNOWN_REQUEST. -/
def RequestCode.Statement (i : Instr) : Prop :=
  i.wellFormed = true → ∀ type tag payload, i.request? = some (type, tag, payload) →
    isMessageType type = true ∧ (isUnknownType type = true ↔ i = .unknownRequest type tag payload)

/-- An event is no request. -/
theorem RequestCode.of_event {i : Instr} (h : i.request? = none) : RequestCode.Statement i := by
  intro _ type tag payload hr; rw [h] at hr; cases hr

/-- A request of a known code. -/
theorem RequestCode.of_known {i : Instr} {code : Byte} {t : Tag} {p : List Byte}
    (h : i.request? = some (code, t, p)) (hm : isMessageType code = true) (hk : isUnknownType code = false)
    (hn : ∀ ty t p, i ≠ .unknownRequest ty t p) : RequestCode.Statement i := by
  intro _ type tag payload hr
  rw [h] at hr
  cases hr
  exact ⟨hm, iff_of_false (by simp [hk]) (hn _ _ _)⟩

theorem RequestCode.powerOn (cause : PowerCause) (straps : BitVec 2) : RequestCode.Statement (.powerOn cause straps) := RequestCode.of_event rfl

theorem RequestCode.frameReceived (bytes : List Byte) : RequestCode.Statement (.frameReceived bytes) := RequestCode.of_event rfl

theorem RequestCode.linkBreak (spaceMs : Nat) : RequestCode.Statement (.linkBreak spaceMs) := RequestCode.of_event rfl

theorem RequestCode.messageBegin : RequestCode.Statement .messageBegin := RequestCode.of_event rfl

theorem RequestCode.messageEnd : RequestCode.Statement .messageEnd := RequestCode.of_event rfl

theorem RequestCode.recordNoticeBegin : RequestCode.Statement .recordNoticeBegin := RequestCode.of_event rfl

theorem RequestCode.recordNoticeEnd : RequestCode.Statement .recordNoticeEnd := RequestCode.of_event rfl

theorem RequestCode.unknownRequest (type : Byte) (tag : Tag) (payload : List Byte) :
    RequestCode.Statement (.unknownRequest type tag payload) := by
  intro hw ty t p hr
  cases hr
  simp only [Instr.wellFormed, Bool.and_eq_true] at hw
  exact ⟨hw.1, iff_of_true hw.2 rfl⟩

theorem RequestCode.linkEcho (tag : Tag) (payload : List Byte) : RequestCode.Statement (.linkEcho tag payload) :=
  RequestCode.of_known rfl (by decide) (by decide) (by simp)

theorem RequestCode.statusRead (tag : Tag) (payload : List Byte) : RequestCode.Statement (.statusRead tag payload) :=
  RequestCode.of_known rfl (by decide) (by decide) (by simp)

theorem RequestCode.noticeEnable (tag : Tag) (payload : List Byte) : RequestCode.Statement (.noticeEnable tag payload) :=
  RequestCode.of_known rfl (by decide) (by decide) (by simp)

theorem RequestCode.deviceRestart (tag : Tag) (payload : List Byte) : RequestCode.Statement (.deviceRestart tag payload) :=
  RequestCode.of_known rfl (by decide) (by decide) (by simp)

theorem RequestCode.circuitBlockPlain (tag : Tag) (payload : List Byte) : RequestCode.Statement (.circuitBlockPlain tag payload) :=
  RequestCode.of_known rfl (by decide) (by decide) (by simp)

theorem RequestCode.circuitBlockDrain (tag : Tag) (payload : List Byte) : RequestCode.Statement (.circuitBlockDrain tag payload) :=
  RequestCode.of_known rfl (by decide) (by decide) (by simp)

theorem RequestCode.circuitBlockForced (tag : Tag) (payload : List Byte) : RequestCode.Statement (.circuitBlockForced tag payload) :=
  RequestCode.of_known rfl (by decide) (by decide) (by simp)

theorem RequestCode.circuitUnblock (tag : Tag) (payload : List Byte) : RequestCode.Statement (.circuitUnblock tag payload) :=
  RequestCode.of_known rfl (by decide) (by decide) (by simp)

theorem RequestCode.remoteBlock (tag : Tag) (payload : List Byte) : RequestCode.Statement (.remoteBlock tag payload) :=
  RequestCode.of_known rfl (by decide) (by decide) (by simp)

theorem RequestCode.remoteUnblock (tag : Tag) (payload : List Byte) : RequestCode.Statement (.remoteUnblock tag payload) :=
  RequestCode.of_known rfl (by decide) (by decide) (by simp)

theorem RequestCode.incomingSeize (tag : Tag) (payload : List Byte) : RequestCode.Statement (.incomingSeize tag payload) :=
  RequestCode.of_known rfl (by decide) (by decide) (by simp)

theorem RequestCode.incomingRelease (tag : Tag) (payload : List Byte) : RequestCode.Statement (.incomingRelease tag payload) :=
  RequestCode.of_known rfl (by decide) (by decide) (by simp)

theorem RequestCode.circuitAudit (tag : Tag) (payload : List Byte) : RequestCode.Statement (.circuitAudit tag payload) :=
  RequestCode.of_known rfl (by decide) (by decide) (by simp)

theorem RequestCode.spanReport (tag : Tag) (payload : List Byte) : RequestCode.Statement (.spanReport tag payload) :=
  RequestCode.of_known rfl (by decide) (by decide) (by simp)

theorem RequestCode.groupDefine (tag : Tag) (payload : List Byte) : RequestCode.Statement (.groupDefine tag payload) :=
  RequestCode.of_known rfl (by decide) (by decide) (by simp)

theorem RequestCode.groupChange (tag : Tag) (payload : List Byte) : RequestCode.Statement (.groupChange tag payload) :=
  RequestCode.of_known rfl (by decide) (by decide) (by simp)

theorem RequestCode.groupMembers (tag : Tag) (payload : List Byte) : RequestCode.Statement (.groupMembers tag payload) :=
  RequestCode.of_known rfl (by decide) (by decide) (by simp)

theorem RequestCode.groupDelete (tag : Tag) (payload : List Byte) : RequestCode.Statement (.groupDelete tag payload) :=
  RequestCode.of_known rfl (by decide) (by decide) (by simp)

theorem RequestCode.groupRead (tag : Tag) (payload : List Byte) : RequestCode.Statement (.groupRead tag payload) :=
  RequestCode.of_known rfl (by decide) (by decide) (by simp)

theorem RequestCode.prefixWrite (tag : Tag) (payload : List Byte) : RequestCode.Statement (.prefixWrite tag payload) :=
  RequestCode.of_known rfl (by decide) (by decide) (by simp)

theorem RequestCode.prefixDelete (tag : Tag) (payload : List Byte) : RequestCode.Statement (.prefixDelete tag payload) :=
  RequestCode.of_known rfl (by decide) (by decide) (by simp)

theorem RequestCode.prefixLookup (tag : Tag) (payload : List Byte) : RequestCode.Statement (.prefixLookup tag payload) :=
  RequestCode.of_known rfl (by decide) (by decide) (by simp)

theorem RequestCode.planWrite (tag : Tag) (payload : List Byte) : RequestCode.Statement (.planWrite tag payload) :=
  RequestCode.of_known rfl (by decide) (by decide) (by simp)

theorem RequestCode.planDelete (tag : Tag) (payload : List Byte) : RequestCode.Statement (.planDelete tag payload) :=
  RequestCode.of_known rfl (by decide) (by decide) (by simp)

theorem RequestCode.planRead (tag : Tag) (payload : List Byte) : RequestCode.Statement (.planRead tag payload) :=
  RequestCode.of_known rfl (by decide) (by decide) (by simp)

theorem RequestCode.callSetup (tag : Tag) (payload : List Byte) : RequestCode.Statement (.callSetup tag payload) :=
  RequestCode.of_known rfl (by decide) (by decide) (by simp)

theorem RequestCode.callRetry (tag : Tag) (payload : List Byte) : RequestCode.Statement (.callRetry tag payload) :=
  RequestCode.of_known rfl (by decide) (by decide) (by simp)

theorem RequestCode.callAnswer (tag : Tag) (payload : List Byte) : RequestCode.Statement (.callAnswer tag payload) :=
  RequestCode.of_known rfl (by decide) (by decide) (by simp)

theorem RequestCode.callRelease (tag : Tag) (payload : List Byte) : RequestCode.Statement (.callRelease tag payload) :=
  RequestCode.of_known rfl (by decide) (by decide) (by simp)

theorem RequestCode.callRead (tag : Tag) (payload : List Byte) : RequestCode.Statement (.callRead tag payload) :=
  RequestCode.of_known rfl (by decide) (by decide) (by simp)

theorem RequestCode.groupReport (tag : Tag) (payload : List Byte) : RequestCode.Statement (.groupReport tag payload) :=
  RequestCode.of_known rfl (by decide) (by decide) (by simp)

theorem RequestCode.monitorSet (tag : Tag) (payload : List Byte) : RequestCode.Statement (.monitorSet tag payload) :=
  RequestCode.of_known rfl (by decide) (by decide) (by simp)

theorem RequestCode.monitorHold (tag : Tag) (payload : List Byte) : RequestCode.Statement (.monitorHold tag payload) :=
  RequestCode.of_known rfl (by decide) (by decide) (by simp)

theorem RequestCode.monitorResume (tag : Tag) (payload : List Byte) : RequestCode.Statement (.monitorResume tag payload) :=
  RequestCode.of_known rfl (by decide) (by decide) (by simp)

theorem RequestCode.monitorRead (tag : Tag) (payload : List Byte) : RequestCode.Statement (.monitorRead tag payload) :=
  RequestCode.of_known rfl (by decide) (by decide) (by simp)

theorem RequestCode.guardSet (tag : Tag) (payload : List Byte) : RequestCode.Statement (.guardSet tag payload) :=
  RequestCode.of_known rfl (by decide) (by decide) (by simp)

theorem RequestCode.guardParameters (tag : Tag) (payload : List Byte) : RequestCode.Statement (.guardParameters tag payload) :=
  RequestCode.of_known rfl (by decide) (by decide) (by simp)

theorem RequestCode.guardRead (tag : Tag) (payload : List Byte) : RequestCode.Statement (.guardRead tag payload) :=
  RequestCode.of_known rfl (by decide) (by decide) (by simp)

theorem RequestCode.clockSet (tag : Tag) (payload : List Byte) : RequestCode.Statement (.clockSet tag payload) :=
  RequestCode.of_known rfl (by decide) (by decide) (by simp)

theorem RequestCode.clockRead (tag : Tag) (payload : List Byte) : RequestCode.Statement (.clockRead tag payload) :=
  RequestCode.of_known rfl (by decide) (by decide) (by simp)

theorem RequestCode.bandMapWrite (tag : Tag) (payload : List Byte) : RequestCode.Statement (.bandMapWrite tag payload) :=
  RequestCode.of_known rfl (by decide) (by decide) (by simp)

theorem RequestCode.bandMapRead (tag : Tag) (payload : List Byte) : RequestCode.Statement (.bandMapRead tag payload) :=
  RequestCode.of_known rfl (by decide) (by decide) (by simp)

theorem RequestCode.tariffWrite (tag : Tag) (payload : List Byte) : RequestCode.Statement (.tariffWrite tag payload) :=
  RequestCode.of_known rfl (by decide) (by decide) (by simp)

theorem RequestCode.tariffCancel (tag : Tag) (payload : List Byte) : RequestCode.Statement (.tariffCancel tag payload) :=
  RequestCode.of_known rfl (by decide) (by decide) (by simp)

theorem RequestCode.tariffDelete (tag : Tag) (payload : List Byte) : RequestCode.Statement (.tariffDelete tag payload) :=
  RequestCode.of_known rfl (by decide) (by decide) (by simp)

theorem RequestCode.tariffRead (tag : Tag) (payload : List Byte) : RequestCode.Statement (.tariffRead tag payload) :=
  RequestCode.of_known rfl (by decide) (by decide) (by simp)

theorem RequestCode.carrierWrite (tag : Tag) (payload : List Byte) : RequestCode.Statement (.carrierWrite tag payload) :=
  RequestCode.of_known rfl (by decide) (by decide) (by simp)

theorem RequestCode.carrierDelete (tag : Tag) (payload : List Byte) : RequestCode.Statement (.carrierDelete tag payload) :=
  RequestCode.of_known rfl (by decide) (by decide) (by simp)

theorem RequestCode.carrierReport (tag : Tag) (payload : List Byte) : RequestCode.Statement (.carrierReport tag payload) :=
  RequestCode.of_known rfl (by decide) (by decide) (by simp)

theorem RequestCode.periodLength (tag : Tag) (payload : List Byte) : RequestCode.Statement (.periodLength tag payload) :=
  RequestCode.of_known rfl (by decide) (by decide) (by simp)

theorem RequestCode.periodClose (tag : Tag) (payload : List Byte) : RequestCode.Statement (.periodClose tag payload) :=
  RequestCode.of_known rfl (by decide) (by decide) (by simp)

theorem RequestCode.periodReport (tag : Tag) (payload : List Byte) : RequestCode.Statement (.periodReport tag payload) :=
  RequestCode.of_known rfl (by decide) (by decide) (by simp)

theorem RequestCode.recordFetch (tag : Tag) (payload : List Byte) : RequestCode.Statement (.recordFetch tag payload) :=
  RequestCode.of_known rfl (by decide) (by decide) (by simp)

theorem RequestCode.queueThresholds (tag : Tag) (payload : List Byte) : RequestCode.Statement (.queueThresholds tag payload) :=
  RequestCode.of_known rfl (by decide) (by decide) (by simp)

theorem RequestCode.drainMode (tag : Tag) (payload : List Byte) : RequestCode.Statement (.drainMode tag payload) :=
  RequestCode.of_known rfl (by decide) (by decide) (by simp)

theorem RequestCode.queueRead (tag : Tag) (payload : List Byte) : RequestCode.Statement (.queueRead tag payload) :=
  RequestCode.of_known rfl (by decide) (by decide) (by simp)

theorem RequestCode.oneSecondAdvance : RequestCode.Statement .oneSecondAdvance := RequestCode.of_event rfl

theorem RequestCode.pendingTariffSwitch : RequestCode.Statement .pendingTariffSwitch := RequestCode.of_event rfl

theorem RequestCode.periodBoundary : RequestCode.Statement .periodBoundary := RequestCode.of_event rfl

theorem RequestCode.increment (handle : Nat) : RequestCode.Statement (.increment handle) := RequestCode.of_event rfl

theorem RequestCode.sweepVisit : RequestCode.Statement .sweepVisit := RequestCode.of_event rfl

theorem RequestCode.sampleInstant : RequestCode.Statement .sampleInstant := RequestCode.of_event rfl

theorem RequestCode.lineReturnsToMark : RequestCode.Statement .lineReturnsToMark := RequestCode.of_event rfl

theorem RequestCode.resetPinReturnsHigh : RequestCode.Statement .resetPinReturnsHigh := RequestCode.of_event rfl

end Sys2Proof.Laws
end

