-- ==== Sys2Proof/Laws/Settlement.lean ====
section
/-! SUPPORT. What the shared operations of rating, accounts and settlement do: each lemma says once all that an
operation writes, with its frame. -/

namespace Sys2Proof.Machine

open Sys2Proof

variable (s : State)

/-! ### Thresholds and records -/

/-- A reported condition touches the link alone. -/
theorem State.reportQueue_frame (c : QueueCondition) (cause : QueueCause) :
    ∃ l, s.reportQueue c cause = { s with link := l } := by
  unfold State.reportQueue
  cases s.enabled .queue <;> exact ⟨_, rfl⟩

/-- An evaluation writes the two held flags and may report, and nothing else (R174). -/
theorem State.evaluateThresholds_spec (cause : QueueCause) :
    ∃ l, s.evaluateThresholds cause = { s with
      records := { s.records with
        almostEmpty := s.records.emptyHolds, almostFull := s.records.fullHolds }
      link := l } := by
  unfold State.evaluateThresholds
  cases h1 : s.records.emptyHolds && !s.records.almostEmpty <;>
    cases h2 : s.records.fullHolds && !s.records.almostFull <;>
      simp only [h1, h2, if_true, if_false, Bool.false_eq_true]
  · exact ⟨s.link, rfl⟩
  · exact State.reportQueue_frame _ _ _
  · exact State.reportQueue_frame _ _ _
  · obtain ⟨l, hl⟩ := State.reportQueue_frame { s with records := { s.records with
      almostEmpty := s.records.emptyHolds, almostFull := s.records.fullHolds } } .almostEmpty cause
    obtain ⟨l', hl'⟩ := State.reportQueue_frame (State.reportQueue { s with records := { s.records with
      almostEmpty := s.records.emptyHolds, almostFull := s.records.fullHolds } } .almostEmpty cause) .almostFull cause
    exact ⟨l', by rw [hl', hl]⟩

/-- An evaluation leaves the held flags equal to their conditions (R174). -/
theorem RecordQueue.Sound.evaluate (cause : QueueCause) (hl : s.records.queue.length ≤ 2048)
    (ha : s.records.ae ≤ 2047) (hf : s.records.af ≤ 2047) : (s.evaluateThresholds cause).records.Sound := by
  obtain ⟨l, h⟩ := s.evaluateThresholds_spec cause
  rw [h]
  exact ⟨hl, ha, hf, rfl, rfl⟩

/-- A record handed to the queue: appended and evaluated, or dropped (R173). -/
theorem State.writeRecord_spec (r : Record) :
    (s.records.queue.length < 2048 ∧ ∃ l, s.writeRecord r = { s.modifyAccountOf r (fun a => a.addRecorded r.charge) with
      records := { s.records with
        queue := s.records.queue ++ [r]
        almostEmpty := decide (s.records.queue.length + 1 ≤ s.records.ae)
        almostFull := decide (2048 - s.records.af ≤ s.records.queue.length + 1) }
      link := l }) ∨
    (2048 ≤ s.records.queue.length ∧ s.writeRecord r = { s.modifyAccountOf r (fun a => a.addOverflow r.charge) with
      records := { s.records with dropped := satAdd max32 s.records.dropped 1 }
      link := (s.setFlag .overflow).link }) := by
  unfold State.writeRecord State.recordCount queueCapacity
  by_cases h : s.records.queue.length < 2048
  · refine .inl ⟨h, ?_⟩
    rw [if_pos h]
    obtain ⟨l, hl⟩ := State.evaluateThresholds_spec (State.modifyAccountOf { s with records := { s.records with
      queue := s.records.queue ++ [r] } } r fun a => a.addRecorded r.charge) .count
    refine ⟨l, ?_⟩
    rw [hl]
    simp [State.modifyAccountOf, State.modifyCarrier, RecordQueue.emptyHolds, RecordQueue.fullHolds, queueCapacity]
  · refine .inr ⟨by omega, ?_⟩
    rw [if_neg h]
    rfl

/-- A record handed to the queue keeps it sound. -/
theorem RecordQueue.Sound.writeRecord (h : s.records.Sound) (r : Record) : (s.writeRecord r).records.Sound := by
  rcases s.writeRecord_spec r with ⟨hl, l, he⟩ | ⟨-, he⟩
  · rw [he]
    refine ⟨?_, h.2.1, h.2.2.1, ?_, ?_⟩
    · simp only [List.length_append, List.length_singleton]; omega
    · simp only [List.length_append, List.length_singleton]
    · simp only [List.length_append, List.length_singleton]
  · rw [he]; exact h

/-! ### Carriers -/

/-- The evaluation of a defined carrier's cap: the held indication, and a report of its passage to true (R155). -/
theorem State.evaluateCap_spec {c : Nat} {k : Carrier} (h : Table.find s.carriers c = some k) (cause : CapCause) :
    ∃ l, s.evaluateCap c cause =
      { s.modifyCarrier c (fun k => { k with capReached := k.capHolds }) with link := l } := by
  unfold State.evaluateCap
  rw [h]
  cases hc : k.capHolds && !k.capReached
  · exact ⟨s.link, by simp [hc, State.modifyCarrier]⟩
  · cases ho : s.enabled .capped && k.cappedNotice
    · exact ⟨_, by simp only [hc, ho, if_true]; rfl⟩
    · exact ⟨_, by simp only [hc, ho, if_true]; rfl⟩

/-- The evaluation of an undefined carrier's cap does nothing. -/
theorem State.evaluateCap_of_none {c : Nat} (h : Table.find s.carriers c = none) (cause : CapCause) :
    s.evaluateCap c cause = s := by simp [State.evaluateCap, h]

/-- An evaluation touches the carriers and the link alone. -/
theorem State.evaluateCap_frame (c : Nat) (cause : CapCause) :
    ∃ ks l, s.evaluateCap c cause = { s with carriers := ks, link := l } := by
  cases h : Table.find s.carriers c with
  | none => exact ⟨s.carriers, s.link, s.evaluateCap_of_none h cause⟩
  | some k =>
    obtain ⟨l, hl⟩ := s.evaluateCap_spec h cause
    exact ⟨_, l, by rw [hl]; rfl⟩

/-- A charge added to a carrier: no field for 0 SU, else the accumulator, the saturated indication and the cap
(R155). -/
theorem State.addToCarrier_spec {c : Nat} {k : Carrier} (h : Table.find s.carriers c = some k) {x : Nat}
    (hx : x ≠ 0) :
    ∃ l, s.addToCarrier c x = { s.modifyCarrier c (fun k =>
        { k with account := k.account.addCharge x
                 capReached := decide (k.cap ≠ 0 ∧ k.cap ≤ (k.account.addCharge x).accumulator) }) with link := l } := by
  unfold State.addToCarrier
  rw [if_neg hx]
  obtain ⟨l, hl⟩ := State.evaluateCap_spec (s.modifyCarrier c fun k => { k with account := k.account.addCharge x })
    (c := c) (by rw [State.find_modifyCarrier, if_pos rfl, h]; rfl) .addition
  refine ⟨l, ?_⟩
  rw [hl]
  simp only [State.modifyCarrier, Table.modify_modify]
  rfl

@[simp] theorem State.addToCarrier_zero (c : Nat) : s.addToCarrier c 0 = s := rfl

/-- The accumulator after SU are added, as the statements say it (R155). -/
theorem Account.addCharge_accumulator (k : Carrier) (x : Nat) :
    (k.account.addCharge x).accumulator = k.accumulated x := by
  simp only [Account.addCharge, satAdd, Carrier.accumulated]; split <;> omega

/-- A charge that reaches the cap is told as the statements say it (R155). -/
theorem State.addToCarrier_told {c : Nat} {k : Carrier} (h : Table.find s.carriers c = some k) (x : Nat) :
    (s.addToCarrier c x).link = (s.cappedTold s c k x).link := by
  unfold State.addToCarrier State.cappedTold
  by_cases hx : x = 0
  · subst hx; simp [Carrier.reachedBy]
  · have hf : Table.find (s.modifyCarrier c fun k => { k with account := k.account.addCharge x }).carriers c =
        some { k with account := k.account.addCharge x } := by
      rw [State.modifyCarrier, Table.find_modify_self, h]; rfl
    simp only [hx, if_false, State.evaluateCap, hf, Carrier.capHolds, Carrier.reachedBy,
      Account.addCharge_accumulator, Bool.and_eq_true, Bool.not_eq_true']
    split
    · unfold State.raiseIf
      change (if (s.enabled .capped && k.cappedNotice) = true then _ else _ : State).link = _
      split <;> rfl
    · rfl

/-- A charge touches the carriers and the link alone. -/
theorem State.addToCarrier_frame (c x : Nat) : ∃ ks l, s.addToCarrier c x = { s with carriers := ks, link := l } := by
  unfold State.addToCarrier
  split
  · exact ⟨s.carriers, s.link, rfl⟩
  · obtain ⟨ks, l, h⟩ := State.evaluateCap_frame
      (s.modifyCarrier c fun k => { k with account := k.account.addCharge x }) c .addition
    exact ⟨ks, l, by rw [h]; rfl⟩

/-- A charge leaves every other carrier alone. -/
theorem State.addToCarrier_other {c k : Nat} (x : Nat) (h : k ≠ c) :
    Table.find (s.addToCarrier c x).carriers k = Table.find s.carriers k := by
  unfold State.addToCarrier
  split
  · rfl
  · cases hc : Table.find s.carriers c with
    | none =>
      rw [State.evaluateCap_of_none _ (by rw [State.find_modifyCarrier, if_pos rfl, hc]; rfl),
        State.find_modifyCarrier, if_neg h]
    | some v =>
      obtain ⟨l, hl⟩ := State.evaluateCap_spec (s.modifyCarrier c fun k => { k with account := k.account.addCharge x })
        (c := c) (by rw [State.find_modifyCarrier, if_pos rfl, hc]; rfl) .addition
      rw [hl]
      simp [h]

/-! ### Rating -/

/-- Charges to a rating context saturate (R139). -/
theorem Rating.addCharge_spec (r : Rating) (w : Nat) :
    (r.addCharge w).charge = min (r.charge + w) max32 ∧
    (r.addCharge w).totalCharge = min (r.totalCharge + (min (r.charge + w) max32 - r.charge)) max32 ∧
    r.suAdded w = min (r.charge + w) max32 - r.charge ∧ (r.addCharge w).residue = r.residue ∧
    (r.addCharge w).billed = r.billed ∧ (r.addCharge w).totalBilled = r.totalBilled := by
  simp [Rating.addCharge, Rating.suAdded, satAdd_eq_min]

/-- Below the bound a charge is added whole. -/
theorem Rating.addCharge_below (r : Rating) (w : Nat) (h1 : r.charge + w < max32) (h2 : r.totalCharge + w < max32) :
    r.addCharge w = { r with charge := r.charge + w, totalCharge := r.totalCharge + w } ∧ r.suAdded w = w := by
  have hs : r.suAdded w = w := by unfold Rating.suAdded; rw [satAdd_eq_min]; omega
  refine ⟨?_, hs⟩
  unfold Rating.addCharge
  rw [hs, satAdd_eq_min, satAdd_eq_min, Nat.min_eq_left (by omega), Nat.min_eq_left (by omega)]
  have a1 : (r.charge + w == max32) = false := by simp; omega
  have a2 : (r.totalCharge + w == max32) = false := by simp; omega
  simp [a1, a2]

/-- Below the bound seconds are billed whole. -/
theorem Rating.addBilled_below (r : Rating) (t : Nat) (h1 : r.billed + t < max32) (h2 : r.totalBilled + t < max32) :
    r.addBilled t = { r with billed := r.billed + t, totalBilled := r.totalBilled + t } := by
  unfold Rating.addBilled
  rw [satAdd_eq_min, satAdd_eq_min, Nat.min_eq_left (by omega), Nat.min_eq_left (by omega)]
  have a1 : (r.billed + t == max32) = false := by simp; omega
  have a2 : (r.totalBilled + t == max32) = false := by simp; omega
  simp [a1, a2]

/-- Charges and billed seconds keep a rating context sound. -/
theorem Rating.Sound.addCharge {r : Rating} (h : r.Sound) (w : Nat) : (r.addCharge w).Sound :=
  ⟨h.1, satAdd_le _ _ _, h.2.2.1, satAdd_le _ _ _, h.2.2.2.2⟩

theorem Rating.Sound.addBilled {r : Rating} (h : r.Sound) (t : Nat) : (r.addBilled t).Sound :=
  ⟨h.1, h.2.1, satAdd_le _ _ _, h.2.2.2.1, satAdd_le _ _ _⟩

/-- The amount of a step is its whole SU and its residue (R138). -/
theorem wholeSU_residueOf (amount : Nat) : 3840 * wholeSU amount + residueOf amount = amount :=
  Nat.div_add_mod amount 3840

theorem residueOf_lt (amount : Nat) : residueOf amount < 3840 := Nat.mod_lt _ (by decide)

/-- A charge to a call: its rating context, and its carrier (R139). -/
theorem State.chargeCall_spec (h carrier : Nat) (r : Rating) (w : Nat) :
    (∀ m, (s.chargeCall h carrier r w).call m =
      if m = h then (s.call h).map fun c => { c with rating := some (r.addCharge w) } else s.call m) ∧
    (∀ k, k ≠ carrier → Table.find (s.chargeCall h carrier r w).carriers k = Table.find s.carriers k) ∧
    ∃ cs ks l, s.chargeCall h carrier r w = { s with calls := cs, carriers := ks, link := l } := by
  obtain ⟨ks, l, hf⟩ := State.addToCarrier_frame (s.setRating h (r.addCharge w)) carrier (r.suAdded w)
  refine ⟨fun m => ?_, fun k hk => ?_, ?_⟩
  · rw [State.chargeCall, hf, ← s.call_setRating]; rfl
  · rw [State.chargeCall, State.addToCarrier_other _ _ hk]; rfl
  · exact ⟨_, ks, l, by rw [State.chargeCall, hf]; rfl⟩

/-- A rating step (R138, R139). -/
theorem State.ratingStep_spec (h carrier : Nat) (r : Rating) (rate t : Nat) :
    let amount := rate * r.factor * t + r.residue
    let after := ({ r with residue := amount % 3840 }.addBilled t).addCharge (amount / 3840)
    (∀ m, (s.ratingStep h carrier r rate t).call m =
      if m = h then (s.call h).map fun c => { c with rating := some after } else s.call m) ∧
    (∀ k, k ≠ carrier → Table.find (s.ratingStep h carrier r rate t).carriers k = Table.find s.carriers k) ∧
    ∃ cs ks l, s.ratingStep h carrier r rate t = { s with calls := cs, carriers := ks, link := l } :=
  s.chargeCall_spec h carrier _ _

/-- A catch-up: a PARTIAL record where something is owed, the mark in the current period, one call fewer to wait
for, and the count of the sweep (R143, R163). -/
theorem State.catchUp_eq (h : Nat) (c : Call) (r : Rating) (byTouch : Bool) :
    s.catchUp h c r byTouch =
      (((if r.owesPartial then s.writeRecord (c.record h r none) else s).setRating h
        (r.caughtUp s.periods.number)).modifyCarrier c.carrier fun k =>
          { k with snapshot := { k.snapshot with pendingCalls := k.snapshot.pendingCalls - 1 } }).countCatchUp
            byTouch := rfl

/-- A rating context in the current period needs no catch-up (R142). -/
theorem State.freshen_of_current {r : Rating} (h : Nat) (c : Call) (hr : r.mark = s.periods.number) :
    s.freshen h c r = (s, r) := by
  simp [State.freshen, State.stale, hr]

/-! ### Closing a call -/

/-- A call that is not rated closes without a charge and without a record (R67, R68). -/
theorem State.ratingClose_unrated {c : Call} (hc : c.answeredAt = none ∨ c.rating = none) (h : Nat)
    (cause : CloseCause) : s.ratingClose h c cause = (s, { records := 0, finalCharge := none }) := by
  unfold State.ratingClose
  rcases hc with hc | hc <;> rw [hc]
  cases c.answeredAt <;> rfl

/-- The closing actions of a call that is not rated (R67). -/
theorem State.closeCall_unrated {c : Call} (hc : c.answeredAt = none ∨ c.rating = none) (h : Nat)
    (cause : CloseCause) (holds : Bool) :
    s.closeCall h c cause holds =
      (let fewer := (if holds then s.makeIdle c.circuit else s).closeCallOn c.carrier
       { fewer with calls := Table.erase fewer.calls h }, { records := 0, finalCharge := none }) := by
  unfold State.closeCall
  rw [s.ratingClose_unrated hc]

/-- A closed call's context is FREE (R67). -/
theorem State.closeCall_free (h : Nat) (c : Call) (cause : CloseCause) (holds : Bool) :
    (s.closeCall h c cause holds).1.call h = none := Table.find_erase_self _ _

end Sys2Proof.Machine
end

