-- ==== Sys2Proof/Laws/Periods.lean ====
section
/-! SUPPORT. What the longer operations touch: the period close, the sweep, the catch-up, the closes of calls, and
the device restart's closes. Each frame names every table that can change; all others stand. -/

namespace Sys2Proof.Machine

open Sys2Proof

variable (s : State)

/-- A record touches the carriers, the record queue and the link. -/
theorem State.writeRecord_frame (r : Record) :
    ∃ ks q l, s.writeRecord r = { s with carriers := ks, records := q, link := l } := by
  rcases s.writeRecord_spec r with ⟨-, l, h⟩ | ⟨-, h⟩
  · exact ⟨_, _, l, by rw [h]; rfl⟩
  · exact ⟨_, _, _, by rw [h]; rfl⟩

/-- A catch-up touches the calls, the carriers, the record queue, the link and the sweep's counts (R143). -/
theorem State.catchUp_frame (h : Nat) (c : Call) (r : Rating) (byTouch : Bool) :
    ∃ cs ks q l sw, s.catchUp h c r byTouch =
      { s with calls := cs, carriers := ks, records := q, link := l, periods := { s.periods with sweep := sw } } := by
  rw [s.catchUp_eq]
  cases r.owesPartial
  · exact ⟨_, _, s.records, s.link, _, rfl⟩
  · obtain ⟨ks, q, l, hw⟩ := s.writeRecord_frame (c.record h r none)
    rw [if_pos rfl, hw]
    exact ⟨_, _, q, l, _, rfl⟩

/-- Bringing a rating context into the current period touches what a catch-up touches (R142, R144). -/
theorem State.freshen_frame (h : Nat) (c : Call) (r : Rating) :
    ∃ cs ks q l sw, (s.freshen h c r).1 =
      { s with calls := cs, carriers := ks, records := q, link := l, periods := { s.periods with sweep := sw } } := by
  unfold State.freshen
  cases s.stale r
  · exact ⟨s.calls, s.carriers, s.records, s.link, s.periods.sweep, rfl⟩
  · exact s.catchUp_frame h c r true

/-- An increment touches what a catch-up touches (R142). -/
theorem State.incrementCall_frame (h : Nat) (c : Call) (r : Rating) :
    ∃ cs ks q l sw, s.incrementCall h c r =
      { s with calls := cs, carriers := ks, records := q, link := l, periods := { s.periods with sweep := sw } } := by
  obtain ⟨cs, ks, q, l, sw, hf⟩ := s.freshen_frame h c r
  unfold State.incrementCall
  rcases hp : s.freshen h c r with ⟨t, r'⟩
  rw [hp] at hf
  simp only at hf ⊢
  obtain ⟨-, -, cs', ks', l', hs⟩ := t.ratingStep_spec h c.carrier
    { r' with nextDue := wrap32 (r'.nextDue + (t.activeVersion r'.tariff).incr) }
    ((s.activeVersion r'.tariff).rate s.band) (s.activeVersion r'.tariff).incr
  subst hf
  exact ⟨cs', ks', q, l', sw, by
    have := hs
    simp only at this ⊢
    exact this⟩

/-- A release close touches what a catch-up touches (R144). -/
theorem State.releaseClose_frame (h : Nat) (c : Call) (r : Rating) (cause : CloseCause) :
    ∃ cs ks q l sw, (s.releaseClose h c r cause).1 =
      { s with calls := cs, carriers := ks, records := q, link := l, periods := { s.periods with sweep := sw } } := by
  obtain ⟨cs, ks, q, l, sw, hf⟩ := s.freshen_frame h c r
  unfold State.releaseClose
  rcases hp : s.freshen h c r with ⟨t, r'⟩
  rw [hp] at hf
  simp only at hf ⊢
  obtain ⟨-, -, cs', ks', l', hc⟩ := t.chargeCall_spec h c.carrier { r' with residue := 0 } (roundingSU r'.residue)
  rw [hc]
  subst hf
  obtain ⟨ks'', q'', l'', hw⟩ := State.writeRecord_frame
    { s with calls := cs', carriers := ks', records := q, link := l', periods := { s.periods with sweep := sw } }
    (c.record h (Rating.addCharge { r' with residue := 0 } (roundingSU r'.residue))
      (some { heldSeconds := s.secondsSince (c.answeredAt.getD 0), cause := cause }))
  exact ⟨cs', ks'', q'', l'', sw, hw⟩

/-- The closing actions touch the calls, the circuits, the spans, the groups, the carriers, the record queue, the
link and the sweep's counts (R67). -/
theorem State.closeCall_frame (h : Nat) (c : Call) (cause : CloseCause) (holds : Bool) :
    ∃ ci sp gs cs ks q l sw, (s.closeCall h c cause holds).1 =
      { s with circuits := ci, spans := sp, groups := gs, calls := cs, carriers := ks, records := q, link := l,
               periods := { s.periods with sweep := sw } } := by
  have hr : ∃ cs ks q l sw, (s.ratingClose h c cause).1 =
      { s with calls := cs, carriers := ks, records := q, link := l, periods := { s.periods with sweep := sw } } := by
    unfold State.ratingClose
    cases c.answeredAt with
    | none => exact ⟨s.calls, s.carriers, s.records, s.link, s.periods.sweep, rfl⟩
    | some a =>
      cases c.rating with
      | none => exact ⟨s.calls, s.carriers, s.records, s.link, s.periods.sweep, rfl⟩
      | some r => exact s.releaseClose_frame h c r cause
  obtain ⟨cs, ks, q, l, sw, hr⟩ := hr
  unfold State.closeCall
  rcases hp : s.ratingClose h c cause with ⟨t, report⟩
  rw [hp] at hr
  simp only at hr ⊢
  cases holds
  · subst hr
    exact ⟨s.circuits, s.spans, s.groups, _, _, q, l, sw, rfl⟩
  · obtain ⟨ci, gs, sp, hi⟩ := (t.makeIdle_spec c.circuit).2.2.2
    rw [if_pos rfl, hi]
    subst hr
    exact ⟨ci, sp, gs, _, _, q, l, sw, rfl⟩

/-- The start of a period close: the accounts and snapshots of every carrier but carrier 0, the period fields, and
the SNAPSHOT_LOST flag (R159). -/
theorem State.closeStart_frame (cause : PeriodCause) :
    (s.closeStart cause).carriers = s.carriers.map (fun e =>
      if e.1 = 0 then e else (e.1, e.2.closePeriod (s.ratedOnCarrier e.1))) ∧
    (s.closeStart cause).periods.number = wrap32 (s.periods.number + 1) ∧
    (s.closeStart cause).periods.closed = some s.periods.number ∧
    (s.closeStart cause).periods.length = s.periods.length ∧
    (s.closeStart cause).periods.deferred = s.periods.deferred ∧
    ∃ ks ps l, s.closeStart cause = { s with carriers := ks, periods := ps, link := l } := by
  unfold State.closeStart
  by_cases h : s.unreadSnapshots = 0
  · simp only [h, if_true]
    exact ⟨by trivial, by trivial, by trivial, by trivial, by trivial, _, _, s.link, rfl⟩
  · simp only [h, if_false]
    exact ⟨by trivial, by trivial, by trivial, by trivial, by trivial, _, _, _, rfl⟩

/-- The end of a sweep touches the carriers, the period fields and the link (R164). -/
theorem State.endSweep_frame (sw : Sweep) :
    ∃ ks ps l, s.endSweep sw = { s with carriers := ks, periods := ps, link := l } := by
  unfold State.endSweep
  cases s.enabled .period <;> cases s.periods.deferred
  · exact ⟨_, _, _, rfl⟩
  · obtain ⟨-, -, -, -, -, ks, ps, l, h⟩ := State.closeStart_frame
      { s with
        carriers := Table.mapAll s.carriers fun k => { k with snapshot := { k.snapshot with complete := true } }
        periods := { s.periods with sweep := none, deferred := false }
        link := (s.setFlag .period).link } .boundary
    exact ⟨ks, ps, l, h⟩
  · exact ⟨_, _, _, rfl⟩
  · obtain ⟨-, -, -, -, -, ks, ps, l, h⟩ := State.closeStart_frame
      { s with
        carriers := Table.mapAll s.carriers fun k => { k with snapshot := { k.snapshot with complete := true } }
        periods := { s.periods with sweep := none, deferred := false }
        link := ((s.setFlag .period).raise codePeriod (.noticePeriod (s.periods.closed.getD 0) s.periods.number
          sw.cause sw.bySweep sw.byTouch sw.snapshotsLost s.time.seconds s.clock)).link } .boundary
    exact ⟨ks, ps, l, h⟩

/-- A visit of the sweep touches the calls, the carriers, the record queue, the link and the period fields (R162). -/
theorem State.sweepVisit_frame :
    ∃ cs ks q l ps, s.sweepVisit =
      { s with calls := cs, carriers := ks, records := q, link := l, periods := ps } := by
  unfold State.sweepVisit
  cases hs : s.periods.sweep with
  | none => exact ⟨s.calls, s.carriers, s.records, s.link, s.periods, rfl⟩
  | some sw =>
    have hv : ∃ cs ks q l ps, s.visitCall sw.nextHandle =
        { s with calls := cs, carriers := ks, records := q, link := l, periods := ps } := by
      unfold State.visitCall
      cases hc : s.call sw.nextHandle with
      | none => exact ⟨s.calls, s.carriers, s.records, s.link, s.periods, rfl⟩
      | some c =>
        cases hr : c.rating with
        | none => exact ⟨s.calls, s.carriers, s.records, s.link, s.periods, by simp [hr]⟩
        | some r =>
          by_cases hm : s.periods.closed = some r.mark
          · obtain ⟨cs, ks, q, l, w, hf⟩ := s.catchUp_frame sw.nextHandle c r false
            exact ⟨cs, ks, q, l, { s.periods with sweep := w }, by simp [hr, hm, hf]⟩
          · exact ⟨s.calls, s.carriers, s.records, s.link, s.periods, by simp [hr, hm]⟩
    obtain ⟨cs, ks, q, l, ps, hv⟩ := hv
    simp only [hv]
    split
    · obtain ⟨ks', ps', l', he⟩ := State.endSweep_frame
        { s with calls := cs, carriers := ks, records := q, link := l, periods := ps }
        { (ps.sweep.getD sw) with
          nextHandle := sw.nextHandle + 1, visitBeforeRequest := false, visitBeforeAdvance := false }
      exact ⟨cs, ks', q, l', ps', he⟩
    · exact ⟨cs, ks, q, l, _, rfl⟩

end Sys2Proof.Machine
end

