-- ==== Sys2Proof/Laws/Requests.lean ====
section
/-! SUPPORT. What a command that is a request does: taken at once it is replied, and the reply stands before the
messages it raises (R185); not taken, it waits or is overloaded. -/

namespace Sys2Proof.Machine

open Sys2Proof

variable {s : State} {type : Byte} {tag : Tag} {payload : List Byte}

/-! ### A request taken at once -/

/-- The request of a whole payload (R184). -/
theorem Request.ofPayload_whole (h : payload.length ≤ 4096) :
    Request.ofPayload type tag payload = { type := type, tag := tag, payload := payload, overlong := false } := by
  simp [Request.ofPayload, List.take_of_length_le h, Nat.not_lt.mpr h]

/-- A request that arrives at an empty queue stands there alone (R185). -/
theorem State.arrive_of_empty (h : s.link.requests = []) (r : Request) :
    s.arrive r = { s with link := { s.link with requests := [r] } } := by
  simp [State.arrive, h, requestCapacity]

/-- The state a taken request is carried out in: it has left the queue, and its messages are collected apart. -/
theorem State.serveWith_of_takesNow (h : s.takesNow type tag payload) (take : State → Request → State) :
    s.serveWith (Request.ofPayload type tag payload) take =
      take s.dropHeadRequest (Request.ofPayload type tag payload) := by
  obtain ⟨hr, -, hs, hv, hq⟩ := h
  have hc : s.canTake = true := by simp [State.canTake, hs, hv]
  unfold State.serveWith
  rcases hq with hq | ⟨hq, hb⟩
  · simp [hr, hq, hc]
  · have hc' : State.canTake { s with link := { s.link with requests := [Request.ofPayload type tag payload] } }
        = true := hc
    rw [State.arrive_of_empty hq, if_neg (by simp [hr]), if_neg (by simp [hq]), if_neg (by simp [hb]),
      if_pos ⟨rfl, hc'⟩]
    simp [State.dropHeadRequest, hq]

/-- A request taken at once: it leaves the queue, is carried out with its messages apart, and its reply goes before
them (R185). -/
theorem State.serve_of_takesNow (h : s.takesNow type tag payload) (run : List Byte → State → Body × State) :
    s.serve type tag payload run =
      ((run payload s.dropHeadRequest.withoutMessages).2.sendFirst (s.link.sendList ++
        [{ code := (type &&& 0x3F).toNat, tag := tag,
           body := (run payload s.dropHeadRequest.withoutMessages).1 }])).oweVisitToRequests := by
  rw [State.serve, State.serveWith_of_takesNow h, Request.ofPayload_whole h.2.1]
  rfl

/-- A request that replies and does nothing more. -/
theorem State.serve_reply (h : s.takesNow type tag payload) {run : List Byte → State → Body × State} {body : Body}
    (hr : run payload s.dropHeadRequest.withoutMessages = (body, s.dropHeadRequest.withoutMessages)) :
    s.serve type tag payload run = s.answer (type &&& 0x3F).toNat tag body := by
  rw [State.serve_of_takesNow h, hr]
  simp [State.sendFirst, State.oweVisitToRequests, State.answer, State.dropHeadRequest, State.withoutMessages]

/-- A request whose operands are refused replies the result and does nothing more (00 section 4.6). -/
theorem State.serve_refused {α : Type} (h : s.takesNow type tag payload) {parse : List Byte → Except Result α}
    {r : Result} (hp : parse payload = .error r) (f : State → α → Body × State) :
    s.serve type tag payload (fun p s => withOperands (parse p) s (f s)) =
      s.answer (type &&& 0x3F).toNat tag (.result r) :=
  State.serve_reply h (by simp [withOperands, hp, refuse])

/-- A request whose operands read is its effect on them. -/
theorem State.serve_operands {α : Type} (h : s.takesNow type tag payload) {parse : List Byte → Except Result α}
    {a : α} (hp : parse payload = .ok a) (f : State → α → Body × State) :
    s.serve type tag payload (fun p s => withOperands (parse p) s (f s)) =
      s.serve type tag payload (fun _ s => f s a) := by
  rw [State.serve_of_takesNow h, State.serve_of_takesNow h]
  simp [withOperands, hp]

/-- A state that has replied, and raised messages after the reply: the answer, with the messages after it. -/
theorem State.sendFirst_answer (t : State) (hl : t.link.requests = s.link.requests.tail) (m : List Message) :
    (t.sendFirst m).link.sendList = m ++ t.link.sendList ∧ (t.sendFirst m).link.requests = s.link.requests.tail :=
  ⟨rfl, hl⟩

/-! ### What the reads of a taken request see -/

@[simp] theorem State.circuit_start (n : Nat) : s.dropHeadRequest.withoutMessages.circuit n = s.circuit n := rfl
@[simp] theorem State.span_start (n : Nat) : s.dropHeadRequest.withoutMessages.span n = s.span n := rfl
@[simp] theorem State.group_start (g : Nat) : s.dropHeadRequest.withoutMessages.group g = s.group g := rfl
@[simp] theorem State.call_start (h : Nat) : s.dropHeadRequest.withoutMessages.call h = s.call h := rfl
@[simp] theorem State.plan_start (p : Nat) : s.dropHeadRequest.withoutMessages.plan p = s.plan p := rfl

@[simp] theorem State.available_start (n : Nat) :
    s.dropHeadRequest.withoutMessages.available n = s.available n := rfl

@[simp] theorem State.enabled_start (c : NoticeClass) :
    s.dropHeadRequest.withoutMessages.enabled c = s.enabled c := rfl

@[simp] theorem State.start_sendList : s.dropHeadRequest.withoutMessages.link.sendList = [] := rfl

/-! ### A request not taken -/

/-- While RESET_N is low a request changes nothing (R193). -/
theorem State.serveWith_of_resetLow (h : s.resetLow = true) (r : Request) (take : State → Request → State) :
    s.serveWith r take = s := by simp [State.serveWith, h]

/-- The head request waits while it may not be taken (R185, R162). -/
theorem State.serveWith_waits {r : Request} (hq : s.link.requests.head? = some r) (hc : s.canTake = false)
    (take : State → Request → State) : s.serveWith r take = s := by
  unfold State.serveWith; split
  · rfl
  · simp [hc]

/-- A request that arrives and is not taken at once is appended or overloaded (R185). -/
theorem State.serveWith_arrives {r : Request} (hr : s.resetLow = false) (hb : s.link.lineBroken = false)
    (hq : s.link.requests.head? ≠ some r) (hn : (s.arrive r).link.requests.head? ≠ some r ∨
      (s.arrive r).canTake = false) (take : State → Request → State) : s.serveWith r take = s.arrive r := by
  unfold State.serveWith
  simp only [hr, hb, hq, if_false, Bool.false_eq_true]
  rcases hn with hn | hn <;> simp [hn]

/-- Everything an arrival can do (R185). -/
theorem State.arrive_spec (r : Request) :
    (s.link.requests.length < 64 ∧ s.arrive r = { s with link := { s.link with
      requests := s.link.requests ++ [r] } }) ∨
    (64 ≤ s.link.requests.length ∧ s.arrive r =
      if s.link.sendList.length < 64 then (s.setFlag .requestOverload).send
        { code := (r.type &&& 0x3F).toNat, tag := r.tag, body := .result .overload }
      else s.setFlag .requestOverload) := by
  unfold State.arrive requestCapacity
  by_cases h : s.link.requests.length < 64
  · exact .inl ⟨h, by simp [h]⟩
  · exact .inr ⟨by omega, by simp [h]⟩

/-- An arrival keeps the request queue sound (R184, R185). -/
theorem Link.Sound.arrive (h : s.link.Sound) {r : Request} (hr : r.payload.length ≤ 4096) :
    (s.arrive r).link.Sound := by
  rcases s.arrive_spec r with ⟨hl, he⟩ | ⟨-, he⟩
  · rw [he]
    refine ⟨?_, ?_, h.2.2⟩
    · simp only [List.length_append, List.length_singleton]; omega
    · intro x hx
      rcases List.mem_append.mp hx with hx | hx
      · exact h.2.1 x hx
      · rw [List.mem_singleton.mp hx]; exact hr
  · rw [he]; split <;> exact h

end Sys2Proof.Machine
end

