-- ==== Sys2Proof/Laws/Routing.lean ====
section
/-! SUPPORT. What hunting, the lookup and the evaluation pass do. -/

namespace Sys2Proof.Machine

open Sys2Proof

variable (s : State)

/-! ### Hunting -/

/-- The reversed bits of k-bit numbers are k-bit numbers (R35). -/
theorem reverseBits_lt (k : Nat) : ∀ i, reverseBits k i < 2 ^ k := by
  induction k with
  | zero => intro i; simp [reverseBits]
  | succ k ih =>
    intro i
    have := ih (i / 2)
    have hm := Nat.mod_lt i (by decide : 0 < 2)
    simp only [reverseBits, Nat.pow_succ]
    rcases Nat.lt_or_ge (i % 2) 1 with h | h
    · have : i % 2 = 0 := by omega
      simp [this]; omega
    · have : i % 2 = 1 := by omega
      simp [this]; omega

/-- Every k-bit number is the reverse of a k-bit number (R35). -/
theorem reverseBits_surj (k : Nat) : ∀ p, p < 2 ^ k → ∃ i, i < 2 ^ k ∧ reverseBits k i = p := by
  induction k with
  | zero => intro p hp; exact ⟨0, by simp, by simp [reverseBits]; omega⟩
  | succ k ih =>
    intro p hp
    rw [Nat.pow_succ] at hp
    rcases Nat.lt_or_ge p (2 ^ k) with h | h
    · obtain ⟨i, hi, he⟩ := ih p h
      exact ⟨2 * i, by rw [Nat.pow_succ]; omega, by simp [reverseBits, he]⟩
    · obtain ⟨i, hi, he⟩ := ih (p - 2 ^ k) (by omega)
      refine ⟨2 * i + 1, by rw [Nat.pow_succ]; omega, ?_⟩
      have h1 : (2 * i + 1) % 2 = 1 := by omega
      have h2 : (2 * i + 1) / 2 = i := by omega
      simp only [reverseBits, h1, h2, he]; omega

/-- The bits of SPREAD are enough for a group of up to 512 members (R35). -/
theorem le_two_pow_spreadBits {size : Nat} (h : size ≤ 512) : size ≤ 2 ^ spreadBits size := by
  unfold spreadBits
  cases hf : (List.range 10).find? fun k => decide (size ≤ 2 ^ k) with
  | none => simpa using h
  | some k => simpa using List.find?_some hf

/-- Every hunt order visits every member position and no other (R33 to R35). -/
theorem mem_huntOrder {mode : HuntMode} {size rotary p : Nat} (h : size ≤ 512) :
    p ∈ huntOrder mode size rotary ↔ p < size := by
  cases mode with
  | lowFirst => simp [huntOrder]
  | highFirst => simp [huntOrder]
  | rotary =>
    simp only [huntOrder, List.mem_map, List.mem_range]
    constructor
    · rintro ⟨i, hi, rfl⟩; exact Nat.mod_lt _ (by omega)
    · intro hp
      have hpos : 0 < size := by omega
      have hr := Nat.mod_lt (rotary + 1) hpos
      refine ⟨(p + (size - (rotary + 1) % size)) % size, Nat.mod_lt _ hpos, ?_⟩
      rw [Nat.add_mod, Nat.mod_mod, ← Nat.add_mod]
      have he : rotary + 1 + (p + (size - (rotary + 1) % size)) =
          p + size * ((rotary + 1) / size + 1) := by
        have := Nat.div_add_mod (rotary + 1) size
        rw [Nat.mul_add, Nat.mul_one]; omega
      rw [he, Nat.add_mul_mod_self_left, Nat.mod_eq_of_lt hp]
  | spread =>
    simp only [huntOrder, spreadOrder, List.mem_filter, List.mem_map, List.mem_range, decide_eq_true_eq]
    constructor
    · exact fun h => h.2
    · intro hp
      obtain ⟨i, hi, he⟩ := reverseBits_surj (spreadBits size) p
        (Nat.lt_of_lt_of_le hp (le_two_pow_spreadBits h))
      exact ⟨⟨i, hi, he⟩, hp⟩

/-- The seizure of a hunt is the first available member in its order; an overflow has its reason (R32). -/
theorem State.huntOutcome_spec (grp : Group) (cls : CallClass) (role : Role) :
    (s.availableCount grp = 0 ∧ s.huntOutcome grp cls role = .overflow .noneIdle) ∨
    (s.availableCount grp ≠ 0 ∧ s.reservationFails grp cls role = true ∧
      s.huntOutcome grp cls role = .overflow .reserved) ∨
    (s.availableCount grp ≠ 0 ∧ s.reservationFails grp cls role = false ∧
      s.huntOutcome grp cls role =
        match ((huntOrder grp.defn.huntMode grp.members.length grp.rotary).filterMap fun p =>
          grp.members[p]?.map fun n => (n, p)).find? fun e => s.available e.1 with
        | some (n, p) => .seized n p
        | none => .overflow .noneIdle) := by
  unfold State.huntOutcome
  by_cases h : s.availableCount grp = 0
  · exact .inl ⟨h, if_pos h⟩
  · rw [if_neg h]
    cases hr : s.reservationFails grp cls role
    · exact .inr (.inr ⟨h, rfl, rfl⟩)
    · exact .inr (.inl ⟨h, rfl, rfl⟩)

/-- A seizure is of an available member, at its position in the member list (R32). -/
theorem State.huntOutcome_seized {grp : Group} {cls : CallClass} {role : Role} {n p : Nat}
    (h : s.huntOutcome grp cls role = .seized n p) : s.available n = true ∧ grp.members[p]? = some n := by
  rcases s.huntOutcome_spec grp cls role with ⟨-, he⟩ | ⟨-, -, he⟩ | ⟨-, -, he⟩
  · rw [he] at h; cases h
  · rw [he] at h; cases h
  · rw [he] at h
    split at h
    · rename_i m q hf
      cases h
      refine ⟨List.find?_some (p := fun e : Nat × Nat => s.available e.1) hf, ?_⟩
      obtain ⟨x, -, hx⟩ := List.mem_filterMap.mp (List.mem_of_find?_eq_some hf)
      cases hm : grp.members[x]? with
      | none => rw [hm] at hx; cases hx
      | some y => rw [hm] at hx; cases hx; exact hm
    · cases h

/-- Everything a hunt can do (R32, R36, R38). -/
theorem State.hunt_spec (g : Nat) (cls : CallClass) (role : Role) (h : Nat) :
    (∃ n p, s.huntOutcome (s.group g) cls role = .seized n p ∧ s.hunt g cls role h =
      (.seized n p, (s.modifyGroup g fun grp => grp.afterSeizure p).setUsage n (.outgoing h))) ∨
    (∃ v, s.huntOutcome (s.group g) cls role = .overflow v ∧ s.hunt g cls role h =
      (.overflow v, s.modifyGroup g Group.afterOverflow)) := by
  unfold State.hunt
  cases he : s.huntOutcome (s.group g) cls role with
  | seized n p => exact .inl ⟨n, p, rfl, rfl⟩
  | overflow v => exact .inr ⟨v, rfl, rfl⟩

/-- A hunt touches the circuits and the groups alone. -/
theorem State.hunt_frame (g : Nat) (cls : CallClass) (role : Role) (h : Nat) :
    ∃ cs gs, (s.hunt g cls role h).2 = { s with circuits := cs, groups := gs } := by
  rcases s.hunt_spec g cls role h with ⟨n, p, -, he⟩ | ⟨v, -, he⟩ <;> rw [he]
  · exact (s.modifyGroup g fun grp => grp.afterSeizure p).setUsage_frame n (.outgoing h)
  · exact ⟨s.circuits, _, rfl⟩

/-! ### The lookup -/

/-- The longer of two entries, where the second may be absent. -/
theorem longerEntry_spec (e : PrefixEntry) (o : Option PrefixEntry) :
    (longerEntry e o = e ∨ o = some (longerEntry e o)) ∧ e.digits.length ≤ (longerEntry e o).digits.length ∧
      ∀ f, o = some f → f.digits.length ≤ (longerEntry e o).digits.length := by
  cases o with
  | none => exact ⟨.inl rfl, Nat.le_refl _, by simp⟩
  | some f =>
    by_cases h : f.digits.length < e.digits.length
    · have he : longerEntry e (some f) = e := if_pos h
      rw [he]
      exact ⟨.inl rfl, Nat.le_refl _, by rintro _ ⟨⟩; exact Nat.le_of_lt h⟩
    · have he : longerEntry e (some f) = f := if_neg h
      rw [he]
      exact ⟨.inr rfl, Nat.le_of_not_lt h, by rintro _ ⟨⟩; exact Nat.le_refl _⟩

/-- The entry selected is in the table, begins the destination, and none that begins it is longer (R44). -/
theorem longestMatch_some {ps : List PrefixEntry} {dest : List Nat} :
    ∀ {e}, longestMatch ps dest = some e → e ∈ ps ∧ e.digits <+: dest ∧
      ∀ f ∈ ps, f.digits <+: dest → f.digits.length ≤ e.digits.length := by
  induction ps with
  | nil => intro e h; cases h
  | cons p ps ih =>
    intro e h
    unfold longestMatch at h
    by_cases hp : p.digits.isPrefixOf dest = true
    · rw [if_pos hp] at h
      cases h
      obtain ⟨h1, h2, h3⟩ := longerEntry_spec p (longestMatch ps dest)
      rw [List.isPrefixOf_iff_prefix] at hp
      refine ⟨?_, ?_, ?_⟩
      · rcases h1 with h1 | h1
        · rw [h1]; exact List.mem_cons_self ..
        · exact List.mem_cons_of_mem _ (ih h1).1
      · rcases h1 with h1 | h1
        · rw [h1]; exact hp
        · exact (ih h1).2.1
      · intro f hf hd
        rcases List.mem_cons.mp hf with rfl | hf
        · exact h2
        · cases hl : longestMatch ps dest with
          | none =>
            rcases h1 with h1 | h1
            · exfalso
              revert hl
              have : ∀ {qs : List PrefixEntry}, f ∈ qs → longestMatch qs dest ≠ none := by
                intro qs hq
                induction qs with
                | nil => cases hq
                | cons q qs ihq =>
                  unfold longestMatch
                  split
                  · simp
                  · rename_i hn
                    rcases List.mem_cons.mp hq with rfl | hq
                    · exact absurd (List.isPrefixOf_iff_prefix.mpr hd) hn
                    · exact ihq hq
              exact this hf
            · rw [hl] at h1; cases h1
          | some x =>
            exact Nat.le_trans ((ih hl).2.2 f hf hd) (by rw [← hl]; exact h3 x hl)
    · rw [if_neg hp] at h
      obtain ⟨a, b, c⟩ := ih h
      refine ⟨List.mem_cons_of_mem _ a, b, fun f hf hd => ?_⟩
      rcases List.mem_cons.mp hf with rfl | hf
      · exact absurd (List.isPrefixOf_iff_prefix.mpr hd) hp
      · exact c f hf hd

/-! ### The evaluation pass -/

/-- The checks on a group that passes them (R78 to R82). -/
theorem State.groupCheck_none {cls : CallClass} {ceiling : Option Nat} {g : Nat} {role : Role}
    (h : s.groupCheck cls ceiling g role = none) :
    (s.group g).defn.kind ≠ .inward ∧ (s.group g).defn.admin = .inService ∧
    (s.carrier (s.group g).defn.carrier).admin ≠ .suspended ∧
    (cls = .ordinary → (s.carrier (s.group g).defn.carrier).capReached = false) ∧
    (cls = .ordinary → role = .alternate → (s.group g).level ≠ .congested) ∧
    (∀ limit, ceiling = some limit → s.quote g ≤ limit) := by
  unfold State.groupCheck at h
  by_cases h1 : (s.group g).defn.kind = .inward ∨ (s.group g).defn.admin = .outOfService
  · rw [if_pos h1] at h; cases h
  rw [if_neg h1] at h
  by_cases h2 : (s.carrier (s.group g).defn.carrier).admin = .suspended ∨
      (cls = .ordinary ∧ (s.carrier (s.group g).defn.carrier).capReached)
  · rw [if_pos h2] at h; cases h
  rw [if_neg h2] at h
  by_cases h3 : cls = .ordinary ∧ role = .alternate ∧ (s.group g).level = .congested
  · rw [if_pos h3] at h; cases h
  rw [if_neg h3] at h
  rw [not_or] at h1 h2
  refine ⟨h1.1, ?_, h2.1, fun hc => ?_, fun hc hr hl => h3 ⟨hc, hr, hl⟩, fun limit hl => ?_⟩
  · cases ha : (s.group g).defn.admin with
    | inService => rfl
    | outOfService => exact absurd ha h1.2
  · have := h2.2
    simp only [not_and] at this
    exact Bool.eq_false_iff.mpr (this hc)
  · subst hl
    by_contra hn
    simp [Nat.lt_of_not_le hn] at h

/-- What every check sees is kept by the hunts of a pass: the carriers, the guard, the tariffs and the clock. -/
theorem State.moveSticky_frame (i : PassInput) (c : Candidate) (seized : Bool) :
    ∃ ps, s.moveSticky i c seized = { s with plans := ps } := by
  unfold State.moveSticky
  split
  · exact ⟨_, rfl⟩
  · exact ⟨s.plans, rfl⟩

/-- An evaluation pass touches the circuits, the groups and the plans alone. -/
theorem passFrom_frame (i : PassInput) (cs : List Candidate) : ∀ (s : State) (tried : List Nat)
    (trace : List (Nat × Verdict)), ∃ c g p,
      (passFrom i cs s tried trace).state = { s with circuits := c, groups := g, plans := p } := by
  induction cs with
  | nil => intro s tried trace; exact ⟨s.circuits, s.groups, s.plans, rfl⟩
  | cons x cs ih =>
    intro s tried trace
    unfold passFrom
    cases s.check i tried x with
    | some v =>
      simp only
      split
      · exact ⟨s.circuits, s.groups, s.plans, rfl⟩
      · exact ih _ _ _
    | none =>
      simp only
      obtain ⟨c, g, hf⟩ := s.hunt_frame x.group i.cls x.role (s.huntHandle i)
      rcases hh : s.hunt x.group i.cls x.role (s.huntHandle i) with ⟨o, after⟩
      rw [hh] at hf
      cases o with
      | seized n p =>
        obtain ⟨ps, hm⟩ := after.moveSticky_frame i x true
        refine ⟨c, g, ps, ?_⟩
        simp only at hf ⊢
        rw [hm, hf]
      | overflow v =>
        obtain ⟨ps, hm⟩ := after.moveSticky_frame i x false
        simp only at hf ⊢
        split
        · refine ⟨c, g, ps, ?_⟩
          simp only
          rw [hm, hf]
        · obtain ⟨c', g', p', h'⟩ := ih (after.moveSticky i x false) (addTried tried x.group)
            (trace ++ [(x.group, v)])
          refine ⟨c', g', p', ?_⟩
          rw [h', hm, hf]

theorem State.pass_frame (i : PassInput) (tried : List Nat) :
    ∃ c g p, (s.pass i tried).state = { s with circuits := c, groups := g, plans := p } := by
  unfold State.pass
  split
  · exact ⟨s.circuits, s.groups, s.plans, rfl⟩
  · exact passFrom_frame i _ s tried []

end Sys2Proof.Machine
end

