-- ==== Sys2Proof/Laws/Wire.lean ====
section
/-! SUPPORT. Numbers on the wire read back what was written; the operands of a request that reads are in their
ranges. -/

namespace Sys2Proof.Machine

open Sys2Proof

/-! ### Numbers -/

@[simp] theorem be_length (n v : Nat) : (be n v).length = n := by
  induction n with
  | zero => rfl
  | succ n ih => simp [be, ih]

theorem bytesToNat_append (a : List Byte) : ∀ b, bytesToNat (a ++ b) = bytesToNat a * 256 ^ b.length + bytesToNat b := by
  intro b
  induction b using List.reverseRecOn with
  | nil => simp [bytesToNat]
  | append_singleton b x ih =>
    rw [← List.append_assoc]
    simp only [bytesToNat, List.foldl_append, List.foldl_cons, List.foldl_nil] at ih ⊢
    rw [ih, List.length_append, List.length_singleton, Nat.pow_succ]
    ring

/-- A number written in n bytes reads back modulo 256^n (R194). -/
theorem bytesToNat_be (n v : Nat) : bytesToNat (be n v) = v % 256 ^ n := by
  induction n with
  | zero => simp [be, bytesToNat, Nat.mod_one]
  | succ n ih =>
    have hc : be (n + 1) v = [BitVec.ofNat 8 (v / 256 ^ n)] ++ be n v := rfl
    rw [hc, bytesToNat_append, ih, be_length]
    have h1 : bytesToNat [BitVec.ofNat 8 (v / 256 ^ n)] = v / 256 ^ n % 256 := by simp [bytesToNat]
    rw [h1, Nat.pow_succ, Nat.mod_mul, Nat.add_comm, Nat.mul_comm]

/-- Reading back a number that fits its bytes (R194). -/
theorem readNum_be {n v : Nat} (h : v < 256 ^ n) (rest : List Byte) : readNum n (be n v ++ rest) = some (v, rest) := by
  unfold readNum
  have hl : ¬(be n v ++ rest).length < n := by simp
  rw [if_neg hl, List.take_left' (be_length n v), List.drop_left' (be_length n v), bytesToNat_be,
    Nat.mod_eq_of_lt h]

/-- A reading of one number ends where the payload ends. -/
theorem readNum_be_end {n v : Nat} (h : v < 256 ^ n) : readNum n (be n v) = some (v, []) := by
  have := readNum_be h []
  rwa [List.append_nil] at this

/-- Two 16-bit numbers read back (R106, R175). -/
theorem parseTwo_be {a b : Nat} (ha : a < 65536) (hb : b < 65536) : parseTwo (be 2 a ++ be 2 b) = .ok (a, b) := by
  unfold parseTwo
  rw [readNum_be (n := 2) (by simpa using ha)]
  simp only [Option.bind_eq_bind, Option.bind_some]
  rw [readNum_be_end (n := 2) (by simpa using hb)]
  rfl

/-- One 16-bit number reads back (R158, R176). -/
theorem parseOne_be {a : Nat} (ha : a < 65536) : parseOne (be 2 a) = .ok a := by
  unfold parseOne
  rw [readNum_be_end (n := 2) (by simpa using ha)]
  rfl

/-! ### Operands in range -/

theorem named_ok {α : Type} {o : Option α} {a : α} (h : named o = .ok a) : o = some a := by
  cases o with
  | none => cases h
  | some b => cases h; rfl

theorem valid_ok {b : Bool} {u : Unit} (h : valid b = .ok u) : b = true := by
  cases b with
  | false => cases h
  | true => rfl

theorem whole_ok {α : Type} {r : Option (α × List Byte)} {a : α} (h : whole r = .ok a) : r = some (a, []) := by
  unfold whole at h
  split at h
  · cases h; rfl
  · cases h

/-- A check that a parser passes before it goes on. -/
theorem valid_bind_ok {α : Type} {b : Bool} {f : Unit → Except Result α} {a : α}
    (h : (valid b >>= f) = .ok a) : b = true ∧ f () = .ok a := by
  cases b with
  | false => cases h
  | true => exact ⟨rfl, h⟩

theorem named_bind_ok {α β : Type} {o : Option β} {f : β → Except Result α} {a : α}
    (h : (named o >>= f) = .ok a) : ∃ b, o = some b ∧ f b = .ok a := by
  cases o with
  | none => cases h
  | some b => exact ⟨b, rfl, h⟩

theorem whole_bind_ok {α β : Type} {r : Option (β × List Byte)} {f : β → Except Result α} {a : α}
    (h : (whole r >>= f) = .ok a) : ∃ b, r = some (b, []) ∧ f b = .ok a := by
  unfold whole at h
  split at h
  · exact ⟨_, rfl, h⟩
  · cases h

/-- A circuit number that reads is 0 to 8,191. -/
theorem parseCircuit_ok {p : List Byte} {n : Nat} (h : parseCircuit p = .ok n) : n ≤ 8191 := by
  obtain ⟨m, -, h⟩ := whole_bind_ok h
  obtain ⟨hv, h⟩ := valid_bind_ok h
  cases h; simpa using hv

/-- An audit that reads stays within its span (R19). -/
theorem parseAudit_ok {p : List Byte} {span first : Nat} {views : List FarView}
    (h : parseAudit p = .ok (span, first, views)) : span ≤ 255 ∧ first ≤ 31 := by
  obtain ⟨⟨sp, fi, co, vs⟩, -, h⟩ := whole_bind_ok h
  obtain ⟨hv, h⟩ := valid_bind_ok h
  obtain ⟨-, h⟩ := valid_bind_ok h
  obtain ⟨w, -, h⟩ := named_bind_ok h
  cases h
  have := of_decide_eq_true hv
  exact ⟨this.1, this.2.1⟩

/-- A clock that reads is in range (R126). -/
theorem parseClockSet_ok {p : List Byte} {i : Instant} (h : parseClockSet p = .ok i) :
    i.time ≤ 86399 ∧ i.day ≤ 65535 := by
  obtain ⟨⟨t, d⟩, -, h⟩ := whole_bind_ok h
  obtain ⟨hv, h⟩ := valid_bind_ok h
  cases h; exact of_decide_eq_true hv

/-- A band map that reads has bands 0 to 3 (R129). -/
theorem parseBandMap_ok {p : List Byte} {bands : List Nat} (h : parseBandMap p = .ok bands) : ∀ b ∈ bands, b ≤ 3 := by
  obtain ⟨bs, -, h⟩ := whole_bind_ok h
  obtain ⟨hv, h⟩ := valid_bind_ok h
  cases h
  intro b hb
  simpa using List.all_eq_true.mp hv b hb

/-- The guard's thresholds that read are in range (R119). -/
theorem parseGuardParameters_ok {p : List Byte} {g q d : Nat} (h : parseGuardParameters p = .ok (g, q, d)) :
    g ≤ 256 ∧ q ≤ 64 := by
  obtain ⟨⟨a, b, c⟩, -, h⟩ := whole_bind_ok h
  obtain ⟨hv, h⟩ := valid_bind_ok h
  cases h; exact of_decide_eq_true hv

/-- Operands are read or refused, and a refusal changes nothing. -/
theorem withOperands_state {α : Type} {e : Except Result α} {s : State} {f : α → Body × State} {P : State → Prop}
    (hs : P s) (hf : ∀ a, e = .ok a → P (f a).2) : P (withOperands e s f).2 := by
  cases e with
  | error r => exact hs
  | ok a => exact hf a rfl

/-! ### The receiver -/

/-- Bytes set and an assembly set touch the link alone. -/
theorem State.frameError_frame (s : State) : ∃ l, s.frameError = { s with link := l } := ⟨_, rfl⟩

/-- With no start byte there is nothing to judge, and nothing is kept (R184). -/
theorem seekFrame_of_no_start {bs : List Byte} (h : ∀ b ∈ bs, b ≠ startByte) : seekFrame bs = .waiting [] := by
  induction bs with
  | nil => rfl
  | cons b bs ih =>
    simp only [seekFrame, h b (List.mem_cons_self ..), if_false]
    exact ih fun x hx => h x (List.mem_cons_of_mem _ hx)

/-- A frame that the transmitter of either end makes is judged good (R183, R184). -/
theorem judgeFrame_frame {type : Byte} {more : Bool} {tag : Tag} {payload : List Byte}
    (h : payload.length ≤ 1024) (rest : List Byte) :
    seekFrame (frame type more tag payload ++ rest) =
      .good (frameType type more :: be 2 tag.toNat ++ payload) rest := by
  have hlen : 3 + payload.length < 256 ^ 2 := by norm_num; omega
  have hb : be 2 (3 + payload.length) =
      [BitVec.ofNat 8 ((3 + payload.length) / 256), BitVec.ofNat 8 (3 + payload.length)] := by
    simp [be]
  have hr := bytesToNat_be 2 (3 + payload.length)
  rw [Nat.mod_eq_of_lt hlen, hb] at hr
  have hc : (frameType type more :: be 2 tag.toNat ++ payload).length = 3 + payload.length := by
    simp only [List.cons_append, List.length_cons, List.length_append, be_length]; omega
  unfold frame frameCovered
  simp only [List.cons_append, List.append_assoc, seekFrame, if_true]
  rw [hb]
  simp only [List.cons_append, List.nil_append, judgeFrame]
  rw [hr]
  have hcrc : ∀ c : BitVec 16, bytesToNat (be 2 c.toNat) = c.toNat := by
    intro c; rw [bytesToNat_be, Nat.mod_eq_of_lt]; exact c.isLt
  rw [if_neg (by omega), if_neg (by simp; omega)]
  have ha : ∀ t : List Byte, frameType type more :: (be 2 tag.toNat ++ (payload ++ t)) =
      (frameType type more :: be 2 tag.toNat ++ payload) ++ t := by intro t; simp
  rw [ha, List.take_left' hc, List.drop_left' hc]
  rw [List.take_left' (be_length 2 _), hcrc]
  rw [if_pos (by simp)]
  congr 1
  rw [show 3 + payload.length + 2 = (3 + payload.length) + 2 from rfl, ← List.drop_drop, List.drop_left' hc,
    List.drop_left' (be_length 2 _)]

end Sys2Proof.Machine
end

