-- ==== Sys2Proof/Tests/Slice0.lean ====
section
/-! SUPPORT. The model's own tests: ill-formed terms refused, worked examples of the spec, one step of the commands,
and a concrete state and operands for the hypotheses of every statement. -/

namespace Sys2Proof.Tests

open Sys2Proof Sys2Proof.Machine

/-! ### A small exchange -/

/-- The tariff of the worked example of 09 section 9.7, with other factors for CLEAR and CONGESTED. -/
def version : Version :=
  { setup := 100, initial := 60, incr := 30, rate0 := 1250, rate1 := 800, rate2 := 600, rate3 := 400,
    factorClear := 64, factorBusy := 80, factorCongested := 96 }

def definition (carrier : Nat) (tariff : Option Nat) : GroupDefn :=
  { kind := .bothway, admin := .inService, carrier := carrier, tariff := tariff, huntMode := .lowFirst,
    glareControl := .even, reservation := 1, guardReservation := 2, tBusy := 1, tCong := 0, oCong := 4,
    levelNotice := true }

def trunk (g : Nat) (usage : Usage) : Circuit :=
  { group := some g, usage := usage, localBlock := false, remoteBlock := false }

def groupOf (d : GroupDefn) (members : List Nat) (busy : Nat) : Group :=
  { Group.fresh d members with busyCount := busy }

def carrierOf (openCalls : Nat) : Carrier :=
  { admin := .active, cap := 0, capReached := false, cappedNotice := true, openCalls := openCalls,
    account := Account.zero, snapshot := Snapshot.fresh }

/-- A state with two circuits in each of two groups, a foreign and a home one, a plan over both, and its tables. -/
def exchange (circuits : Table Circuit) (busy0 busy1 : Nat) (calls : Table Call) : State :=
  { State.reset with
    circuits := circuits
    groups := [(0, groupOf (definition 1 (some 1)) [0, 1] busy0), (1, groupOf (definition 0 none) [32, 33] busy1)]
    prefixes := [{ digits := [4], plan := 9 }, { digits := [4, 4], plan := 0 }]
    plans := [(0, { entries := [⟨0, .first⟩, ⟨1, .alternate⟩], ceiling := none, sticky := some 0 })]
    tariffs := [(1, { active := version, staged := none })]
    carriers := [(0, Carrier.home), (1, carrierOf calls.length)]
    calls := calls }

def idleCircuits : Table Circuit :=
  [(0, trunk 0 .idle), (1, trunk 0 .idle), (32, trunk 1 .idle), (33, trunk 1 .idle)]

/-- Every circuit idle and no call. -/
def quiet : State := exchange idleCircuits 0 0 []

def seizedCall : Call :=
  { serial := 7, cls := .ordinary, incomingGroup := none, plan := 0, ceiling := none, tried := [0], group := 0,
    circuit := 0, role := .first, carrier := 1, quote := 1000, answeredAt := none, rating := none }

def homeCall : Call := { seizedCall with group := 1, circuit := 32, carrier := 0, quote := 0, tried := [1] }

def ratingNow : Rating :=
  { tariff := 1, factor := 64, residue := 1920, charge := 1000, billed := 60, totalCharge := 1000,
    totalBilled := 60, nextDue := 0, sequence := 0, mark := 0, answerDay := 0, answerTime := 0, saturated := false }

def ratedCall : Call := { seizedCall with answeredAt := some 0, rating := some ratingNow }

def busyCircuits : Table Circuit :=
  [(0, trunk 0 (.outgoing 0)), (1, trunk 0 .idle), (32, trunk 1 .idle), (33, trunk 1 .idle)]

def homeCircuits : Table Circuit :=
  [(0, trunk 0 .idle), (1, trunk 0 .idle), (32, trunk 1 (.outgoing 0)), (33, trunk 1 .idle)]

def incomingCircuits : Table Circuit :=
  [(0, trunk 0 .incoming), (1, trunk 0 .idle), (32, trunk 1 .idle), (33, trunk 1 .idle)]

/-- One call, SEIZED on circuit 0; one call, SEIZED on the home circuit 32; one rated call. -/
def seized : State := exchange busyCircuits 1 0 [(0, seizedCall)]
def seizedHome : State := exchange homeCircuits 0 1 [(0, homeCall)]
def rated : State := exchange busyCircuits 1 0 [(0, ratedCall)]
def incoming : State := exchange incomingCircuits 1 0 []

/-- The same states with an open drain watch on span 0. -/
def watched (s : State) (positions : List Nat) : State :=
  { s with spans := [(0, { watch := some { positions := positions, originTag := 501, merged := 1 },
                           lastAudit := none })] }

/-- The same states with `n` records queued. -/
def full (s : State) (n : Nat) : State :=
  { s with records := { RecordQueue.powerOn with queue := List.replicate n (ratedCall.record 0 ratingNow none) } }

theorem full_length (s : State) (n : Nat) : (full s n).records.queue.length = n := List.length_replicate

/-- A part that runs, with its link as power-on leaves it and no sweep in flight, takes a request at once. -/
theorem takes_at_once {s : State} {type : Byte} {tag : Tag} {p : List Byte} (hr : s.resetLow = false)
    (hl : s.link = Link.powerOn) (hs : s.periods.sweep = none) (hp : p.length ≤ 4096) :
    s.takesNow type tag p := by
  refine ⟨hr, hp, by rw [hl]; decide, by simp [State.visitOwedToRequests, hs], .inr ?_⟩
  rw [hl]; exact ⟨rfl, rfl⟩

/-- The queue's front is the request: the head of a full part, with 63 messages waiting to be sent. -/
def headWaiting (messages : Nat) : State :=
  { State.reset with link := { Link.powerOn with
      requests := [Request.ofPayload 0x00 1 []]
      sendList := List.replicate messages { code := 0, tag := 0, body := .result .ok } } }

/-! ### Ill-formed terms -/

theorem test_illFormed_plain : Instr.wellFormed (.circuitBlockPlain 1 [1, 0, 0, 2]) = false := by decide
theorem test_illFormed_drain : Instr.wellFormed (.circuitBlockDrain 1 [1, 0, 0, 3]) = false := by decide
theorem test_illFormed_forced : Instr.wellFormed (.circuitBlockForced 1 [1, 0, 0, 1]) = false := by decide
theorem test_illFormed_knownRequest : Instr.wellFormed (.unknownRequest 0x35 1 []) = false := by decide
theorem test_illFormed_bit6 : Instr.wellFormed (.unknownRequest 0x7F 1 []) = false := by decide
theorem test_illFormed_handle : Instr.wellFormed (.increment 8192) = false := by decide
theorem test_wellFormed_firstUnknown : Instr.wellFormed (.unknownRequest 0x36 1 []) = true := by decide

/-- An ill-formed term is refused as a command of another row (log 18). -/
theorem test_refused_otherRow :
    exec (.circuitBlockPlain 1 [1, 0, 0, 2]) State.reset = .refused .otherRow ∧
    exec (.unknownRequest 0x35 1 []) State.reset = .refused .otherRow := ⟨rfl, rfl⟩

/-! ### Worked examples and tables of the spec -/

/-- The check value of the CRC, R183. -/
theorem test_crc : crc [0x31, 0x32, 0x33, 0x34, 0x35, 0x36, 0x37, 0x38, 0x39] = 0x29B1 := by decide +kernel

/-- The search orders of SPREAD in R35's table. -/
theorem test_spreadOrder : spreadOrder 8 = [0, 4, 2, 6, 1, 5, 3, 7] ∧ spreadOrder 5 = [0, 4, 2, 1, 3] ∧
    spreadOrder 6 = [0, 4, 2, 1, 5, 3] := by decide

/-- The hunts of a group of size 6 with position 0 busy, in the table of 02 section 2.7: the first four of SPREAD. -/
theorem test_spreadHunts :
    (spreadOrder 6).filter (fun p => p != 0) = [4, 2, 1, 5, 3] := by decide

/-- The median of three classes (R100). -/
theorem test_median : History.median ⟨.clear, .busy, .congested⟩ = .busy ∧
    History.median ⟨.congested, .clear, .congested⟩ = .congested ∧
    History.median ⟨.clear, .congested, .clear⟩ = .clear := by decide

/-- The worked example of 09 section 9.7: the call at its answer, before each increment, and before its release. -/
def example97 (seconds timeOfDay : Nat) (r : Option Rating) : State :=
  { exchange busyCircuits 1 0 [(0, { seizedCall with answeredAt := r.map fun _ => 500000, rating := r })] with
    groups := [(0, { groupOf (definition 1 (some 1)) [0, 1] 1 with level := .busy })]
    time := { seconds := seconds, timeOfDay := timeOfDay, day := 12 }
    bandMap := List.replicate 38 0 ++ List.replicate 10 1
    periods := { Periods.powerOn with number := 3001 } }

def rating97 (residue charge billed nextDue : Nat) : Rating :=
  { tariff := 1, factor := 80, residue := residue, charge := charge, billed := billed, totalCharge := charge,
    totalBilled := billed, nextDue := nextDue, sequence := 0, mark := 3001, answerDay := 12, answerTime := 68310,
    saturated := false }

/-- The rating context of the call on handle 0 after a command. -/
def ratingAfter (i : Instr) (s : State) : Option Rating :=
  match exec i s with
  | .next t => t.rating 0
  | _ => none

/-- A property of the state after a command. -/
def after (i : Instr) (s : State) (p : State → Bool) : Bool :=
  match exec i s with
  | .next t => p t
  | _ => false

theorem test_example97_answer :
    ratingAfter (.callAnswer 1 [0, 0, 0]) (example97 500000 68310 none) = some (rating97 1920 1662 60 500060) := by
  decide

theorem test_example97_increment : ratingAfter (.increment 0)
    (example97 500060 68370 (some (rating97 1920 1662 60 500060))) = some (rating97 2880 2443 90 500090) := by decide

theorem test_example97_increment_band1 : ratingAfter (.increment 0)
    (example97 500090 68400 (some (rating97 2880 2443 90 500090))) = some (rating97 2880 2943 120 500120) := by decide

/-- The release rounds 2,880 up: a FINAL record of 2,944 SU, 120 s billed, 95 s held. -/
theorem test_example97_release : after (.callRelease 1 [0, 0, 1, 0])
    (example97 500095 68405 (some (rating97 2880 2943 120 500120))) (fun t => t.records.queue.map (fun r =>
      (r.charge, r.billed, r.final, r.period)) == [(2944, 120, some ⟨95, .normal⟩, 3001)]) = true := by decide

/-- The charge of the example's carrier after the release: accumulator and recorded agree only in what is charged
after the answer (R155, R156). -/
theorem test_example97_recorded : after (.callRelease 1 [0, 0, 1, 0])
    (example97 500095 68405 (some (rating97 2880 2943 120 500120))) (fun t => (t.carrier 1).account ==
      { Account.zero with accumulator := 1, recorded := 2944 }) = true := by decide

/-! ### One step of the commands -/

/-- The replies and notices a command sends from a state with an empty send list. -/
def sends (i : Instr) (s : State) (bodies : List Body) : Bool :=
  after i s fun t => t.link.sendList.map Message.body == bodies

theorem test_step_idles : step quiet = .next quiet := rfl

theorem test_blockPlain : after (.circuitBlockPlain 1 [2, 0, 0, 1]) quiet
    (fun t => (t.circuit 31).localBlock && !(t.circuit 32).localBlock) = true := by decide +kernel

theorem test_blockDrain_watch : sends (.circuitBlockDrain 501 [2, 0, 0, 2]) seized [.drainTaken false 1] = true := by
  decide +kernel

/-- A DRAIN that finds no busy circuit raises the flag, and DRAIN DONE only where the class is enabled (R7, R11). -/
theorem test_blockDrain_idle : after (.circuitBlockDrain 501 [1, 0, 0, 2])
    { quiet with link := { Link.powerOn with enables := 0x40 } } (fun t => t.flag .drain &&
      t.link.sendList.map Message.body == [.drainTaken false 0, .noticeDrainDone 0 501 1 .idle]) = true := by decide +kernel

theorem test_blockForced : sends (.circuitBlockForced 1 [1, 0, 0, 3]) seized
    [.forcedCleared 1 0, .noticeLost 0 7 none] = true := by decide +kernel

/-- Circuit 0 stands at an even position: EVEN keeps it; ODD gives it to the far end (R39 to R41). -/
theorem test_glare_held : sends (.incomingSeize 1 [0, 0]) seized [.result .glareHeld] = true := by decide

theorem test_release_incoming : after (.incomingRelease 1 [0, 0]) incoming
    (fun t => (t.circuit 0).usage == .idle && (t.group 0).busyCount == 0) = true := by decide

theorem test_audit : sends (.circuitAudit 1 [0, 0, 2, 1, 2]) seized
    [.audited 0 0 2 0 1 1 [(0, .mismatch), (1, .corrected)]] = true := by decide

theorem test_lookup_longest : sends (.prefixLookup 1 [3, 4, 4, 7]) quiet [.lookupRouted [4, 4] 0 2] = true := by decide

/-- A lookup never falls back on a shorter entry, and PLAN_UNDEFINED names what was selected (R44). -/
theorem test_lookup_undefined : sends (.prefixLookup 1 [2, 4, 7]) quiet [.lookupUnroutable (some ([4], 9)) 2] = true := by
  decide

/-- A write of a present string replies the old plan and the new one, after one presence byte (R45; logs 19, 21). -/
theorem test_prefixWrite_replaced :
    sends (.prefixWrite 1 [1, 4, 0, 0]) quiet [.prefixWritten (some (9, 0)) 2 true] = true ∧
    (Body.prefixWritten (some (9, 0)) 2 true).payload.drop 1 = [1, 1, 0, 9, 0, 0, 0, 2, 1] := by decide

/-- A setup takes the lowest free handle, serial 0, circuit 0 and the quote 1,250 × 64 / 64 (R81, R85). -/
theorem test_setup : sends (.callSetup 1 [2, 4, 4, 1, 0, 0]) quiet
    [.setupDone 0 0 0 { group := 0, circuit := 0, position := 0, role := .first, carrier := 1, quote := 1250 }
      [(0, .seized)]] = true := by decide

/-- A ceiling below the quote passes the first group by (R82). -/
theorem test_setup_ceiling : sends (.callSetup 1 [2, 4, 4, 1, 0, 1, 0, 0, 4, 225]) quiet
    [.setupDone 0 0 0 { group := 1, circuit := 32, position := 0, role := .alternate, carrier := 0, quote := 0 }
      [(0, .price), (1, .seized)]] = true := by decide

theorem test_retry : sends (.callRetry 1 [0, 0, 1, 0]) seized
    [.retryDone 0 7 0 { group := 1, circuit := 32, position := 0, role := .alternate, carrier := 0, quote := 0 }
      [(0, .tried), (1, .seized)]] = true := by decide

theorem test_guard_enters : (quiet.evaluateGuard 0 48).guard.state = .guarded := by decide

theorem test_advance_midnight : after .oneSecondAdvance
    { State.reset with time := { seconds := 4294967295, timeOfDay := 86399, day := 65535 } }
    (fun t => t.time == { seconds := 0, timeOfDay := 0, day := 0 } && t.periods.boundaryWaiting) = true := by decide

/-- One switch that activates two tariffs reports them in ascending index, numbered from 0 (R132, R188; log 23). -/
theorem test_tariffNotices : after .pendingTariffSwitch
    { quiet with tariffs := [(1, ⟨version, some ⟨version, ⟨0, 0⟩⟩⟩), (5, ⟨version, some ⟨version, ⟨0, 0⟩⟩⟩)],
                 link := { Link.powerOn with enables := 0x08 } }
    (fun t => t.flag .tariff && t.link.sendList.map (fun m => (m.tag, m.body)) ==
      [(0, .noticeTariff 1 ⟨0, 0⟩ .advance ⟨0, 0⟩ 0 1 0), (1, .noticeTariff 5 ⟨0, 0⟩ .advance ⟨0, 0⟩ 0 0 0)]) = true := by
  decide

theorem test_periodLength_clamps : clampLength 0 = 15 ∧ clampLength 29 = 15 ∧ clampLength 719 = 480 ∧
    clampLength 65535 = 1440 := by decide

theorem test_periodClose : sends (.periodClose 1 []) rated [.periodClosing 0 1 0 1] = true := by decide

theorem test_statusRead_clears : after (.statusRead 1 []) (State.reset.setFlag .overflow)
    (fun t => t.link.flags == 0 && t.link.sendList.map Message.body == [.status 0x40 0]) = true := by decide

/-- A line break that abandons a STATUS READ reply sets its flags again, and LINK_RESTART (R187, R191). -/
theorem test_linkBreak_restores : after (.linkBreak 20)
    { State.reset with link := { Link.powerOn with
        transmitter := some { code := 1, tag := 0, body := .status 0x40 0 } } }
    (fun t => t.flag .overflow && t.flag .linkRestart && t.link.lineBroken) = true := by decide

/-- Space under a low RESET_N counts nothing, and the pin's return begins the count anew (R193). -/
theorem test_space_under_reset : after (.linkBreak 30) { quiet with resetLow := true } (fun t => t.link.spaceMs == 0) &&
    after .resetPinReturnsHigh { quiet with resetLow := true, link := { Link.powerOn with spaceMs := 19 } }
      (fun t => !t.resetLow && t.link.spaceMs == 0) = true := by decide

/-- A LINK ECHO frame taken from RXD queues the request; its wire image is R183's. -/
theorem test_frame_received : after (.frameReceived (frames 0x00 0x1234 [0xAB])) State.reset
    (fun t => t.link.requests == [Request.ofPayload 0x00 0x1234 [0xAB]] && t.link.flags == 0) = true := by decide +kernel

theorem test_frame_bytes : (frames 0x00 0x1234 [0xAB]).take 7 = [0xC3, 0x00, 0x04, 0x00, 0x12, 0x34, 0xAB] := by decide

/-- A frame whose CRC is wrong sets FRAME_ERROR and queues nothing (R184). -/
theorem test_frame_badCrc : after (.frameReceived [0xC3, 0, 3, 0, 0, 1, 0, 0]) State.reset
    (fun t => t.link.requests == [] && t.flag .frameError) = true := by decide +kernel

theorem test_recordBytes : ((ratedCall.record 0 ratingNow none).bytes).length = 41 ∧
    ((ratedCall.record 0 ratingNow (some ⟨95, .normal⟩)).bytes).length = 41 := by decide

/-! ### The hypotheses of the statements are met -/

set_option maxRecDepth 4000

theorem test_powerOn_boundary : exec (.powerOn (.resetPinLow 9) 3) seized = .next seized ∧
    after (.powerOn (.resetPinLow 10) 3) seized (fun t => t.resetLow && t.rateStraps == 3 && t.calls == []) = true :=
  ⟨rfl, by decide⟩

theorem witness_StepRunsTheQueue : (∃ (s : State) (i : Instr) (rest : List Instr), s.pending = i :: rest) ∧
    ∃ s : State, s.pending = [] :=
  ⟨⟨{ quiet with pending := [.sweepVisit, .sampleInstant] }, _, _, rfl⟩, quiet, rfl⟩

theorem witness_PowerOnAndResetPin : (∃ a b : Nat, 10 ≤ a ∧ b < 10 ∧ a = b + 1) ∧
    (∃ s : State, s.resetLow = true ∧ s.link.spaceMs = 19) ∧ ∃ s : State, s.resetLow = false :=
  ⟨⟨10, 9, by decide⟩, ⟨{ quiet with resetLow := true, link := { Link.powerOn with spaceMs := 19 } }, rfl, rfl⟩,
    quiet, rfl⟩

theorem witness_ResetPinLowHoldsThePart : ∃ (s : State) (i : Instr), i.wellFormed = true ∧ s.resetLow = true ∧
    (∀ cause straps, i ≠ .powerOn cause straps) ∧ i ≠ .resetPinReturnsHigh :=
  ⟨{ quiet with resetLow := true }, .callSetup 1 [2, 4, 4, 1, 0, 0], rfl, rfl, by simp, by simp⟩

def queued (requests messages : Nat) : State :=
  { State.reset with link := { Link.powerOn with
      requests := List.replicate requests (Request.ofPayload 0x01 2 [])
      sendList := List.replicate messages { code := 0, tag := 0, body := .result .ok } } }

theorem witness_RequestsWaitOrOverload :
    (∃ (s : State) (i : Instr) (type : Byte) (tag : Tag) (p : List Byte), i.wellFormed = true ∧
      i.request? = some (type, tag, p) ∧ s.resetLow = false ∧
      s.link.requests.head? = some (Request.ofPayload type tag p) ∧ s.link.sendList.length = 64) ∧
    (∃ (s : State) (i : Instr) (type : Byte) (tag : Tag) (p : List Byte), i.wellFormed = true ∧
      i.request? = some (type, tag, p) ∧ s.resetLow = false ∧ s.link.lineBroken = false ∧ s.link.requests = [] ∧
      s.link.sendList.length = 64) ∧
    ∀ n ∈ [1, 63, 64], ∃ (s : State) (i : Instr) (type : Byte) (tag : Tag) (p : List Byte), i.wellFormed = true ∧
      i.request? = some (type, tag, p) ∧ s.resetLow = false ∧ s.link.lineBroken = false ∧
      s.link.requests.head? ≠ some (Request.ofPayload type tag p) ∧ s.link.requests.length = n := by
  refine ⟨⟨queued 1 64, .statusRead 2 [], _, _, _, rfl, rfl, rfl, rfl, rfl⟩,
    ⟨queued 0 64, .statusRead 2 [], _, _, _, rfl, rfl, rfl, rfl, rfl, rfl⟩, fun n hn => ?_⟩
  refine ⟨queued n 0, .statusRead 3 [], _, _, _, rfl, rfl, rfl, rfl, ?_, List.length_replicate⟩
  simp only [List.mem_cons, List.not_mem_nil, or_false] at hn
  rcases hn with rfl | rfl | rfl <;> decide

theorem witness_WrongLengthsAreBadLength :
    (∃ (s : State) (i : Instr) (type : Byte) (tag : Tag) (p : List Byte), i.wellFormed = true ∧
      i.request? = some (type, tag, p) ∧ isUnknownType type = false ∧ 4096 < p.length ∧ s.resetLow = false ∧
      s.link.lineBroken = false ∧ s.link.requests = [] ∧ s.link.sendList.length < 64 ∧
      s.visitOwedToRequests = false) ∧
    ∃ (s : State) (tag : Tag) (p : List Byte), p ≠ [] ∧ ∀ type, s.takesNow type tag p :=
  ⟨⟨quiet, .linkEcho 1 (List.replicate 4097 0), _, _, _, rfl, rfl, rfl, by rw [List.length_replicate]; decide, rfl,
      rfl, rfl, by decide, rfl⟩,
    quiet, 1, [0], by decide, fun _ => takes_at_once rfl rfl rfl (by decide)⟩

theorem witness_LinkRequestsAnswered :
    (∃ (s : State) (type : Byte) (tag : Tag) (p : List Byte), isMessageType type = true ∧
      isUnknownType type = true ∧ s.takesNow 0x00 tag p ∧ s.takesNow type tag p) ∧
    ∃ (s : State) (tag : Tag) (b : Byte), s.takesNow 0x01 tag [] ∧ s.takesNow 0x02 tag [b] ∧ b.getLsbD 7 = false :=
  ⟨⟨quiet, 0x36, 1, [9], by decide, by decide, takes_at_once rfl rfl rfl (by decide),
      takes_at_once rfl rfl rfl (by decide)⟩,
    quiet, 1, 0x7F, takes_at_once rfl rfl rfl (by decide), takes_at_once rfl rfl rfl (by decide), by decide⟩

theorem witness_BlockFlagsWritten :
    (∃ (s : State) (tag : Tag) (p : List Byte) (sc : Scope), parseBlock p = .ok (sc, .plain) ∧ s.takesNow 0x04 tag p) ∧
    (∃ (s : State) (tag : Tag) (p : List Byte), parseScope p = .ok (.circuit 8191) ∧ s.takesNow 0x06 tag p ∧
      s.takesNow 0x07 tag p) ∧
    ∃ (s : State) (tag : Tag) (p : List Byte), parseScope p = .ok (.span 255) ∧ s.takesNow 0x06 tag p ∧
      s.takesNow 0x07 tag p :=
  ⟨⟨quiet, 1, [2, 0, 0, 1], _, rfl, takes_at_once rfl rfl rfl (by decide)⟩,
    ⟨quiet, 1, [1, 31, 255], rfl, takes_at_once rfl rfl rfl (by decide), takes_at_once rfl rfl rfl (by decide)⟩,
    quiet, 1, [2, 0, 255], rfl, takes_at_once rfl rfl rfl (by decide), takes_at_once rfl rfl rfl (by decide)⟩

theorem witness_DrainBlockAndItsWatch :
    (∃ (s : State) (tag : Tag) (p : List Byte) (sc : Scope), parseBlock p = .ok (sc, .drain) ∧ s.takesNow 0x04 tag p ∧
      (s.span sc.spanIndex).watch = none ∧ (s.circuit 0).usage.busy = true ∧ 0 ∈ sc.circuits) ∧
    (∃ (s : State) (tag : Tag) (p : List Byte) (sc : Scope), parseBlock p = .ok (sc, .drain) ∧ s.takesNow 0x04 tag p ∧
      (s.span sc.spanIndex).watch = none ∧ ∀ n ∈ sc.circuits, (s.circuit n).usage.busy = false) ∧
    ∃ (s : State) (tag : Tag) (p : List Byte) (sc : Scope) (w : DrainWatch), parseBlock p = .ok (sc, .drain) ∧
      s.takesNow 0x04 tag p ∧ (s.span sc.spanIndex).watch = some w :=
  ⟨⟨seized, 501, [2, 0, 0, 2], .span 0, rfl, takes_at_once rfl rfl rfl (by decide), rfl, rfl, by decide⟩,
    ⟨seized, 501, [1, 0, 1, 2], .circuit 1, rfl, takes_at_once rfl rfl rfl (by decide), rfl, by decide⟩,
    watched seized [5], 502, [1, 0, 0, 2], .circuit 0, _, rfl, takes_at_once rfl rfl rfl (by decide), rfl⟩

theorem witness_UnblockLeavesTheWatch :
    (∀ positions ∈ [[0], [0, 5]], ∃ (s : State) (tag : Tag) (p : List Byte) (sc : Scope) (w : DrainWatch),
      parseScope p = .ok sc ∧ s.takesNow 0x05 tag p ∧ (s.span sc.spanIndex).watch = some w ∧
      w.positions = positions ∧ sc = .circuit 0) ∧
    ∃ (s : State) (tag : Tag) (p : List Byte) (sc : Scope), parseScope p = .ok sc ∧ s.takesNow 0x05 tag p ∧
      (s.span sc.spanIndex).watch = none :=
  ⟨fun positions _ => ⟨watched seized positions, 1, [1, 0, 0], .circuit 0, _, rfl,
      takes_at_once rfl rfl rfl (by simp), rfl, rfl, rfl⟩,
    quiet, 1, [2, 0, 255], .span 255, rfl, takes_at_once rfl rfl rfl (by decide), rfl⟩

/-- A SEIZED call and an incoming seizure on one span. -/
def mixed : State :=
  exchange [(0, trunk 0 (.outgoing 0)), (1, trunk 0 .incoming), (32, trunk 1 .idle), (33, trunk 1 .idle)] 2 0
    [(0, seizedCall)]

/-- A whole span whose watch empties, or keeps a position; and an answered call whose residue of 1,919 is dropped or of
1,920 rounded up, into a queue of 2,047 records. -/
theorem witness_ForcedBlockClearsACircuit :
    (∀ positions ∈ [[0], [0, 5]], ∃ (s : State) (tag : Tag) (p : List Byte) (sc : Scope) (w : DrainWatch),
      parseBlock p = .ok (sc, .forced) ∧ s.takesNow 0x04 tag p ∧
      (∀ n h, n ∈ sc.circuits → (s.circuit n).usage = .outgoing h → ∃ c, s.call h = some c ∧ c.circuit = n ∧
        (c.answeredAt = none ∨ c.rating = none)) ∧
      sc = .span 0 ∧ (s.circuit 0).usage = .outgoing 0 ∧ (s.circuit 1).usage = .incoming ∧
      (s.span sc.spanIndex).watch = some w ∧ w.positions = positions) ∧
    ∀ residue ∈ [1919, 1920], ∃ (s : State) (tag : Tag) (p : List Byte) (n h at_ : Nat) (c : Call) (r : Rating)
      (k : Carrier), parseBlock p = .ok (.circuit n, .forced) ∧ s.takesNow 0x04 tag p ∧
      (s.span (n / 32)).watch = none ∧ (s.circuit n).usage = .outgoing h ∧ s.call h = some c ∧ c.circuit = n ∧
      c.answeredAt = some at_ ∧ at_ < 4294967296 ∧ s.time.seconds < 4294967296 ∧ c.rating = some r ∧
      r.mark = s.periods.number ∧ r.charge < max32 - 1 ∧ r.totalCharge < max32 - 1 ∧ r.saturated = false ∧
      Table.find s.carriers c.carrier = some k ∧ s.records.queue.length < 2048 ∧ r.residue = residue ∧
      s.records.queue.length = 2047 := by
  refine ⟨fun positions _ => ⟨watched mixed positions, 1, [2, 0, 0, 3], .span 0, _, rfl,
    takes_at_once rfl rfl rfl (by simp), fun n h hn hu => ?_, rfl, rfl, rfl, rfl, rfl⟩, fun residue _ => ?_⟩
  · have hu' : (mixed.circuit n).usage = .outgoing h := hu
    have hc : ∀ m ∈ (Scope.span 0).circuits, m = 0 ∨ (mixed.circuit m).usage = .idle ∨
        (mixed.circuit m).usage = .incoming := by decide
    rcases hc n hn with rfl | hi | hi
    · cases (show Usage.outgoing 0 = .outgoing h from hu')
      exact ⟨seizedCall, rfl, rfl, .inl rfl⟩
    · rw [hi] at hu'; cases hu'
    · rw [hi] at hu'; cases hu'
  · let r := { ratingNow with residue := residue, charge := max32 - 2, totalCharge := max32 - 2 }
    let c := { ratedCall with answeredAt := some 4294967295, rating := some r }
    exact ⟨full (exchange busyCircuits 1 0 [(0, c)]) 2047, 1, [1, 0, 0, 3], 0, 0, 4294967295, c, r, carrierOf 1, rfl,
      takes_at_once rfl rfl rfl (by simp), rfl, rfl, rfl, rfl, rfl, by decide, (by decide : 0 < 4294967296), rfl, rfl,
      (by decide : max32 - 2 < max32 - 1), (by decide : max32 - 2 < max32 - 1), rfl, rfl,
      by rw [full_length]; decide, rfl, full_length _ _⟩

/-- The rows of R15, each met by a state. -/
theorem witness_IncomingSeizeJudged :
    (∃ (s : State) (tag : Tag) (p : List Byte) (n g : Nat), parseCircuit p = .ok n ∧ s.takesNow 0x08 tag p ∧
      (s.circuit n).group = some g ∧ (s.group g).defn.kind ≠ .out ∧ (s.circuit n).localBlock = false ∧
      (s.circuit n).usage = .idle) ∧
    (∃ (s : State) (tag : Tag) (p : List Byte) (n : Nat), parseCircuit p = .ok n ∧ s.takesNow 0x08 tag p ∧
      (s.circuit n).group = none) ∧
    (∃ (s : State) (tag : Tag) (p : List Byte) (n g : Nat), parseCircuit p = .ok n ∧ s.takesNow 0x08 tag p ∧
      (s.circuit n).group = some g ∧ (s.group g).defn.kind = .out) ∧
    (∃ (s : State) (tag : Tag) (p : List Byte) (n g : Nat), parseCircuit p = .ok n ∧ s.takesNow 0x08 tag p ∧
      (s.circuit n).group = some g ∧ (s.group g).defn.kind ≠ .out ∧ (s.circuit n).localBlock = true) ∧
    (∃ (s : State) (tag : Tag) (p : List Byte) (n g : Nat), parseCircuit p = .ok n ∧ s.takesNow 0x08 tag p ∧
      (s.circuit n).group = some g ∧ (s.group g).defn.kind ≠ .out ∧ (s.circuit n).localBlock = false ∧
      (s.circuit n).usage = .incoming) ∧
    ∃ (s : State) (tag : Tag) (p : List Byte) (n g h : Nat) (c : Call), parseCircuit p = .ok n ∧
      s.takesNow 0x08 tag p ∧ (s.circuit n).group = some g ∧ (s.group g).defn.kind ≠ .out ∧
      (s.circuit n).localBlock = false ∧ (s.circuit n).usage = .outgoing h ∧ s.call h = some c ∧ c.answered = true :=
  ⟨⟨quiet, 1, [0, 0], 0, 0, rfl, takes_at_once rfl rfl rfl (by decide), rfl, by decide, rfl, rfl⟩,
    ⟨quiet, 1, [31, 255], 8191, rfl, takes_at_once rfl rfl rfl (by decide), rfl⟩,
    ⟨{ quiet with groups := [(0, groupOf { definition 0 none with kind := .out } [0, 1] 0)] }, 1, [0, 0], 0, 0, rfl,
      takes_at_once rfl rfl rfl (by decide), rfl, rfl⟩,
    ⟨quiet.setLocalBlock 0 true, 1, [0, 0], 0, 0, rfl, takes_at_once rfl rfl rfl (by decide), rfl, by decide, rfl⟩,
    ⟨incoming, 1, [0, 0], 0, 0, rfl, takes_at_once rfl rfl rfl (by decide), rfl, by decide, rfl, rfl⟩,
    rated, 1, [0, 0], 0, 0, 0, ratedCall, rfl, takes_at_once rfl rfl rfl (by decide), rfl, by decide, rfl, rfl, rfl,
      rfl⟩

/-- EVEN keeps circuit 0, and ODD gives it up: to a re-hunt of its group, and with no circuit left and no other group
to try. -/
theorem witness_GlareHeldOrGivenUp :
    (∀ control ∈ [GlareControl.even, .odd],
      ∃ (s : State) (tag : Tag) (p : List Byte) (n g h : Nat) (c : Call) (grp : Group), parseCircuit p = .ok n ∧
        s.takesNow 0x08 tag p ∧ (s.circuit n).group = some g ∧ Table.find s.groups g = some grp ∧
        grp.defn.kind ≠ .out ∧ (s.circuit n).localBlock = false ∧ (s.circuit n).usage = .outgoing h ∧
        s.call h = some c ∧ c.answered = false ∧ grp.defn.glareControl = control ∧ n % 2 = 0 ∧
        s.groupCheck c.cls c.ceiling c.group c.role = none ∧
        s.huntOutcome (s.group c.group) c.cls c.role = .seized 1 1) ∧
    ∃ (s : State) (tag : Tag) (p : List Byte) (n g h : Nat) (c : Call) (grp : Group), parseCircuit p = .ok n ∧
      s.takesNow 0x08 tag p ∧ (s.circuit n).group = some g ∧ Table.find s.groups g = some grp ∧
      grp.defn.kind ≠ .out ∧ (s.circuit n).localBlock = false ∧ (s.circuit n).usage = .outgoing h ∧
      s.call h = some c ∧ c.answered = false ∧ grp.defn.glareControl = .odd ∧ n = 0 ∧
      (∀ x ∈ (s.plan c.plan).candidateOrder, x.group ∈ c.tried) ∧
      s.huntOutcome (s.group c.group) c.cls c.role = .overflow .noneIdle := by
  refine ⟨fun control hc => ⟨{ seized with groups :=
      [(0, groupOf { definition 1 (some 1) with glareControl := control } [0, 1] 1)] }, 1, [0, 0], 0, 0, 0, seizedCall,
      _, rfl, takes_at_once rfl rfl rfl (by decide), rfl, rfl, (by decide : GroupKind.bothway ≠ .out), rfl, rfl, rfl, rfl,
      rfl, rfl, ?_, ?_⟩,
    { mixed with
      groups := [(0, groupOf { definition 1 (some 1) with glareControl := .odd } [0, 1] 2)]
      calls := [(0, { seizedCall with tried := [0, 1] })] }, 1, [0, 0], 0, 0, 0, _, _, rfl,
    takes_at_once rfl rfl rfl (by decide), rfl, rfl, by decide, rfl, rfl, rfl, rfl, rfl, rfl, by decide, by decide⟩
  · revert control; decide
  · revert control; decide

theorem witness_IncomingReleaseIdles :
    (∃ (s : State) (tag : Tag) (p : List Byte) (n : Nat), parseCircuit p = .ok n ∧ s.takesNow 0x09 tag p ∧
      (s.circuit n).usage ≠ .incoming) ∧
    (∃ (s : State) (tag : Tag) (p : List Byte) (n g : Nat), parseCircuit p = .ok n ∧ s.takesNow 0x09 tag p ∧
      (s.circuit n).usage = .incoming ∧ (s.circuit n).group = some g ∧ (s.span (n / 32)).watch = none) ∧
    ∀ positions ∈ [[0], [0, 31]], ∃ (s : State) (tag : Tag) (p : List Byte) (n g : Nat) (w : DrainWatch),
      parseCircuit p = .ok n ∧ s.takesNow 0x09 tag p ∧ (s.circuit n).usage = .incoming ∧
      (s.circuit n).group = some g ∧ (s.span (n / 32)).watch = some w ∧ w.positions = positions :=
  ⟨⟨seized, 1, [0, 0], 0, rfl, takes_at_once rfl rfl rfl (by decide), by decide⟩,
    ⟨incoming, 1, [0, 0], 0, 0, rfl, takes_at_once rfl rfl rfl (by decide), rfl, rfl, rfl⟩,
    fun positions _ => ⟨watched incoming positions, 1, [0, 0], 0, 0, _, rfl, takes_at_once rfl rfl rfl (by simp), rfl,
      rfl, rfl, rfl⟩⟩

/-- An audit to the end of a span, and one that idles every busy member of a group, with and without the position that
the watch keeps. -/
theorem witness_AuditComparesEachPosition :
    (∃ (s : State) (tag : Tag) (p : List Byte) (span first : Nat) (views : List FarView),
      parseAudit p = .ok (span, first, views) ∧ s.takesNow 0x0A tag p ∧ first + views.length = 32) ∧
    ∀ positions ∈ [[0], [0, 5]], ∃ (s : State) (tag : Tag) (p : List Byte) (span first : Nat) (views : List FarView)
      (g : Nat) (grp : Group) (w : DrainWatch), parseAudit p = .ok (span, first, views) ∧ s.takesNow 0x0A tag p ∧
      Table.find s.groups g = some grp ∧ (s.circuit (span * 32 + first)).group = some g ∧
      (s.circuit (span * 32 + first)).usage = .incoming ∧ views = [.idle] ∧ grp.busyCount = 1 ∧
      (s.span span).watch = some w ∧ w.positions = positions :=
  ⟨⟨seized, 1, [255, 30, 2, 1, 3], 255, 30, [.idle, .blocked], rfl, takes_at_once rfl rfl rfl (by decide), rfl⟩,
    fun positions _ => ⟨watched incoming positions, 1, [0, 0, 1, 1], 0, 0, [.idle], 0, _, _, rfl,
      takes_at_once rfl rfl rfl (by simp), rfl, rfl, rfl, rfl, rfl, rfl, rfl⟩⟩

/-- The payload of GROUP DEFINE and GROUP CHANGE for group 2 of carrier 0: kind, admin, carrier, no tariff, hunt
mode, glare control, then the five numbers and the enable. -/
def definitionBytes (g carrier : Byte) : List Byte :=
  [g, 2, 1, carrier, 0, 1, 4, 0, 1, 0, 2, 0, 1, 0, 0, 0, 4, 1]

theorem witness_GroupsDefinedAndDeleted :
    (∃ (s : State) (tag : Tag) (p : List Byte) (g : Nat) (d : GroupDefn) (ms : List Nat),
      parseGroupDefine p = .ok (g, d, ms) ∧ s.takesNow 0x0C tag p ∧ Table.find s.groups g = none ∧
      s.definitionNamed d ∧ ∀ n ∈ ms, (s.circuit n).group = none) ∧
    ∃ (s : State) (tag : Tag) (p : List Byte) (g : Nat) (grp : Group), parseIndex 255 p = .ok g ∧
      s.takesNow 0x0F tag p ∧ Table.find s.groups g = some grp ∧ grp.busyCount = 0 ∧
      (∀ e ∈ s.plans, ∀ x ∈ e.2.entries, x.group ≠ g) ∧ ∀ e ∈ s.calls, e.2.incomingGroup ≠ some g :=
  ⟨⟨quiet, 1, definitionBytes 255 0 ++ [0, 2, 0, 2, 31, 255], 255, definition 0 none, [2, 8191], rfl,
      takes_at_once rfl rfl rfl (by decide), rfl, ⟨rfl, .inl rfl⟩, by decide⟩,
    { quiet with plans := [] }, 1, [0], 0, _, rfl, takes_at_once rfl rfl rfl (by decide), rfl, rfl, by decide,
      by decide⟩

theorem witness_GroupsChanged :
    (∃ (s : State) (tag : Tag) (p : List Byte) (g : Nat) (d : GroupDefn) (grp : Group),
      parseGroupChange p = .ok (g, d) ∧ s.takesNow 0x0D tag p ∧ Table.find s.groups g = some grp ∧
      s.definitionNamed d ∧ d.carrier = grp.defn.carrier) ∧
    (∃ (s : State) (tag : Tag) (p : List Byte) (g : Nat) (d : GroupDefn) (grp : Group),
      parseGroupChange p = .ok (g, d) ∧ s.takesNow 0x0D tag p ∧ Table.find s.groups g = some grp ∧
      s.definitionNamed d ∧ d.carrier ≠ grp.defn.carrier ∧ ∃ n ∈ grp.members, ∃ h, (s.circuit n).usage = .outgoing h) ∧
    ∃ (s : State) (tag : Tag) (p : List Byte) (g : Nat) (ms : List Nat) (grp : Group),
      parseGroupMembers p = .ok (g, ms) ∧ s.takesNow 0x0E tag p ∧ Table.find s.groups g = some grp ∧
      (∀ n ∈ ms, (s.circuit n).group = none ∨ (s.circuit n).group = some g) ∧
      ∀ n ∈ grp.members, n ∉ ms → (s.circuit n).usage = .idle :=
  ⟨⟨seized, 1, definitionBytes 1 0, 1, definition 0 none, _, rfl, takes_at_once rfl rfl rfl (by decide), rfl,
      ⟨rfl, .inl rfl⟩, rfl⟩,
    ⟨seized, 1, definitionBytes 0 0, 0, definition 0 none, _, rfl, takes_at_once rfl rfl rfl (by decide), rfl,
      ⟨rfl, .inl rfl⟩, by decide, 0, by decide, 0, rfl⟩,
    seized, 1, [0, 0, 2, 0, 0, 0, 7], 0, [0, 7], _, rfl, takes_at_once rfl rfl rfl (by decide), rfl, by decide,
      by decide⟩

/-- A group with nothing available, one whose reservation bars an ordinary alternate call, one that does not, and a
SPREAD group of five circuits, whose positions take three bits. -/
theorem witness_HuntOutcomeByItsThreeSteps :
    (∃ (s : State) (grp : Group), grp.members.length ≤ 512 ∧ s.availableCount grp = 0) ∧
    (∃ (s : State) (grp : Group), grp.members.length ≤ 512 ∧ s.availableCount grp ≠ 0 ∧ s.guard.state = .normal ∧
      s.availableCount grp ≤ grp.defn.reservation) ∧
    (∃ (s : State) (grp : Group), grp.members.length ≤ 512 ∧ s.availableCount grp ≠ 0 ∧ s.guard.state = .normal ∧
      s.availableCount grp = grp.defn.reservation + 1 ∧ grp.rotary < grp.members.length) ∧
    ∃ (s : State) (grp : Group) (k : Nat), grp.members.length ≤ 512 ∧ s.availableCount grp ≠ 0 ∧
      grp.defn.huntMode = .spread ∧ grp.members.length = 5 ∧ grp.members.length ≤ 2 ^ k ∧
      ∀ j, j < k → 2 ^ j < grp.members.length :=
  ⟨⟨State.reset, groupOf (definition 0 none) [0, 1] 0, by decide, by decide⟩,
    ⟨seized, groupOf (definition 0 none) [0, 1] 1, by decide, by decide, rfl, by decide⟩,
    ⟨quiet, groupOf (definition 0 none) [0, 1] 0, by decide, by decide, rfl, by decide, by decide⟩,
    quiet, groupOf { definition 0 none with huntMode := .spread } [0, 1, 32, 33, 34] 0, 3, by decide, by decide, rfl,
    rfl, by decide, by decide⟩

theorem witness_HuntEffects :
    (∃ (s : State) (g h : Nat) (grp : Group) (n q : Nat), Table.find s.groups g = some grp ∧
      (s.hunt g .ordinary .first h).1 = .seized n q ∧ (s.circuit n).group = some g) ∧
    (∃ (s : State) (g h : Nat) (grp : Group) (v : Verdict), Table.find s.groups g = some grp ∧
      (s.hunt g .ordinary .alternate h).1 = .overflow v) ∧
    ∃ (s : State) (g h n q : Nat) (grp : Group), Table.find s.groups g = some grp ∧ grp.members.Nodup ∧
      (s.hunt g .ordinary .alternate h).1 = .seized n q :=
  ⟨⟨quiet, 0, 5, _, 0, 0, rfl, by decide, rfl⟩, ⟨seized, 0, 5, _, .reserved, rfl, by decide⟩,
    quiet, 0, 5, 0, 0, groupOf (definition 1 (some 1)) [0, 1] 0, rfl, by decide, by decide⟩

def fullPrefixes (n : Nat) : State := { quiet with prefixes := List.replicate n { digits := [1], plan := 3 } }

theorem witness_PrefixTableWritten :
    (∀ n ∈ [4095, 4096], ∃ (s : State) (tag : Tag) (p : List Byte) (d : List Nat) (plan : Nat),
      parsePrefixWrite p = .ok (d, plan) ∧ s.takesNow 0x11 tag p ∧ (∀ e ∈ s.prefixes, e.digits ≠ d) ∧
      s.prefixes.length = n) ∧
    (∃ (s : State) (tag : Tag) (p : List Byte) (d : List Nat) (plan : Nat), parsePrefixWrite p = .ok (d, plan) ∧
      s.takesNow 0x11 tag p ∧ ∃ e ∈ s.prefixes, e.digits = d ∧ ∀ x ∈ s.prefixes, x.digits = d → x = e) ∧
    (∃ (s : State) (tag : Tag) (p : List Byte) (d : List Nat), parseDigits p = .ok d ∧ s.takesNow 0x12 tag p ∧
      ∀ e ∈ s.prefixes, e.digits ≠ d) ∧
    ∃ (s : State) (tag : Tag) (p : List Byte) (d : List Nat) (before after : List PrefixEntry) (e : PrefixEntry),
      parseDigits p = .ok d ∧ s.takesNow 0x12 tag p ∧ s.prefixes = before ++ e :: after ∧ e.digits = d ∧
      ∀ x ∈ before ++ after, x.digits ≠ d := by
  refine ⟨fun n _ => ⟨fullPrefixes n, 1, [1, 2, 3, 255], [2], 1023, rfl, takes_at_once rfl rfl rfl (by decide), ?_,
      List.length_replicate⟩,
    ⟨quiet, 1, [1, 4, 0, 1], [4], 1, rfl, takes_at_once rfl rfl rfl (by decide), _, List.mem_cons_self .., rfl,
      by decide⟩,
    ⟨quiet, 1, [1, 5], [5], rfl, takes_at_once rfl rfl rfl (by decide), by decide⟩,
    quiet, 1, [2, 4, 4], [4, 4], [{ digits := [4], plan := 9 }], [], _, rfl, takes_at_once rfl rfl rfl (by decide),
      rfl, rfl, by decide⟩
  intro e he
  rw [(List.mem_replicate.mp he).2]
  decide

theorem witness_LookupSelectsTheLongest : ∃ (s : State) (dest d : List Nat) (plan : Nat),
    s.lookup dest = .routed d plan ∨ s.lookup dest = .planUndefined d plan :=
  ⟨quiet, [4, 4, 7], [4, 4], 0, .inl (by decide)⟩

theorem witness_PlanWriteAndDelete :
    (∃ (s : State) (tag : Tag) (p : List Byte) (plan : Nat) (entries : List PlanEntry) (ceiling : Option Nat),
      parsePlanWrite p = .ok (plan, entries, ceiling) ∧ s.takesNow 0x14 tag p ∧
      ∀ e ∈ entries, (Table.find s.groups e.group).isSome = true) ∧
    (∃ (s : State) (tag : Tag) (p : List Byte) (plan : Nat), parsePlan p = .ok plan ∧ s.takesNow 0x15 tag p ∧
      (Table.find s.plans plan).isSome = true ∧ ∀ e ∈ s.calls, e.2.answered = true ∨ e.2.plan ≠ plan) ∧
    ∃ (s : State) (tag : Tag) (p : List Byte) (plan : Nat), parsePlan p = .ok plan ∧ s.takesNow 0x15 tag p ∧
      (Table.find s.plans plan).isSome = true ∧ ∃ e ∈ s.calls, e.2.answered = false ∧ e.2.plan = plan :=
  ⟨⟨quiet, 1, [3, 255, 2, 0, 1, 1, 2, 0], 1023, [⟨0, .first⟩, ⟨1, .alternate⟩], none, rfl,
      takes_at_once rfl rfl rfl (by decide), by decide⟩,
    ⟨rated, 1, [0, 0], 0, rfl, takes_at_once rfl rfl rfl (by decide), rfl, by decide⟩,
    seized, 1, [0, 0], 0, rfl, takes_at_once rfl rfl rfl (by decide), rfl, by decide⟩

theorem witness_StickyAlternateOrdersAndMoves :
    (∃ p : Plan, p.sticky.getD 0 ≤ (p.entries.filter fun e => e.role == .alternate).length ∧ p.entries ≠ []) ∧
    (∃ (s : State) (i : PassInput) (p : Plan), Table.find s.plans i.plan = some p ∧ i.cls = .priority) ∧
    ∃ (s : State) (i : PassInput) (c : Candidate) (p : Plan) (k : Nat), Table.find s.plans i.plan = some p ∧
      i.cls = .ordinary ∧ i.movesSticky = true ∧ c.number = some k ∧ p.sticky = some k :=
  ⟨⟨{ entries := [⟨0, .first⟩, ⟨1, .alternate⟩], ceiling := none, sticky := some 1 }, by decide, by decide⟩,
    ⟨quiet, ⟨0, .priority, none, none, none, true⟩, _, rfl, rfl⟩,
    quiet, ⟨0, .ordinary, none, none, none, true⟩, ⟨1, .alternate, some 0⟩, _, 0, rfl, rfl, rfl, rfl, rfl⟩

/-- Group 0 has no circuit left, group 1 its two. -/
def firstFull : State :=
  exchange [(0, trunk 0 .incoming), (1, trunk 0 .incoming), (32, trunk 1 .idle), (33, trunk 1 .idle)] 2 0 []

/-- Group 1 has no circuit left, group 0 its two. -/
def lastFull : State :=
  exchange [(0, trunk 0 .idle), (1, trunk 0 .idle), (32, trunk 1 .incoming), (33, trunk 1 .incoming)] 0 2 []

theorem witness_SetupSeizesOrIsUnroutable :
    (∃ (s : State) (tag : Tag) (p : List Byte) (o : SetupOperands) (digits : List Nat) (plan : Nat) (c : Candidate)
      (rest : List Candidate) (n q : Nat), parseSetup p = .ok o ∧ s.takesNow 0x17 tag p ∧
      (∀ g, o.incoming = some g → (Table.find s.groups g).isSome = true) ∧
      s.lookup o.destination = .routed digits plan ∧ (s.plan plan).candidateOrder = c :: rest ∧
      o.incoming ≠ some c.group ∧
      s.groupCheck o.cls (effectiveCeiling o.ceiling (s.plan plan).ceiling) c.group c.role = none ∧
      1 ≤ s.guard.depth ∧ s.huntOutcome (s.group c.group) o.cls c.role = .seized n q ∧
      (s.circuit n).group = some c.group) ∧
    (∃ (s : State) (tag : Tag) (p : List Byte) (o : SetupOperands) (digits : List Nat) (plan : Nat) (c d : Candidate)
      (rest : List Candidate) (n q : Nat) (v : Verdict), parseSetup p = .ok o ∧ s.takesNow 0x17 tag p ∧
      (∀ g, o.incoming = some g → (Table.find s.groups g).isSome = true) ∧
      s.lookup o.destination = .routed digits plan ∧ (s.plan plan).candidateOrder = c :: d :: rest ∧
      o.incoming ≠ some c.group ∧ o.incoming ≠ some d.group ∧ c.group ≠ d.group ∧
      s.groupCheck o.cls (effectiveCeiling o.ceiling (s.plan plan).ceiling) c.group c.role = none ∧
      s.groupCheck o.cls (effectiveCeiling o.ceiling (s.plan plan).ceiling) d.group d.role = none ∧
      (s.guard.state = .guarded ∧ s.guard.depth = 2) ∧
      s.huntOutcome (s.group c.group) o.cls c.role = .overflow v ∧
      s.huntOutcome (s.group d.group) o.cls d.role = .seized n q ∧ (s.circuit n).group = some d.group) ∧
    (∃ (s : State) (tag : Tag) (p : List Byte) (o : SetupOperands) (digits : List Nat) (plan : Nat)
      (failed : List Candidate) (verdict : Candidate → Verdict), parseSetup p = .ok o ∧ s.takesNow 0x17 tag p ∧
      (∀ g, o.incoming = some g → (Table.find s.groups g).isSome = true) ∧
      s.lookup o.destination = .routed digits plan ∧
      (∀ x ∈ failed, (o.incoming = some x.group ∧ verdict x = .backward) ∨ (o.incoming ≠ some x.group ∧
        s.groupCheck o.cls (effectiveCeiling o.ceiling (s.plan plan).ceiling) x.group x.role = some (verdict x))) ∧
      (s.plan plan).candidateOrder = failed ∧ failed.length = 2) ∧
    (∃ (s : State) (tag : Tag) (p : List Byte) (o : SetupOperands) (digits : List Nat) (plan : Nat)
      (failed : List Candidate) (verdict : Candidate → Verdict) (c : Candidate) (v : Verdict),
      parseSetup p = .ok o ∧ s.takesNow 0x17 tag p ∧
      (∀ g, o.incoming = some g → (Table.find s.groups g).isSome = true) ∧
      s.lookup o.destination = .routed digits plan ∧
      (∀ x ∈ failed, (o.incoming = some x.group ∧ verdict x = .backward) ∨ (o.incoming ≠ some x.group ∧
        s.groupCheck o.cls (effectiveCeiling o.ceiling (s.plan plan).ceiling) x.group x.role = some (verdict x))) ∧
      (s.plan plan).candidateOrder = failed ++ [c] ∧ o.incoming ≠ some c.group ∧
      s.groupCheck o.cls (effectiveCeiling o.ceiling (s.plan plan).ceiling) c.group c.role = none ∧
      1 ≤ s.guard.depth ∧ s.huntOutcome (s.group c.group) o.cls c.role = .overflow v ∧ failed ≠ []) ∧
    (∃ (s : State) (tag : Tag) (p : List Byte) (o : SetupOperands), parseSetup p = .ok o ∧ s.takesNow 0x17 tag p ∧
      (∀ g, o.incoming = some g → (Table.find s.groups g).isSome = true) ∧ s.lookup o.destination = .noMatch) ∧
    (∃ (s : State) (tag : Tag) (p : List Byte) (o : SetupOperands) (d : List Nat) (plan : Nat),
      parseSetup p = .ok o ∧ s.takesNow 0x17 tag p ∧
      (∀ g, o.incoming = some g → (Table.find s.groups g).isSome = true) ∧
      s.lookup o.destination = .planUndefined d plan) ∧
    ∃ (s : State) (h : Nat), h < 8192 ∧ s.call h = none :=
  ⟨⟨quiet, 1, [2, 4, 4, 1, 0, 0], ⟨[4, 4], .ordinary, none, none⟩, [4, 4], 0, ⟨0, .first, none⟩,
      [⟨1, .alternate, some 0⟩], 0, 0, rfl, takes_at_once rfl rfl rfl (by decide), by simp, by decide, by decide,
      by decide, by decide, by decide, by decide, rfl⟩,
    ⟨{ firstFull with guard := { Guard.powerOn with state := .guarded, depth := 2 },
                      groups := [(0, groupOf (definition 1 (some 1)) [0, 1] 2),
                        (1, groupOf { definition 0 none with guardReservation := 0, reservation := 0 } [32, 33] 0)] },
      1, [2, 4, 4, 1, 0, 0], ⟨[4, 4], .ordinary, none, none⟩, [4, 4], 0, ⟨0, .first, none⟩, ⟨1, .alternate, some 0⟩, [],
      32, 0, .noneIdle, rfl, takes_at_once rfl rfl rfl (by decide), by simp, by decide, by decide, by decide, by decide,
      by decide, by decide, by decide, ⟨rfl, rfl⟩, by decide, by decide, rfl⟩,
    ⟨quiet, 1, [2, 4, 4, 1, 1, 1, 1, 0, 0, 0, 0], ⟨[4, 4], .ordinary, some 1, some 0⟩, [4, 4], 0,
      [⟨0, .first, none⟩, ⟨1, .alternate, some 0⟩], fun x => if x.group = 1 then .backward else .price, rfl,
      takes_at_once rfl rfl rfl (by decide), fun g hg => by cases hg; rfl, by decide, by decide, by decide, rfl⟩,
    ⟨lastFull, 1, [2, 4, 4, 1, 0, 1, 0, 0, 0, 0], ⟨[4, 4], .ordinary, none, some 0⟩, [4, 4], 0,
      [⟨0, .first, none⟩], fun _ => .price, ⟨1, .alternate, some 0⟩, .noneIdle, rfl,
      takes_at_once rfl rfl rfl (by decide), by simp, by decide, by decide, by decide, by decide, by decide, by decide,
      by decide, by decide⟩,
    ⟨quiet, 1, [1, 5, 1, 0, 0], ⟨[5], .ordinary, none, none⟩, rfl, takes_at_once rfl rfl rfl (by decide), by simp,
      by decide⟩,
    ⟨quiet, 1, [1, 4, 1, 0, 0], ⟨[4], .ordinary, none, none⟩, [4], 9, rfl, takes_at_once rfl rfl rfl (by decide),
      by simp, by decide⟩,
    seized, 8191, by decide, rfl⟩

/-- A quote equal to its ceiling on a foreign group, in GUARDED one group tried of a depth of 2, and a quote 1 above its
ceiling. -/
theorem witness_SeizuresObeyTheChecks :
    (∃ (s : State) (i : PassInput) (tried : List Nat) (z : Seizure) (tf : Nat) (e : Tariff),
      (s.pass i tried).seizure = some z ∧ (s.group z.group).defn.carrier ≠ 0 ∧
      (s.group z.group).defn.tariff = some tf ∧ Table.find s.tariffs tf = some e ∧ i.ceiling = some 1250) ∧
    (∃ (s : State) (i : PassInput) (tried : List Nat) (z : Seizure), (s.pass i tried).seizure = some z ∧
      (s.group z.group).defn.carrier = 0 ∧ s.guard.state = .guarded ∧ s.guard.depth = 2 ∧ i.cls = .ordinary ∧
      tried.length = 1) ∧
    ∃ (s : State) (i : PassInput) (tried : List Nat) (c : Candidate), c.group ∉ tried ∧ i.incoming ≠ some c.group ∧
      s.groupCheck i.cls i.ceiling c.group c.role = some .price ∧ i.ceiling = some 1249 ∧ s.quote c.group = 1250 :=
  ⟨⟨quiet, ⟨0, .ordinary, none, some 1250, none, true⟩, [], ⟨0, 0, 0, .first, 1, 1250⟩, 1, _, by decide, by decide, rfl,
      rfl, rfl⟩,
    ⟨{ quiet with guard := { Guard.powerOn with state := .guarded, depth := 2 },
                  groups := [(0, groupOf (definition 1 (some 1)) [0, 1] 0),
                    (1, groupOf { definition 0 none with guardReservation := 0, reservation := 0 } [32, 33] 0)] },
      ⟨0, .ordinary, none, none, none, true⟩, [0], ⟨1, 32, 0, .alternate, 0, 0⟩, by decide, by decide, rfl, rfl, rfl,
      rfl⟩,
    quiet, ⟨0, .ordinary, none, some 1249, none, true⟩, [], ⟨0, .first, none⟩, by decide, by decide, by decide, rfl,
    by decide⟩

/-- A retry with every group tried, one whose untried group fails its checks, and one that reseizes, to another
carrier. -/
theorem witness_RetryReseizesOrCloses :
    (∃ (s : State) (tag : Tag) (p : List Byte) (h g : Nat) (cause : RetryCause) (expected : Option Nat) (c : Call)
      (grp : Group), parseRetry p = .ok (h, cause, expected) ∧ s.takesNow 0x18 tag p ∧ s.namesCall h expected c ∧
      c.answeredAt = none ∧ (s.circuit c.circuit).usage = .outgoing h ∧ (s.circuit c.circuit).group = some g ∧
      c.group = g ∧ Table.find s.groups g = some grp ∧ (s.span (c.circuit / 32)).watch = none ∧
      s.allRoutesTried c = true) ∧
    (∃ (s : State) (tag : Tag) (p : List Byte) (h g : Nat) (cause : RetryCause) (expected : Option Nat) (c : Call)
      (grp : Group) (verdict : Candidate → Verdict), parseRetry p = .ok (h, cause, expected) ∧
      s.takesNow 0x18 tag p ∧ s.namesCall h expected c ∧ c.answeredAt = none ∧
      (s.circuit c.circuit).usage = .outgoing h ∧ (s.circuit c.circuit).group = some g ∧ c.group = g ∧
      Table.find s.groups g = some grp ∧ (s.span (c.circuit / 32)).watch = none ∧ s.allRoutesTried c = false ∧
      ∀ x ∈ (s.plan c.plan).candidateOrder, (x.group ∈ c.tried ∧ verdict x = .tried) ∨
        (x.group ∉ c.tried ∧ c.incomingGroup = some x.group ∧ verdict x = .backward) ∨
        (x.group ∉ c.tried ∧ c.incomingGroup ≠ some x.group ∧
          s.groupCheck c.cls c.ceiling x.group x.role = some (verdict x))) ∧
    ∃ (s : State) (tag : Tag) (p : List Byte) (h : Nat) (cause : RetryCause) (expected : Option Nat) (c : Call)
      (skipped rest : List Candidate) (x : Candidate) (n q : Nat) (old new : Group),
      parseRetry p = .ok (h, cause, expected) ∧ s.takesNow 0x18 tag p ∧ s.namesCall h expected c ∧
      c.answeredAt = none ∧ s.allRoutesTried c = false ∧ (s.span (c.circuit / 32)).watch = none ∧
      (s.plan c.plan).candidateOrder = skipped ++ x :: rest ∧ (∀ y ∈ skipped, y.group ∈ c.tried) ∧
      x.group ∉ c.tried ∧ c.incomingGroup ≠ some x.group ∧
      (s.crankback c cause).groupCheck c.cls c.ceiling x.group x.role = none ∧ s.depthFails c.cls c.tried = false ∧
      (s.crankback c cause).huntOutcome ((s.crankback c cause).group x.group) c.cls x.role = .seized n q ∧
      (s.circuit c.circuit).usage = .outgoing h ∧ (s.circuit c.circuit).group = some c.group ∧ c.group ∈ c.tried ∧
      (s.circuit n).group = some x.group ∧ Table.find s.groups c.group = some old ∧
      Table.find s.groups x.group = some new ∧ c.carrier ≠ new.defn.carrier :=
  ⟨⟨exchange busyCircuits 1 0 [(0, { seizedCall with tried := [0, 1] })], 1, [0, 0, 2, 1, 0, 0, 0, 7], 0, 0, .fault,
      some 7, { seizedCall with tried := [0, 1] }, _, rfl, takes_at_once rfl rfl rfl (by decide), ⟨rfl, .inr rfl⟩, rfl,
      rfl, rfl, rfl, rfl, rfl, by decide⟩,
    ⟨exchange busyCircuits 1 0 [(0, { seizedCall with incomingGroup := some 1 })], 1, [0, 0, 1, 0], 0, 0, .downstream,
      none, { seizedCall with incomingGroup := some 1 }, _, fun x => if x.group = 0 then .tried else .backward, rfl,
      takes_at_once rfl rfl rfl (by decide), ⟨rfl, .inl rfl⟩, rfl, rfl, rfl, rfl, rfl, rfl, by decide, by decide⟩,
    seized, 1, [0, 0, 1, 0], 0, .downstream, none, seizedCall, [⟨0, .first, none⟩], [], ⟨1, .alternate, some 0⟩, 32, 0,
      _, _, rfl, takes_at_once rfl rfl rfl (by decide), ⟨rfl, .inl rfl⟩, rfl, by decide, rfl, by decide, by decide,
      by decide, by decide, by decide, by decide, by decide, rfl, rfl, by decide, rfl, rfl, rfl, by decide⟩

theorem witness_UnratedCallsCostNothing :
    (∃ (s : State) (tag : Tag) (p : List Byte) (h : Nat) (expected : Option Nat) (c : Call),
      parseAnswer p = .ok (h, expected) ∧ s.takesNow 0x19 tag p ∧ s.namesCall h expected c ∧ c.answeredAt = none ∧
      c.carrier = 0) ∧
    (∃ (s : State) (tag : Tag) (p : List Byte) (h : Nat) (expected : Option Nat) (c : Call),
      parseAnswer p = .ok (h, expected) ∧ s.takesNow 0x19 tag p ∧ s.namesCall h expected c ∧ c.answered = true) ∧
    ∃ (s : State) (tag : Tag) (p : List Byte) (h g : Nat) (cause : CloseCause) (expected : Option Nat) (c : Call),
      parseRelease p = .ok (h, cause, expected) ∧ s.takesNow 0x1A tag p ∧ s.namesCall h expected c ∧
      c.answeredAt = none ∧ (s.circuit c.circuit).usage = .outgoing h ∧ (s.circuit c.circuit).group = some g ∧
      (s.span (c.circuit / 32)).watch = none :=
  ⟨⟨seizedHome, 1, [0, 0, 0], 0, none, homeCall, rfl, takes_at_once rfl rfl rfl (by decide), ⟨rfl, .inl rfl⟩, rfl, rfl⟩,
    ⟨rated, 1, [0, 0, 0], 0, none, ratedCall, rfl, takes_at_once rfl rfl rfl (by decide), ⟨rfl, .inl rfl⟩, rfl⟩,
    seizedHome, 1, [0, 0, 1, 0], 0, 1, .normal, none, homeCall, rfl, takes_at_once rfl rfl rfl (by decide),
      ⟨rfl, .inl rfl⟩, rfl, rfl, rfl, rfl⟩

/-- The answer charges 100 and 1,250 SU: a cap below, at and above them, and one that was reached before. -/
theorem witness_ForeignCallAnswered : ∀ m ∈ [(100, false), (1350, false), (1351, false), (1, true)],
    ∃ (s : State) (tag : Tag) (p : List Byte) (h tf : Nat) (expected : Option Nat)
      (c : Call) (grp : Group) (e : Tariff) (k : Carrier), parseAnswer p = .ok (h, expected) ∧ s.takesNow 0x19 tag p ∧
      s.namesCall h expected c ∧ c.answeredAt = none ∧ c.carrier ≠ 0 ∧ Table.find s.groups c.group = some grp ∧
      grp.defn.tariff = some tf ∧ Table.find s.tariffs tf = some e ∧ e.active.inRange = true ∧
      Table.find s.carriers c.carrier = some k ∧ k.account.accumulator ≤ max48 ∧ (k.cap, k.capReached) = m ∧
      (k.capReached = true → k.cap ≠ 0 ∧ k.cap ≤ k.account.accumulator) := fun m hm =>
  let k : Carrier := { carrierOf 1 with
    cap := m.1, capReached := m.2, account := { Account.zero with accumulator := if m.2 then 5 else 0 } }
  have hk : k.account.accumulator ≤ max48 ∧ (k.capReached = true → k.cap ≠ 0 ∧ k.cap ≤ k.account.accumulator) := by
    revert m; decide
  ⟨{ seized with carriers := [(0, Carrier.home), (1, k)] }, 1, [0, 0, 0], 0, 1, none, seizedCall, _, _, k, rfl,
    takes_at_once rfl rfl rfl (by simp), ⟨rfl, .inl rfl⟩, rfl, by decide, rfl, rfl, rfl, by decide, rfl, hk.1, rfl, hk.2⟩

/-- A residue of 1,919 is dropped and one of 1,920 is rounded up; the charge stands 2 below its largest value, and the
queue has room for one record of a present mark and two of a stale one. -/
theorem witness_RatedCallReleased : ∀ residue ∈ [1919, 1920], ∀ m ∈ [(0, 2047), (1, 2046)],
    ∃ (s : State) (tag : Tag) (p : List Byte) (h at_ : Nat) (cause : CloseCause) (expected : Option Nat) (c : Call)
      (r : Rating) (k : Carrier),
      parseRelease p = .ok (h, cause, expected) ∧ s.takesNow 0x1A tag p ∧ s.namesCall h expected c ∧
      c.answeredAt = some at_ ∧ at_ < 4294967296 ∧ s.time.seconds < 4294967296 ∧ c.rating = some r ∧
      r.charge < max32 - 1 ∧ r.totalCharge < max32 - 1 ∧ r.saturated = false ∧
      Table.find s.carriers c.carrier = some k ∧ r.residue = residue ∧ r.mark = 0 ∧ s.periods.number = m.1 ∧
      s.records.queue.length = m.2 ∧ (0 < r.charge ∨ 0 < r.billed) :=
  fun residue _ m _ =>
  let r := { ratingNow with residue := residue, charge := max32 - 2, totalCharge := max32 - 2 }
  let c := { ratedCall with answeredAt := some 4294967295, rating := some r }
  ⟨full { exchange busyCircuits 1 0 [(0, c)] with periods := { Periods.powerOn with number := m.1 } } m.2, 1,
    [0, 0, 1, 0], 0, 4294967295, .normal, none, c, r, carrierOf 1, rfl, takes_at_once rfl rfl rfl (by simp),
    ⟨rfl, .inl rfl⟩, rfl, by decide, (by decide : 0 < 4294967296), rfl, (by decide : max32 - 2 < max32 - 1),
    (by decide : max32 - 2 < max32 - 1), rfl, rfl, rfl, rfl, rfl, full_length _ _, .inl (by decide : 0 < max32 - 2)⟩

theorem witness_RatingStepConservesTheCharge : ∃ (s : State) (h rate t : Nat) (r : Rating) (c : Call),
    s.call h = some c ∧ r.charge + (rate * r.factor * t + r.residue) / 3840 ≤ max32 ∧
      r.totalCharge + (rate * r.factor * t + r.residue) / 3840 ≤ max32 :=
  ⟨rated, 0, 999999, 600, { ratingNow with factor := 255 }, ratedCall, rfl, by decide, by decide⟩

/-- The charge reaches 1 below its largest value, with a mark that is present and one that is stale; a cap that the
625 SU miss by 1 or reach. -/
theorem witness_IncrementChargesTk : ∀ mark ∈ [0, 7], ∀ cap ∈ [626, 625], ∃ (s : State) (h : Nat) (c : Call)
    (r : Rating) (e : Tariff) (k : Carrier)
    (at_ : Nat), s.resetLow = false ∧ s.call h = some c ∧ c.answeredAt = some at_ ∧ c.rating = some r ∧
      r.nextDue = s.time.seconds ∧ Table.find s.tariffs r.tariff = some e ∧
      Table.find s.carriers c.carrier = some k ∧
      (let w := (e.active.rate s.band * r.factor * e.active.incr + r.residue) / 3840
       r.charge + w = max32 - 1 ∧ r.totalCharge + w < max32 ∧ k.accumulated w = 625) ∧
      r.billed + e.active.incr < max32 ∧ r.totalBilled + e.active.incr < max32 ∧ k.account.accumulator ≤ max48 ∧
      r.mark = mark ∧ s.periods.number = 0 ∧ s.records.queue.length < 2048 ∧ k.cap = cap := by
  intro mark hm cap hc
  refine ⟨{ exchange busyCircuits 1 0 [(0, { ratedCall with rating := some { ratingNow with
        charge := max32 - 626, mark := mark } })] with
      carriers := [(0, Carrier.home), (1, { carrierOf 1 with cap := cap })] }, 0, _, _, ⟨version, none⟩, _, 0,
    rfl, rfl, rfl, rfl, rfl, rfl, rfl, ?_, (by decide : 90 < max32), (by decide : 90 < max32),
    (by decide : 0 ≤ max48), rfl, rfl, (by decide : 0 < 2048), rfl⟩
  revert mark cap
  decide

/-- The 36th sample of a 36-sample interval rolls the statistics over; the 35th does not. -/
theorem witness_SampleOfEveryGroup : ∀ n ∈ [34, 35], ∃ s : State, s.resetLow = false ∧ s.monitor.hold = .running ∧
    s.monitor.nextSample = some s.time.seconds ∧ Table.rising s.groups = true ∧ s.monitor.samplesInInterval = n ∧
    s.monitor.statsInterval = 36 := fun n _ =>
  ⟨{ quiet with monitor := ⟨5, 36, n, .running, some 0⟩ }, rfl, rfl, rfl, rfl, rfl, rfl⟩

theorem witness_MonitorHoldAndResumeTaken :
    (∃ s : State, s.resetLow = false ∧ s.monitor.hold = .holdPending ∧ s.monitor.nextSample = some s.time.seconds) ∧
    (∃ (s : State) (tag : Tag) (n : Nat), s.takesNow 0x1E tag [] ∧ s.takesNow 0x1F tag [] ∧
      s.monitor.hold = .running ∧ s.monitor.nextSample = some n) ∧
    (∃ (s : State) (tag : Tag), s.takesNow 0x1E tag [] ∧ s.takesNow 0x1F tag [] ∧ s.monitor.hold = .held) ∧
    ∃ (s : State) (tag : Tag) (n : Nat), s.takesNow 0x1F tag [] ∧ s.monitor.hold = .holdPending ∧
      s.monitor.nextSample = some n :=
  ⟨⟨{ quiet with monitor := ⟨5, 180, 0, .holdPending, some 0⟩ }, rfl, rfl, rfl⟩,
    ⟨quiet, 1, 5, takes_at_once rfl rfl rfl (by decide), takes_at_once rfl rfl rfl (by decide), rfl, rfl⟩,
    ⟨{ quiet with monitor := ⟨5, 180, 0, .held, none⟩ }, 1, takes_at_once rfl rfl rfl (by decide),
      takes_at_once rfl rfl rfl (by decide), rfl⟩,
    { quiet with monitor := ⟨5, 180, 0, .holdPending, some 9⟩ }, 1, 9, takes_at_once rfl rfl rfl (by decide), rfl, rfl⟩

theorem witness_ParametersAreClamped :
    (∃ (s : State) (tag : Tag) (p : List Byte), parseTwo p = .ok (0, 721) ∧ s.takesNow 0x1D tag p) ∧
    (∃ (s : State) (tag : Tag) (g q d : Nat), g = 256 ∧ q = 64 ∧ d = 9 ∧ s.takesNow 0x22 tag (be 2 g ++ be 2 q ++ be 2 d)) ∧
    (∃ (s : State) (tag : Tag) (g q d : Nat), g = 257 ∧ q = 65 ∧ d < 65536 ∧
      s.takesNow 0x22 tag (be 2 g ++ be 2 q ++ be 2 d)) ∧
    ∀ n ∈ [(14, 15), (15, 15), (1439, 720), (1440, 1440), (65535, 1440)], ∃ (s : State) (tag : Tag), n.1 < 65536 ∧
      s.takesNow 0x2F tag (be 2 n.1) ∧ n.2 ∈ [15, 30, 60, 120, 180, 240, 360, 480, 720, 1440] ∧
      ((n.2 ≤ n.1 ∧ ∀ m ∈ [15, 30, 60, 120, 180, 240, 360, 480, 720, 1440], m ≤ n.1 → m ≤ n.2) ∨
        (n.1 < 15 ∧ n.2 = 15)) := by
  refine ⟨⟨quiet, 1, [0, 0, 2, 209], rfl, takes_at_once rfl rfl rfl (by decide)⟩,
    ⟨quiet, 1, 256, 64, 9, rfl, rfl, rfl, takes_at_once rfl rfl rfl (by decide)⟩,
    ⟨quiet, 1, 257, 65, 9, rfl, rfl, by decide, takes_at_once rfl rfl rfl (by decide)⟩, fun n hn => ?_⟩
  have hp : n.1 < 65536 ∧ n.2 ∈ [15, 30, 60, 120, 180, 240, 360, 480, 720, 1440] ∧
      ((n.2 ≤ n.1 ∧ ∀ m ∈ [15, 30, 60, 120, 180, 240, 360, 480, 720, 1440], m ≤ n.1 → m ≤ n.2) ∨
        (n.1 < 15 ∧ n.2 = 15)) := by
    revert n; decide
  exact ⟨quiet, 1, hp.1, takes_at_once rfl rfl rfl (by simp [be]), hp.2⟩

theorem witness_GuardSetForcesTheState : ∃ (s : State) (tag : Tag) (p : List Byte) (setting : GuardSetting),
    parseGuardSet p = .ok setting ∧ s.takesNow 0x21 tag p ∧ setting = .forceOn :=
  ⟨quiet, 1, [2], _, rfl, takes_at_once rfl rfl rfl (by decide), rfl⟩

/-- The second and the third evaluation in a row whose condition is false. -/
theorem witness_GuardEvaluationTable : ∀ n ∈ [1, 2], ∃ s : State, s.guard.setting = .auto ∧ s.guard.state = .guarded ∧
    s.guard.clearCount = n ∧ s.guard.gGroups = 0 ∧ s.guard.qGuard = 48 := fun n _ =>
  ⟨{ quiet with guard := ⟨.auto, .guarded, n, 0, 48, 2, none⟩ }, rfl, rfl, rfl, rfl, rfl⟩

theorem witness_AdvanceMovesTheClockInOrder :
    (∀ n ∈ [86398, 86399], ∃ s : State, s.resetLow = false ∧ s.secondUnfinished = false ∧ s.time.timeOfDay < 86400 ∧
      s.time.timeOfDay = n) ∧
    (∃ s : State, s.monitor.nextSample = some s.time.seconds) ∧ (∃ s : State, s.periods.boundaryWaiting = true) ∧
    (∃ (s : State) (h : Nat) (c : Call) (r : Rating), (h, c) ∈ s.calls ∧ c.answered = true ∧ c.rating = some r ∧
      r.nextDue = s.time.seconds) ∧
    (∃ (s : State) (t : Nat) (e : Tariff) (v : PendingVersion), (t, e) ∈ s.tariffs ∧ e.staged = some v ∧
      v.effective.reachedBy s.clock = true) ∧
    ∃ (s : State) (sw : Sweep), s.periods.sweep = some sw ∧ sw.visitBeforeAdvance = true := by
  refine ⟨fun n hn => ⟨{ quiet with time := ⟨0, n, 0⟩ }, rfl, rfl, ?_, rfl⟩,
    ⟨{ quiet with time := ⟨5, 0, 0⟩ }, rfl⟩,
    ⟨{ quiet with periods := { Periods.powerOn with boundaryWaiting := true } }, rfl⟩,
    ⟨rated, 0, ratedCall, ratingNow, List.mem_cons_self .., rfl, rfl, rfl⟩,
    ⟨{ quiet with tariffs := [(1, ⟨version, some ⟨version, ⟨0, 0⟩⟩⟩)] }, 1, _, _, List.mem_cons_self .., rfl, rfl⟩,
    { quiet with periods := { Periods.powerOn with sweep := some ⟨.request, 0, 0, 0, 0, false, true⟩ } }, _, rfl, rfl⟩
  revert n; decide

theorem witness_TariffsActivatedWhenReached :
    (∃ (s : State) (e : Nat × Tariff) (v : PendingVersion), s.resetLow = false ∧ Table.rising s.tariffs = true ∧
      e ∈ s.tariffs ∧ e.2.staged = some v ∧ v.effective = s.clock) ∧
    ∃ (s : State) (tag : Tag) (p : List Byte) (i : Instant), parseClockSet p = .ok i ∧ s.takesNow 0x24 tag p ∧
      Table.rising s.tariffs = true ∧ i = ⟨65535, 86399⟩ :=
  ⟨⟨{ quiet with tariffs := [(1, ⟨version, some ⟨version, ⟨0, 0⟩⟩⟩)] }, _, _, rfl, rfl, List.mem_cons_self .., rfl, rfl⟩,
    quiet, 1, [0, 1, 81, 127, 255, 255], _, rfl, takes_at_once rfl rfl rfl (by decide), rfl, rfl⟩

theorem witness_BandMapAndDrainModeWritten :
    (∃ (s : State) (tag : Tag) (bands : List Nat), bands.length = 48 ∧ (∀ b ∈ bands, b ≤ 3) ∧
      s.takesNow 0x26 tag (bands.flatMap (be 1))) ∧
    ∃ (s : State) (tag : Tag) (m : DrainMode), s.takesNow 0x34 tag [BitVec.ofNat 8 m.code] :=
  ⟨⟨quiet, 1, List.replicate 48 3, by decide, by decide, takes_at_once rfl rfl rfl (by decide)⟩,
    quiet, 1, .stream, takes_at_once rfl rfl rfl (by decide)⟩

/-- The payload of TARIFF WRITE: the tariff, the version, and the effective instant. -/
def tariffBytes (t : Nat) (effective : List Byte) : List Byte :=
  be 4 t ++ be 4 100 ++ be 4 60 ++ be 4 30 ++ be 4 1250 ++ be 4 800 ++ be 4 600 ++ be 4 400 ++ be 4 64 ++ be 4 80 ++
    be 4 96 ++ effective

/-- An absent instant, one just reached, and one that is a second away. -/
theorem witness_TariffWriteDispositions :
    (∃ (s : State) (tag : Tag) (p : List Byte) (tf : Nat) (v : Version), parseTariffWrite p = .ok (tf, v, none) ∧
      s.takesNow 0x28 tag p ∧ Table.find s.tariffs tf = none) ∧
    (∃ (s : State) (tag : Tag) (p : List Byte) (tf : Nat) (v : Version) (i : Instant) (e : Tariff),
      parseTariffWrite p = .ok (tf, v, some i) ∧ s.takesNow 0x28 tag p ∧ i.reachedBy s.clock = true ∧
      Table.find s.tariffs tf = some e) ∧
    (∃ (s : State) (tag : Tag) (p : List Byte) (tf : Nat) (v : Version) (i : Instant),
      parseTariffWrite p = .ok (tf, v, some i) ∧ s.takesNow 0x28 tag p ∧ i.reachedBy s.clock = false ∧
      Table.find s.tariffs tf = none) ∧
    (∃ (s : State) (tag : Tag) (p : List Byte) (tf : Nat) (v : Version) (i : Instant) (e : Tariff),
      parseTariffWrite p = .ok (tf, v, some i) ∧ s.takesNow 0x28 tag p ∧ i.reachedBy s.clock = false ∧
      Table.find s.tariffs tf = some e ∧ e.staged = none) ∧
    ∃ (s : State) (tag : Tag) (p : List Byte) (tf : Nat) (v : Version) (i : Instant) (e : Tariff)
      (old : PendingVersion), parseTariffWrite p = .ok (tf, v, some i) ∧ s.takesNow 0x28 tag p ∧
      i.reachedBy s.clock = false ∧ Table.find s.tariffs tf = some e ∧ e.staged = some old :=
  ⟨⟨quiet, 1, tariffBytes 255 [0], 255, version, rfl, takes_at_once rfl rfl rfl (by decide), rfl⟩,
    ⟨quiet, 1, tariffBytes 1 [1, 0, 0, 0, 0, 0, 0, 0, 0], 1, version, ⟨0, 0⟩, _, rfl,
      takes_at_once rfl rfl rfl (by decide), rfl, rfl⟩,
    ⟨quiet, 1, tariffBytes 2 [1, 0, 0, 0, 0, 0, 0, 0, 1], 2, version, ⟨0, 1⟩, rfl,
      takes_at_once rfl rfl rfl (by decide), rfl, rfl⟩,
    ⟨quiet, 1, tariffBytes 1 [1, 0, 0, 0, 0, 0, 0, 0, 1], 1, version, ⟨0, 1⟩, _, rfl,
      takes_at_once rfl rfl rfl (by decide), rfl, rfl, rfl⟩,
    { quiet with tariffs := [(1, ⟨version, some ⟨version, ⟨9, 0⟩⟩⟩)] }, 1, tariffBytes 1 [1, 0, 0, 0, 0, 0, 0, 0, 1], 1,
      version, ⟨0, 1⟩, _, _, rfl, takes_at_once rfl rfl rfl (by decide), rfl, rfl, rfl⟩

theorem witness_TariffCancelAndDelete :
    (∃ (s : State) (tag : Tag) (p : List Byte) (tf : Nat) (e : Tariff), parseIndex 255 p = .ok tf ∧
      Table.find s.tariffs tf = some e ∧ s.takesNow 0x29 tag p ∧ s.takesNow 0x2A tag p ∧ e.staged = none ∧
      ∃ x ∈ s.groups, x.2.defn.tariff = some tf) ∧
    ∃ (s : State) (tag : Tag) (p : List Byte) (tf : Nat) (e : Tariff) (v : PendingVersion), parseIndex 255 p = .ok tf ∧
      Table.find s.tariffs tf = some e ∧ s.takesNow 0x29 tag p ∧ s.takesNow 0x2A tag p ∧ e.staged = some v ∧
      (∀ x ∈ s.groups, x.2.defn.tariff ≠ some tf) ∧ ∀ x ∈ s.calls, ∀ r, x.2.rating = some r → r.tariff ≠ tf :=
  ⟨⟨quiet, 1, [1], 1, _, rfl, rfl, takes_at_once rfl rfl rfl (by decide), takes_at_once rfl rfl rfl (by decide), rfl,
      _, List.mem_cons_self .., rfl⟩,
    { quiet with tariffs := [(255, ⟨version, some ⟨version, ⟨9, 0⟩⟩⟩)] }, 1, [255], 255, _, _, rfl, rfl,
      takes_at_once rfl rfl rfl (by decide), takes_at_once rfl rfl rfl (by decide), rfl, by decide,
      fun x hx => absurd hx List.not_mem_nil⟩

/-- The payload of CARRIER WRITE: ACTIVE, a cap, the enable on. -/
def carrierBytes (c : Byte) (cap : Nat) : List Byte := [c, 1] ++ be 8 cap ++ [1]

/-- A carrier with 1,000 SU charged this period. -/
def charged (s : State) : State :=
  { s with carriers := [(0, Carrier.home), (63, { carrierOf 0 with account := { Account.zero with accumulator := 1000 } })] }

/-- Carrier 0, a new carrier, and caps of 1,000 and 1,001 on an accumulator of 1,000. -/
theorem witness_CarriersWrittenAndDeleted :
    (∃ (s : State) (tag : Tag) (p : List Byte) (o : CarrierOperands), parseCarrierWrite p = .ok o ∧
      s.takesNow 0x2C tag p ∧ o.carrier = 0) ∧
    (∃ (s : State) (tag : Tag) (p : List Byte) (o : CarrierOperands), parseCarrierWrite p = .ok o ∧
      s.takesNow 0x2C tag p ∧ o.carrier ≠ 0 ∧ Table.find s.carriers o.carrier = none) ∧
    (∀ cap ∈ [1000, 1001], ∃ (s : State) (tag : Tag) (p : List Byte) (o : CarrierOperands) (k : Carrier),
      parseCarrierWrite p = .ok o ∧ s.takesNow 0x2C tag p ∧ o.carrier ≠ 0 ∧
      Table.find s.carriers o.carrier = some k ∧ o.cap = cap ∧ k.account.accumulator = 1000) ∧
    (∃ (s : State) (tag : Tag) (p : List Byte) (c : Nat) (k : Carrier), parseIndex 63 p = .ok c ∧
      s.takesNow 0x2D tag p ∧ c ≠ 0 ∧ Table.find s.carriers c = some k ∧ 0 < k.openCalls) ∧
    (∃ (s : State) (tag : Tag) (p : List Byte) (c : Nat) (k : Carrier), parseIndex 63 p = .ok c ∧
      s.takesNow 0x2D tag p ∧ c ≠ 0 ∧ Table.find s.carriers c = some k ∧ k.openCalls = 0 ∧
      ∀ e ∈ s.groups, e.2.defn.carrier ≠ c) ∧
    ∃ (s : State) (tag : Tag) (p : List Byte), parseIndex 63 p = .ok 0 ∧ s.takesNow 0x2D tag p := by
  refine ⟨⟨quiet, 1, carrierBytes 0 0, ⟨0, .active, 0, true⟩, rfl, takes_at_once rfl rfl rfl (by decide), rfl⟩,
    ⟨quiet, 1, carrierBytes 2 max48, ⟨2, .active, max48, true⟩, rfl, takes_at_once rfl rfl rfl (by decide), by decide,
      rfl⟩, fun cap hc => ?_,
    ⟨rated, 1, [1], 1, _, rfl, takes_at_once rfl rfl rfl (by decide), by decide, rfl, by decide⟩,
    ⟨charged quiet, 1, [63], 63, _, rfl, takes_at_once rfl rfl rfl (by decide), by decide, rfl, rfl, by decide⟩,
    quiet, 1, [0], rfl, takes_at_once rfl rfl rfl (by decide)⟩
  refine ⟨charged quiet, 1, carrierBytes 63 cap, ⟨63, .active, cap, true⟩, _, ?_,
    takes_at_once rfl rfl rfl (by simp [carrierBytes, be]), by simp, rfl, rfl, rfl⟩
  simp only [List.mem_cons, List.not_mem_nil, or_false] at hc
  rcases hc with rfl | rfl <;> rfl

/-- A sweep at a handle, in period 1 with period 0 closed. -/
def sweeping (s : State) (handle : Nat) : State :=
  { s with periods := { number := 1, length := 1440, closed := some 0,
                        sweep := some ⟨.request, handle, 0, 0, 0, false, false⟩, deferred := false,
                        boundaryWaiting := true } }

theorem witness_PeriodClosesStart :
    (∃ (s : State) (tag : Tag), s.takesNow 0x30 tag [] ∧ s.periods.sweep.isSome = true) ∧
    (∃ (s : State) (tag : Tag), s.takesNow 0x30 tag [] ∧ s.periods.sweep = none) ∧
    (∃ s : State, s.resetLow = false ∧ s.periods.boundaryWaiting = true ∧ s.periods.sweep.isSome = true) ∧
    ∃ s : State, s.resetLow = false ∧ s.periods.boundaryWaiting = true ∧ s.periods.sweep = none :=
  ⟨⟨sweeping rated 0, 1, ⟨rfl, by decide, by decide, rfl, .inr ⟨rfl, rfl⟩⟩, rfl⟩,
    ⟨rated, 1, takes_at_once rfl rfl rfl (by decide), rfl⟩, ⟨sweeping rated 0, rfl, rfl, rfl⟩,
    { rated with periods := { Periods.powerOn with boundaryWaiting := true } }, rfl, rfl, rfl⟩

/-- A visit that passes handle 8,190 or 8,191 by, with and without a deferred boundary; one that catches up a stale call
on either, into a queue of 2,047 records or of 2,048; and one that owes nothing. -/
theorem witness_SweepVisitsTheHandles :
    (∀ handle ∈ [8190, 8191], ∀ deferred, ∃ (s : State) (sw : Sweep), s.resetLow = false ∧
      s.periods.sweep = some sw ∧ sw.nextHandle = handle ∧ s.call handle = none ∧ s.periods.deferred = deferred ∧
      s.periods.closed = some 0) ∧
    (∀ handle ∈ [8190, 8191], ∀ n ∈ [2047, 2048], ∃ (s : State) (sw : Sweep) (c : Call) (r : Rating) (k : Carrier),
      s.resetLow = false ∧ s.periods.sweep = some sw ∧ sw.nextHandle = handle ∧
      s.call sw.nextHandle = some c ∧ c.rating = some r ∧ s.periods.closed = some r.mark ∧
      r.mark ≠ s.periods.number ∧ 0 < r.charge ∧ s.records.queue.length = n ∧ s.periods.deferred = false ∧
      Table.find s.carriers c.carrier = some k) ∧
    ∃ (s : State) (sw : Sweep) (c : Call) (r : Rating) (k : Carrier), s.resetLow = false ∧
      s.periods.sweep = some sw ∧ sw.nextHandle < 8191 ∧ s.call sw.nextHandle = some c ∧ c.rating = some r ∧
      s.periods.closed = some r.mark ∧ r.mark ≠ s.periods.number ∧ r.charge = 0 ∧ r.billed = 0 ∧
      Table.find s.carriers c.carrier = some k := by
  refine ⟨fun handle _ deferred => ⟨{ sweeping quiet handle with
      periods := { (sweeping quiet handle).periods with deferred := deferred } }, _, rfl, rfl, rfl, rfl, rfl, rfl⟩,
    fun handle hh n _ => ?_, ?_⟩
  · refine ⟨full (sweeping (exchange [(0, trunk 0 (.outgoing handle))] 1 0 [(handle, ratedCall)]) handle) n, _,
      ratedCall, ratingNow, carrierOf 1, rfl, rfl, rfl, ?_, rfl, rfl, (by decide : 0 ≠ 1), by decide, full_length _ _,
      rfl, rfl⟩
    simp only [List.mem_cons, List.not_mem_nil, or_false] at hh
    rcases hh with rfl | rfl <;> rfl
  · let r := { ratingNow with charge := 0, billed := 0 }
    exact ⟨sweeping (exchange busyCircuits 1 0 [(0, { ratedCall with rating := some r })]) 0, _,
      { ratedCall with rating := some r }, r, carrierOf 1, rfl, rfl, by decide, rfl, rfl, rfl, by decide, rfl, rfl, rfl⟩

theorem witness_PeriodReportMarksRead : ∃ (s : State) (tag : Tag), s.takesNow 0x31 tag [] :=
  ⟨rated, 1, takes_at_once rfl rfl rfl (by decide)⟩

/-- A queue of 2,047 records takes one more, and one of 2,048 drops it. -/
theorem witness_RecordsAppendedOrDropped : ∀ n ∈ [2047, 2048], ∃ (s : State) (r : Record) (k : Carrier),
    Table.find s.carriers r.carrier = some k ∧ s.records.queue.length = n := fun n _ =>
  ⟨{ rated with records := { RecordQueue.powerOn with
      queue := List.replicate n (ratedCall.record 0 ratingNow none) } }, ratedCall.record 0 ratingNow none, _, rfl,
    List.length_replicate⟩

theorem witness_ThresholdsEvaluatedAtOnce : ∃ (s : State) (tag : Tag) (ae af : Nat), ae < 65536 ∧ af < 65536 ∧
    s.takesNow 0x33 tag (be 2 ae ++ be 2 af) ∧ ae = 2047 ∧ af = 2048 :=
  ⟨quiet, 1, 2047, 2048, by decide, by decide, takes_at_once rfl rfl rfl (by decide), rfl, rfl⟩

/-- A queue of one record, in a mode. -/
def recorded (m : DrainMode) (sent : Option Message) : State :=
  { rated with
    records := { RecordQueue.powerOn with queue := [ratedCall.record 0 ratingNow none], mode := m }
    link := { Link.powerOn with transmitter := sent } }

theorem witness_RecordFetchTakesTheOldest : ∀ m ∈ [DrainMode.batch, .stream], ∀ n ∈ [0, 32, 33],
    ∃ (s : State) (tag : Tag), n < 65536 ∧ s.takesNow 0x32 tag (be 2 n) ∧ s.records.mode = m := by
  intro m _ n hn
  have h : n < 65536 := by revert n; decide
  exact ⟨recorded m none, 1, h, takes_at_once rfl rfl rfl (by simp [be]), rfl⟩

theorem witness_RecordNoticesSendTheQueue :
    (∃ (s : State) (r : Record) (rest : List Record), s.resetLow = false ∧ s.link.transmitter = none ∧
      s.link.sendList = [] ∧ s.records.mode = .stream ∧ s.records.queue = r :: rest) ∧
    ∃ s : State, s.resetLow = false ∧ s.recordInTransmission = true :=
  ⟨⟨recorded .stream none, _, _, rfl, rfl, rfl, rfl, rfl⟩,
    recorded .stream (some ⟨codeRecord, 0, .noticeRecord (ratedCall.record 0 ratingNow none) 0⟩), rfl, rfl⟩

theorem witness_MessagesBeginAndEnd :
    (∃ (s : State) (m : Message) (rest : List Message), s.resetLow = false ∧ s.link.transmitter = none ∧
      s.link.sendList = m :: rest) ∧
    ∃ s : State, s.resetLow = false ∧ s.recordInTransmission = false ∧ s.link.transmitter.isSome = true :=
  ⟨⟨queued 0 1, _, _, rfl, rfl, rfl⟩, recorded .batch (some ⟨0, 0, .result .ok⟩), rfl, rfl, rfl⟩

/-- A space of 19 ms and one of 20 ms, in one stretch and in two. -/
theorem witness_LinkBreakRestartsTheLink :
    (∀ m ∈ [(0, 19), (19, 0), (0, 20), (19, 1)], ∃ (s : State) (ms : Nat), s.resetLow = false ∧
      s.link.lineBroken = false ∧ (s.link.spaceMs, ms) = m ∧ s.records.lost ≤ max32 ∧
      s.recordInTransmission = true ∧ s.records.queue ≠ []) ∧
    ∃ s : State, s.resetLow = false ∧ s.link.lineBroken = true := by
  refine ⟨fun m _ => ?_, { quiet with link := { Link.powerOn with lineBroken := true } }, rfl, rfl⟩
  let s := recorded .stream (some ⟨codeRecord, 0, .noticeRecord (ratedCall.record 0 ratingNow none) 0⟩)
  exact ⟨{ s with link := { s.link with spaceMs := m.1 } }, m.2, rfl, rfl, rfl, (by decide : 0 ≤ max32), rfl,
    List.cons_ne_nil _ _⟩

/-- A message being assembled, of a length. -/
def assembling (n : Nat) : State :=
  { quiet with link := { Link.powerOn with
      assembly := some { type := 0, tag := 5, payload := List.replicate n 0, overlong := false } } }

/-- A payload of 4,096 bytes into a queue of 63 requests, alone, in place of another assembly and as the last byte of
one; lengths of 2 and 1,028; and contents of 3 and 1,027 bytes whose CRC is another. -/
theorem witness_ReceiverJudgesFrames :
    (∃ (s : State) (type : Byte) (payload : List Byte), isMessageType type = true ∧ payload.length ≤ 4096 ∧
      payload.length = 4096 ∧ s.resetLow = false ∧ s.link.lineBroken = false ∧ s.link.received = [] ∧
      s.link.assembly = none ∧ s.link.requests.length < 64 ∧ s.link.requests.length = 63) ∧
    (∀ type ∈ [(0 : Byte), 1], ∃ (s : State) (tag : Tag) (payload : List Byte) (a : Request),
      isMessageType type = true ∧ payload.length = 1 ∧ s.resetLow = false ∧ s.link.lineBroken = false ∧
      s.link.received = [] ∧ s.link.requests.length < 64 ∧ s.link.assembly = some a ∧ a.type = 0 ∧ a.tag = tag ∧
      a.payload.length + payload.length = 4096) ∧
    (∀ n ∈ [(0, 2), (4, 4)], ∃ (s : State) (h l : Byte) (rest : List Byte), s.resetLow = false ∧
      s.link.lineBroken = false ∧ s.link.received = [] ∧
      (h.toNat * 256 + l.toNat < 3 ∨ 1027 < h.toNat * 256 + l.toNat) ∧ h ≠ 0xC3 ∧ l ≠ 0xC3 ∧
      (∀ b ∈ rest, b ≠ 0xC3) ∧ (h.toNat, l.toNat) = n) ∧
    ∃ (s : State) (h l : Byte) (content : List Byte) (c d : Byte), s.resetLow = false ∧
      s.link.lineBroken = false ∧ s.link.received = [] ∧ h.toNat * 256 + l.toNat = content.length ∧
      3 ≤ content.length ∧ content.length ≤ 1027 ∧ c.toNat * 256 + d.toNat ≠ (crc (h :: l :: content)).toNat ∧
      (∀ b ∈ h :: l :: content ++ [c, d], b ≠ 0xC3) ∧ content.length = 3 := by
  refine ⟨⟨queued 63 0, 0x00, List.replicate 4096 0, by decide, ?_, ?_, rfl, rfl, rfl, rfl, by decide, by decide⟩,
    fun type ht => ⟨assembling 4095, 5, [0], _, ?_, rfl, rfl, rfl, rfl, by decide, rfl, rfl, rfl, ?_⟩,
    fun n hn => ?_, quiet, 0, 3, [0, 0, 1], 0, 0, rfl, rfl, rfl, rfl, by decide, by decide, by decide, by decide, rfl⟩
  · rw [List.length_replicate]
  · rw [List.length_replicate]
  · revert type; decide
  · rw [List.length_replicate]; rfl
  · simp only [List.mem_cons, List.not_mem_nil, or_false] at hn
    rcases hn with rfl | rfl
    · exact ⟨quiet, 0, 2, [0, 1], rfl, rfl, rfl, .inl (by decide), by decide, by decide, by decide, rfl⟩
    · exact ⟨quiet, 4, 4, [0, 1], rfl, rfl, rfl, .inr (by decide), by decide, by decide, by decide, rfl⟩

theorem witness_WireLayouts : ∃ m : Message, m.code < 64 ∧ m.body.payload.length ≤ 1024 ∧ m.code = 63 :=
  ⟨⟨codeRecord, 0, .noticeRecord (ratedCall.record 0 ratingNow none) 0⟩, by decide, by decide, rfl⟩

/-- A restart with an answered call, into a queue of 2,047 records; and one in a sweep on handle 8,191 with a deferred
boundary. -/
theorem witness_DeviceRestartClearsRunningState :
    (∃ (s : State) (tag : Tag), s.takesNow 0x03 tag [] ∧ s.periods.sweep = none ∧ s.TablesSound ∧
      (∀ e ∈ s.calls, ∀ r, e.2.rating = some r → r.mark = s.periods.number) ∧
      s.records.queue.length + (s.calls.filter fun e => e.2.answered && e.2.rating.isSome).length = 2048 ∧
      (s.calls.filter fun e => e.2.answered && e.2.rating.isSome) ≠ []) ∧
    ∃ (s : State) (tag : Tag) (sw : Sweep), s.takesNow 0x03 tag [] ∧ s.periods.Sound ∧ s.periods.sweep = some sw ∧
      sw.nextHandle = 8191 ∧ s.periods.deferred = true := by
  refine ⟨⟨full (watched rated [0]) 2047, 1, takes_at_once rfl rfl rfl (by decide), rfl,
      ⟨by decide, by decide, by decide, by decide, by decide, by decide, by decide, by decide, by decide⟩, ?_, ?_,
      List.cons_ne_nil _ _⟩,
    { sweeping rated 8191 with periods := { (sweeping rated 8191).periods with deferred := true } }, 1, _,
    ⟨rfl, by decide, by decide, rfl, .inr ⟨rfl, rfl⟩⟩, ⟨by decide, by decide, fun _ => rfl, fun sw hs => ?_⟩, rfl, rfl,
    rfl⟩
  · intro e he r hr
    obtain rfl : e = (0, ratedCall) := List.mem_singleton.mp he
    cases hr
    rfl
  · rw [full_length]; rfl
  · cases hs; decide

theorem witness_ReadingRequestsOnlyReply :
    (∃ (s : State) (tag : Tag) (p : List Byte) (g : Nat) (grp : Group), parseIndex 255 p = .ok g ∧
      Table.find s.groups g = some grp ∧ s.takesNow 0x0B tag p ∧ s.takesNow 0x10 tag p ∧
      (Table.find s.tariffs g).isSome = true ∧ s.takesNow 0x2B tag p ∧ parseIndex 63 p = .ok g ∧
      (Table.find s.carriers g).isSome = true ∧ s.takesNow 0x2E tag p) ∧
    (∃ (s : State) (tag : Tag) (p : List Byte) (d x : List Nat) (plan : Nat), parseDigits p = .ok d ∧
      s.lookup d = .routed x plan ∧ s.takesNow 0x13 tag p) ∧
    (∃ (s : State) (tag : Tag) (p : List Byte) (d : List Nat), parseDigits p = .ok d ∧ s.lookup d = .noMatch ∧
      s.takesNow 0x13 tag p) ∧
    (∃ (s : State) (tag : Tag) (p : List Byte) (d x : List Nat) (plan : Nat), parseDigits p = .ok d ∧
      s.lookup d = .planUndefined x plan ∧ s.takesNow 0x13 tag p) ∧
    (∃ (s : State) (tag : Tag) (p : List Byte) (n : Nat) (x : Plan) (c : Call), parsePlan p = .ok n ∧
      Table.find s.plans n = some x ∧ s.takesNow 0x16 tag p ∧ parseHandle p = .ok n ∧ s.call n = some c ∧
      s.takesNow 0x1B tag p) ∧
    (∀ b ∈ [(1 : Byte), 2], ∃ (s : State) (tag : Tag) (g : Nat) (clear : Bool) (grp : Group),
      parseGroupReport [0, b] = .ok (g, clear) ∧ s.takesNow 0x1C tag [0, b] ∧ Table.find s.groups g = some grp ∧
      clear = (b == 2)) ∧
    (∃ (s : State) (tag : Tag), ∀ type, s.takesNow type tag []) ∧
    (∃ (x : Plan) (i : Nat) (e : PlanEntry), x.entries[i]? = some e ∧ e.role = .alternate ∧ 0 < i) ∧
    ∃ (s : State) (e : Nat × Tariff) (v : PendingVersion), e ∈ s.tariffs ∧ e.2.staged = some v :=
  ⟨⟨rated, 1, [1], 1, _, rfl, rfl, takes_at_once rfl rfl rfl (by decide), takes_at_once rfl rfl rfl (by decide), rfl,
      takes_at_once rfl rfl rfl (by decide), rfl, rfl, takes_at_once rfl rfl rfl (by decide)⟩,
    ⟨rated, 1, [3, 4, 4, 7], [4, 4, 7], [4, 4], 0, rfl, by decide, takes_at_once rfl rfl rfl (by decide)⟩,
    ⟨rated, 1, [1, 5], [5], rfl, by decide, takes_at_once rfl rfl rfl (by decide)⟩,
    ⟨rated, 1, [1, 4], [4], [4], 9, rfl, by decide, takes_at_once rfl rfl rfl (by decide)⟩,
    ⟨rated, 1, [0, 0], 0, _, ratedCall, rfl, rfl, takes_at_once rfl rfl rfl (by decide), rfl, rfl,
      takes_at_once rfl rfl rfl (by decide)⟩,
    fun b hb => ⟨rated, 1, 0, b == 2, _, by revert b; decide, takes_at_once rfl rfl rfl (by simp), rfl, rfl⟩,
    ⟨rated, 1, fun _ => takes_at_once rfl rfl rfl (by decide)⟩,
    ⟨{ entries := [⟨0, .first⟩, ⟨1, .alternate⟩], ceiling := none, sticky := some 0 }, 1, _, rfl, rfl, by decide⟩,
    { quiet with tariffs := [(1, ⟨version, some ⟨version, ⟨9, 0⟩⟩⟩)] }, _, _, List.mem_cons_self .., rfl⟩

/-- The rated call, and an incoming seizure that drains. -/
def running : State :=
  { watched (exchange [(0, trunk 0 (.outgoing 0)), (1, trunk 0 .incoming), (32, trunk 1 .idle), (33, trunk 1 .idle)] 2 0
      [(0, ratedCall)]) [1] with pending := [.increment 0] }

theorem running_circuit : ∀ n, n ∉ [0, 1, 32, 33] → running.circuit n = Circuit.powerOn := by
  intro n hn
  simp only [List.mem_cons, List.not_mem_nil, or_false, not_or] at hn
  simp [State.circuit, running, watched, exchange, Table.find, Ne.symm hn.1, Ne.symm hn.2.1, Ne.symm hn.2.2.1,
    Ne.symm hn.2.2.2]

theorem running_group : ∀ g, g ∉ [0, 1] → Table.find running.groups g = none := by
  intro g hg
  simp only [List.mem_cons, List.not_mem_nil, or_false, not_or] at hg
  simp [running, watched, exchange, Table.find, Ne.symm hg.1, Ne.symm hg.2]

theorem running_call : ∀ h, h ≠ 0 → running.call h = none := by
  intro h hh
  simp [State.call, running, watched, exchange, Table.find, Ne.symm hh]

theorem running_callsAgree : running.CallsAgree := by
  refine ⟨fun n h => ⟨fun hu => ?_, fun ⟨c, hc, hn⟩ => ?_⟩, fun h hc => ?_⟩
  · by_cases hn : n ∈ [0, 1, 32, 33]
    · simp only [List.mem_cons, List.not_mem_nil, or_false] at hn
      rcases hn with rfl | rfl | rfl | rfl <;> cases hu
      exact ⟨ratedCall, rfl, rfl⟩
    · rw [running_circuit n hn] at hu; cases hu
  · by_cases hh : h = 0
    · subst hh; cases hc; subst hn; rfl
    · rw [running_call h hh] at hc; cases hc
  · by_cases hh : h = 0
    · subst hh; decide
    · exact absurd (running_call h hh) hc

theorem running_groupsAgree : running.GroupsAgree := by
  refine ⟨fun n g => ⟨fun hg => ?_, fun ⟨grp, hf, hm⟩ => ?_⟩, fun n hu hg => ?_, fun g grp hf => ?_⟩
  · by_cases hn : n ∈ [0, 1, 32, 33]
    · simp only [List.mem_cons, List.not_mem_nil, or_false] at hn
      rcases hn with rfl | rfl | rfl | rfl <;> cases hg <;> exact ⟨_, rfl, by decide⟩
    · rw [running_circuit n hn] at hg; cases hg
  · by_cases hg : g ∈ [0, 1]
    · simp only [List.mem_cons, List.not_mem_nil, or_false] at hg
      rcases hg with rfl | rfl <;> cases hf <;>
        simp only [groupOf, Group.fresh, List.mem_cons, List.not_mem_nil, or_false] at hm <;>
        rcases hm with rfl | rfl <;> rfl
    · rw [running_group g hg] at hf; cases hf
  · by_cases hn : n ∈ [0, 1, 32, 33]
    · simp only [List.mem_cons, List.not_mem_nil, or_false] at hn
      rcases hn with rfl | rfl | rfl | rfl <;> cases hg
    · rw [running_circuit n hn] at hu; exact hu rfl
  · by_cases hg : g ∈ [0, 1]
    · simp only [List.mem_cons, List.not_mem_nil, or_false] at hg
      rcases hg with rfl | rfl <;> cases hf <;> decide
    · rw [running_group g hg] at hf; cases hf

theorem running_watchesAgree : running.WatchesAgree := by
  intro m w hw
  by_cases hm : m = 0
  · subst hm; cases hw; decide
  · simp [State.span, running, watched, Table.find, Ne.symm hm, Span.powerOn] at hw

/-- A state that is sound, and a step from it. -/
theorem witness_invariants : ∃ s t : State, s.Sound ∧ step s = .next t ∧ s.calls ≠ [] := by
  refine ⟨running, _, ⟨?_, ?_, ?_, ?_, ?_, ?_, ?_, running_callsAgree, running_groupsAgree, running_watchesAgree⟩, rfl,
    by decide⟩
  · exact ⟨by decide, by decide, by decide, rfl, rfl⟩
  · exact ⟨by decide, fun r hr => absurd hr List.not_mem_nil, fun r hr => (nomatch hr), by decide⟩
  · exact ⟨by decide, by decide, by decide, by decide, by decide⟩
  · exact ⟨by decide, by decide, by decide, by decide, by decide, by decide, by decide, by decide⟩
  · exact ⟨by decide, by decide, fun h => (Bool.false_ne_true h).elim, fun sw hs => nomatch hs⟩
  · intro h c r hc hr
    have hm : (h, c) = (0, ratedCall) := List.mem_singleton.mp hc
    cases hm
    cases hr
    exact ⟨by decide, by decide, by decide, by decide, by decide⟩
  · exact ⟨by decide, by decide, by decide, by decide, by decide, by decide, by decide, by decide, by decide⟩

end Sys2Proof.Tests
end

section
/-! PROOFS. Block flags (R5, R6, R13, R14): a request that writes circuit records alone, the mode byte of a CIRCUIT
BLOCK, and the statement BlockFlagsWritten. -/

namespace Sys2Proof.Machine

open Sys2Proof

/-! ### One rewriting of many circuits -/

/-- A rewriting of the circuits of a list touches the circuits alone. -/
theorem State.foldl_setCircuit_frame (f : Circuit → Circuit) (ns : List Nat) (s : State) :
    ∃ cs, ns.foldl (fun s n => s.setCircuit n (f (s.circuit n))) s = { s with circuits := cs } := by
  induction ns generalizing s with
  | nil => exact ⟨s.circuits, rfl⟩
  | cons n ns ih =>
    obtain ⟨cs, h⟩ := ih (s.setCircuit n (f (s.circuit n)))
    exact ⟨cs, h⟩

/-- A rewriting that a second pass leaves alone reaches every circuit of the list once. -/
theorem State.circuit_foldl_setCircuit {f : Circuit → Circuit} (hf : ∀ c, f (f c) = f c) (ns : List Nat) (s : State)
    (m : Nat) :
    (ns.foldl (fun s n => s.setCircuit n (f (s.circuit n))) s).circuit m =
      if m ∈ ns then f (s.circuit m) else s.circuit m := by
  induction ns generalizing s with
  | nil => rfl
  | cons n ns ih =>
    rw [List.foldl_cons, ih, State.circuit_setCircuit]
    by_cases hmn : m = n
    · simp [hmn, hf]
    · simp [hmn]

/-! ### A request that writes circuit records alone -/

/-- A request taken at once that writes circuit records alone: the answer, with the circuits it wrote. -/
theorem State.serve_circuits {s : State} {type : Byte} {tag : Tag} {payload : List Byte}
    (h : s.takesNow type tag payload) {run : List Byte → State → Body × State} {body : Body}
    {cs : List (Nat × Circuit)}
    (hr : run payload s.dropHeadRequest.withoutMessages =
      (body, { s.dropHeadRequest.withoutMessages with circuits := cs })) :
    s.serve type tag payload run = { s.answer (type &&& 0x3F).toNat tag body with circuits := cs } := by
  rw [State.serve_of_takesNow h, hr]
  simp [State.sendFirst, State.oweVisitToRequests, State.answer, State.dropHeadRequest, State.withoutMessages]

/-- A request taken at once that rewrites every circuit in a list and replies: what stands in the circuits, and
that the rest is the answer. -/
theorem State.serve_rewrites {s : State} {type : Byte} {tag : Tag} {payload : List Byte}
    (h : s.takesNow type tag payload) {f : Circuit → Circuit} (hf : ∀ c, f (f c) = f c) (body : Body) (ns : List Nat) :
    let t := s.serve type tag payload fun _ s =>
      (body, ns.foldl (fun s n => s.setCircuit n (f (s.circuit n))) s)
    (∀ n, t.circuit n = if n ∈ ns then f (s.circuit n) else s.circuit n) ∧
      { t with circuits := s.circuits } = s.answer (type &&& 0x3F).toNat tag body := by
  obtain ⟨cs, hcs⟩ := State.foldl_setCircuit_frame f ns s.dropHeadRequest.withoutMessages
  intro t
  have ht : t = { s.answer (type &&& 0x3F).toNat tag body with circuits := cs } :=
    State.serve_circuits h (congrArg (Prod.mk body) hcs)
  constructor
  · intro n
    have hread : t.circuit n =
        State.circuit { s.dropHeadRequest.withoutMessages with circuits := cs } n := by rw [ht]; rfl
    rw [hread, ← hcs, State.circuit_foldl_setCircuit hf, State.circuit_start]
  · rw [ht]; rfl

/-! ### The mode byte of a CIRCUIT BLOCK -/

/-- The code of a mode reads as that mode and no other (R5, R194). -/
theorem blockModeOf_code (m : BlockMode) : blockModeOf m.code.toNat = some m := by cases m <;> rfl

/-- A number that reads is the leading bytes, and the bytes after them are left (R194). -/
theorem readNum_some {n v : Nat} {bs rest : List Byte} (h : readNum n bs = some (v, rest)) :
    v = bytesToNat (bs.take n) ∧ rest = bs.drop n := by
  unfold readNum at h
  split at h
  · cases h
  · cases h; exact ⟨rfl, rfl⟩

/-- A payload that reads as a CIRCUIT BLOCK has its mode alone after the scope and the target (R5). -/
theorem parseBlock_mode {p : List Byte} {sc : Scope} {m : BlockMode} (h : parseBlock p = .ok (sc, m)) :
    blockModeOf (bytesToNat ((p.drop 3).take 1)) = some m := by
  obtain ⟨⟨scope, target, mode⟩, hread, h⟩ := whole_bind_ok h
  have hmode : blockModeOf mode = some m := by
    dsimp only at h
    cases hs : scopeOf scope target with
    | error r => rw [hs] at h; cases h
    | ok sc' =>
      rw [hs] at h
      obtain ⟨m', hm, h⟩ := named_bind_ok h
      cases h; exact hm
  obtain ⟨⟨a, bs⟩, hscope, hread⟩ := Option.bind_eq_some_iff.mp hread
  obtain ⟨⟨t, cs⟩, htarget, hread⟩ := Option.bind_eq_some_iff.mp hread
  obtain ⟨⟨v, ds⟩, hlast, hread⟩ := Option.bind_eq_some_iff.mp hread
  cases hread
  have hbs : bs = p.drop 1 := (readNum_some hscope).2
  have hcs : cs = p.drop 3 := by rw [(readNum_some htarget).2, hbs, List.drop_drop]
  rw [← hmode, (readNum_some hlast).1, hcs]

/-- A CIRCUIT BLOCK that reads belongs to the row of its own mode (R5). -/
theorem namesOtherMode_of_parseBlock {p : List Byte} {sc : Scope} {m : BlockMode} (h : parseBlock p = .ok (sc, m)) :
    namesOtherMode m p = false := by
  have hm := parseBlock_mode h
  have hother : ∀ m' : BlockMode, m' ≠ m → p[3]? ≠ some m'.code := by
    intro m' hne hb
    obtain ⟨hlt, hget⟩ := List.getElem?_eq_some_iff.mp hb
    rw [List.drop_eq_getElem_cons hlt, hget, List.take_succ_cons, List.take_zero] at hm
    have hbyte : bytesToNat [m'.code] = m'.code.toNat := by simp [bytesToNat]
    rw [hbyte, blockModeOf_code] at hm
    exact hne (Option.some.inj hm)
  simp only [namesOtherMode, Bool.and_eq_false_iff, List.any_eq_false, Bool.and_eq_true, bne_iff_ne, beq_iff_eq,
    not_and]
  exact .inr fun m' _ => hother m'

/-! ### The three commands -/

/-- A PLAIN block that is taken rewrites the circuits in scope (R6). -/
theorem exec_circuitBlockPlain_of_parse {s : State} {tag : Tag} {p : List Byte} {sc : Scope}
    (hp : parseBlock p = .ok (sc, .plain)) (h : s.takesNow 0x04 tag p) :
    exec (.circuitBlockPlain tag p) s = .next (s.serve 0x04 tag p fun _ s => blockPlain sc s) := by
  have hexec : exec (.circuitBlockPlain tag p) s = execCircuitBlockPlain tag p s := rfl
  rw [hexec, execCircuitBlockPlain, namesOtherMode_of_parseBlock hp, if_neg Bool.false_ne_true, request,
    State.serve_operands h hp fun s o => blockPlain o.1 s]

/-- A REMOTE BLOCK that is taken writes the remote blocks in scope (R13). -/
theorem exec_remoteBlock_of_parse {s : State} {tag : Tag} {p : List Byte} {sc : Scope}
    (hp : parseScope p = .ok sc) (h : s.takesNow 0x06 tag p) :
    exec (.remoteBlock tag p) s = .next (s.serve 0x06 tag p fun _ s => setRemote true sc s) := by
  have hexec : exec (.remoteBlock tag p) s = execRemoteBlock tag p s := rfl
  rw [hexec, execRemoteBlock, request, State.serve_operands h hp fun s sc => setRemote true sc s]

/-- A REMOTE UNBLOCK that is taken writes the remote blocks in scope (R14). -/
theorem exec_remoteUnblock_of_parse {s : State} {tag : Tag} {p : List Byte} {sc : Scope}
    (hp : parseScope p = .ok sc) (h : s.takesNow 0x07 tag p) :
    exec (.remoteUnblock tag p) s = .next (s.serve 0x07 tag p fun _ s => setRemote false sc s) := by
  have hexec : exec (.remoteUnblock tag p) s = execRemoteUnblock tag p s := rfl
  rw [hexec, execRemoteUnblock, request, State.serve_operands h hp fun s sc => setRemote false sc s]

/-- Settles O8: each of the three commands is one rewriting of the circuits in scope, and a flag written twice is
written once. -/
theorem blockFlagsWritten : Obligations.BlockFlagsWritten := by
  unfold Obligations.BlockFlagsWritten
  refine ⟨fun s tag p sc hp h => ?plain, fun s tag p sc hp => ⟨fun h => ?block, fun h => ?unblock⟩⟩
  case plain =>
    exact ⟨_, exec_circuitBlockPlain_of_parse hp h,
      State.serve_rewrites h (f := fun c => { c with localBlock := true }) (fun _ => rfl) (.result .ok) sc.circuits⟩
  case block =>
    exact ⟨_, exec_remoteBlock_of_parse hp h,
      State.serve_rewrites h (f := fun c => { c with remoteBlock := true }) (fun _ => rfl) (.result .ok) sc.circuits⟩
  case unblock =>
    exact ⟨_, exec_remoteUnblock_of_parse hp h,
      State.serve_rewrites h (f := fun c => { c with remoteBlock := false }) (fun _ => rfl) (.result .ok) sc.circuits⟩

end Sys2Proof.Machine
end

section
/-! PROOFS. Effects of a hunt (R32, R34, R36 to R38): what a seizure and an overflow write, the reservation that a
seizure leaves available, and the statement HuntEffects. -/

namespace Sys2Proof.Machine

open Sys2Proof

variable {s : State} {g h : Nat} {cls : CallClass} {role : Role} {grp : Group}

/-! ### Available members after a change of usage -/

/-- An available circuit is not in use (R2). -/
theorem State.usage_of_available {n : Nat} (ha : s.available n = true) : (s.circuit n).usage = .idle := by
  simp only [State.available, Circuit.available, Bool.and_eq_true, Bool.not_eq_true'] at ha
  obtain ⟨⟨⟨-, hbusy⟩, -⟩, -⟩ := ha
  cases hu : (s.circuit n).usage with
  | idle => rfl
  | outgoing k => rw [hu] at hbusy; cases hbusy
  | incoming => rw [hu] at hbusy; cases hbusy

/-- Availability is read from the circuit's own record (R2). -/
theorem State.available_congr {t : State} {m : Nat} (hc : t.circuit m = s.circuit m) :
    t.available m = s.available m := congrArg Circuit.available hc

/-- Where two conditions agree on all but one element, a list counts at most that element's occurrences more under the
first. -/
theorem countP_le_countP_add_count {α : Type} [DecidableEq α] {p q : α → Bool} {a : α} (hpq : ∀ x, x ≠ a → p x = q x)
    (l : List α) : l.countP p ≤ l.countP q + l.count a := by
  induction l with
  | nil => simp
  | cons x l ih =>
    by_cases hx : x = a
    · subst hx
      simp only [List.countP_cons, List.count_cons_self]
      split <;> omega
    · simp only [List.countP_cons, List.count_cons_of_ne hx, hpq x hx]
      omega

/-- A change of one circuit takes at most one from the available count of a group (R25). -/
theorem State.availableCount_le_add_one {t : State} {n : Nat} (hm : grp.members.Nodup)
    (hc : ∀ m, m ≠ n → t.circuit m = s.circuit m) : s.availableCount grp ≤ t.availableCount grp + 1 := by
  simp only [State.availableCount, ← List.countP_eq_length_filter]
  calc grp.members.countP s.available
      ≤ grp.members.countP t.available + grp.members.count n :=
        countP_le_countP_add_count (fun m hmn => (State.available_congr (hc m hmn)).symm) _
    _ ≤ grp.members.countP t.available + 1 := Nat.add_le_add_left (List.nodup_iff_count_le_one.mp hm n) _

/-! ### The two endings of a hunt -/

/-- The record of a defined group. -/
theorem State.group_of_find (hf : Table.find s.groups g = some grp) : s.group g = grp := by
  rw [State.group, hf, Option.getD_some]

/-- A hunt that seizes (R36). -/
theorem State.hunt_of_seized {n q : Nat} (ho : (s.hunt g cls role h).1 = .seized n q) :
    s.huntOutcome (s.group g) cls role = .seized n q ∧ (s.hunt g cls role h).2 =
      (s.modifyGroup g fun grp => grp.afterSeizure q).setUsage n (.outgoing h) := by
  rcases s.hunt_spec g cls role h with ⟨n', q', hs, he⟩ | ⟨v, -, he⟩ <;> rw [he] at ho ⊢
  · cases ho; exact ⟨hs, rfl⟩
  · cases ho

/-- A hunt that overflows (R38). -/
theorem State.hunt_of_overflow {v : Verdict} (ho : (s.hunt g cls role h).1 = .overflow v) :
    (s.hunt g cls role h).2 = s.modifyGroup g Group.afterOverflow := by
  rcases s.hunt_spec g cls role h with ⟨n, q, -, he⟩ | ⟨v', -, he⟩ <;> rw [he] at ho ⊢
  · cases ho

/-- A seizure writes one circuit's record, its usage alone (R36). -/
theorem State.circuit_hunt_of_seized {n q : Nat} (ho : (s.hunt g cls role h).1 = .seized n q) (m : Nat) :
    (s.hunt g cls role h).2.circuit m =
      if m = n then { s.circuit n with usage := .outgoing h } else s.circuit m := by
  rw [(State.hunt_of_seized ho).2, State.circuit_setUsage]
  rfl

/-- A seizure of a circuit that stands in the group writes that group's record alone: its busy count and the counts of a
seizure (R2, R36). -/
theorem State.groups_hunt_of_seized {n q : Nat} (ho : (s.hunt g cls role h).1 = .seized n q)
    (hg : (s.circuit n).group = some g) (k : Nat) :
    Table.find (s.hunt g cls role h).2.groups k =
      if k = g then (Table.find s.groups g).map fun grp =>
        { grp.afterSeizure q with busyCount := grp.busyCount + 1 } else Table.find s.groups k := by
  obtain ⟨hs, he⟩ := State.hunt_of_seized ho
  have hidle : (s.circuit n).usage = .idle := State.usage_of_available (s.huntOutcome_seized hs).1
  have hg' : ((s.modifyGroup g fun grp => grp.afterSeizure q).circuit n).group = some g := hg
  rw [he, State.setUsage_of_some _ hg', State.find_modifyGroup, State.setCircuit_groups, State.find_modifyGroup,
    State.find_modifyGroup, State.circuit_modifyGroup, hidle, if_pos rfl, Option.map_map]
  split <;> rfl

/-! ### The reservation -/

/-- A hunt that seizes has met the reservation check (R32, step 2). -/
theorem State.reservationFails_of_seized {n q : Nat} (ho : s.huntOutcome grp cls role = .seized n q) :
    s.reservationFails grp cls role = false := by
  rcases s.huntOutcome_spec grp cls role with ⟨-, he⟩ | ⟨-, -, he⟩ | ⟨-, hr, -⟩
  · rw [he] at ho; cases ho
  · rw [he] at ho; cases ho
  · exact hr

/-- An ordinary call on an ALTERNATE entry meets the check with more available than the reservation (R37). -/
theorem State.reservationFails_ordinary_alternate :
    s.reservationFails grp .ordinary .alternate = false ↔ s.reservationInForce grp < s.availableCount grp := by
  simp [State.reservationFails]

/-- A hunt leaves the reservation in force as it stands (R37). -/
theorem State.reservationInForce_hunt :
    (s.hunt g cls role h).2.reservationInForce grp = s.reservationInForce grp := by
  obtain ⟨cs, gs, he⟩ := s.hunt_frame g cls role h
  rw [he]
  rfl

/-- Settles O19: a seizure writes one circuit and its group, an overflow the group alone, and a seizure that passed
the reservation check takes one from an available count above the reservation. -/
theorem huntEffects : Obligations.HuntEffects := by
  unfold Obligations.HuntEffects
  refine ⟨fun s g h cls role grp hf => ⟨fun n q ho hg => ?seized, fun v ho => ?overflow⟩,
    fun s g h n q grp hf hm ho => ?reservation⟩
  case seized =>
    have hcircuit := State.circuit_hunt_of_seized ho
    have hgroups := State.groups_hunt_of_seized ho hg
    refine ⟨(s.huntOutcome_seized (State.hunt_of_seized ho).1).1, ?_, fun m hmn => ?_, ?_, fun k hk => ?_, ?_⟩
    · rw [hcircuit, if_pos rfl]
    · rw [hcircuit, if_neg hmn]
    · rw [hgroups, if_pos rfl, hf, Option.map_some]
      simp only [Group.afterSeizure, Stats.addAttempt, Stats.addSeizure, satAdd_eq_min]
    · rw [hgroups, if_neg hk]
    · obtain ⟨cs, gs, he⟩ := s.hunt_frame g cls role h
      rw [he]
  case overflow =>
    rw [State.hunt_of_overflow ho]
    refine ⟨?_, fun k hk => ?_, rfl⟩
    · rw [State.find_modifyGroup, if_pos rfl, hf, Option.map_some]
      simp only [Group.afterOverflow, Stats.addAttempt, Stats.addOverflow, satAdd_eq_min, max16]
    · rw [State.find_modifyGroup, if_neg hk]
  case reservation =>
    have hmet : s.reservationInForce grp < s.availableCount grp := by
      have hs := (State.hunt_of_seized ho).1
      rw [State.group_of_find hf] at hs
      exact State.reservationFails_ordinary_alternate.mp (State.reservationFails_of_seized hs)
    have hone : s.availableCount grp ≤ (s.hunt g .ordinary .alternate h).2.availableCount grp + 1 :=
      State.availableCount_le_add_one hm fun m hmn => by rw [State.circuit_hunt_of_seized ho, if_neg hmn]
    calc (s.hunt g .ordinary .alternate h).2.reservationInForce grp
        = s.reservationInForce grp := State.reservationInForce_hunt
      _ ≤ (s.hunt g .ordinary .alternate h).2.availableCount grp := by omega

end Sys2Proof.Machine
end

section
/-! PROOFS. Handover rating (chapter 9): the saturating fields of a rating context up to their bound, the rating
context after a step, and the step that loses nothing of the charge. -/

namespace Sys2Proof.Machine

open Sys2Proof

/-- Charges that reach the bound at most are added whole to the charge and the total charge (R139). -/
theorem Rating.charges_addCharge_of_le {r : Rating} {w : Nat} (hcharge : r.charge + w ≤ max32)
    (htotal : r.totalCharge + w ≤ max32) :
    (r.addCharge w).charge = r.charge + w ∧ (r.addCharge w).totalCharge = r.totalCharge + w := by
  obtain ⟨hc, ht, -⟩ := r.addCharge_spec w
  rw [hc, ht, Nat.min_eq_left hcharge, Nat.add_sub_cancel_left, Nat.min_eq_left htotal]
  exact ⟨rfl, rfl⟩

/-- Billed seconds saturate, and leave the charges and the residue alone (R139). -/
theorem Rating.addBilled_spec (r : Rating) (t : Nat) :
    (r.addBilled t).billed = min (r.billed + t) max32 ∧
    (r.addBilled t).totalBilled = min (r.totalBilled + t) max32 ∧ (r.addBilled t).residue = r.residue ∧
    (r.addBilled t).charge = r.charge ∧ (r.addBilled t).totalCharge = r.totalCharge := by
  simp [Rating.addBilled, satAdd_eq_min]

/-- The rating context after a step that bills `t` seconds and rates `amount`, in 3,840ths of an SU (R138, R139). -/
def Rating.afterStep (r : Rating) (amount t : Nat) : Rating :=
  ({ r with residue := residueOf amount }.addBilled t).addCharge (wholeSU amount)

/-- A rating step writes the rating context of its own call alone among that call's fields. -/
theorem State.call_ratingStep_self {s : State} {h : Nat} {c : Call} (hc : s.call h = some c)
    (carrier : Nat) (r : Rating) (rate t : Nat) :
    (s.ratingStep h carrier r rate t).call h =
      some { c with rating := some (r.afterStep (ratedAmount rate r.factor t r.residue) t) } := by
  obtain ⟨hcall, -⟩ := s.ratingStep_spec h carrier r rate t
  rw [hcall, if_pos rfl, hc]
  rfl

theorem Rating.residue_afterStep (r : Rating) (amount t : Nat) :
    (r.afterStep amount t).residue = residueOf amount := by
  obtain ⟨-, -, -, hresidue, -⟩ :=
    ({ r with residue := residueOf amount }.addBilled t).addCharge_spec (wholeSU amount)
  obtain ⟨-, -, hresidue', -⟩ := { r with residue := residueOf amount }.addBilled_spec t
  exact hresidue.trans hresidue'

theorem Rating.billed_afterStep (r : Rating) (amount t : Nat) :
    (r.afterStep amount t).billed = min (r.billed + t) max32 ∧
    (r.afterStep amount t).totalBilled = min (r.totalBilled + t) max32 := by
  obtain ⟨-, -, -, -, hb, htb⟩ :=
    ({ r with residue := residueOf amount }.addBilled t).addCharge_spec (wholeSU amount)
  obtain ⟨hb', htb', -⟩ := { r with residue := residueOf amount }.addBilled_spec t
  exact ⟨hb.trans hb', htb.trans htb'⟩

/-- A step whose whole SU have room charges all of them (R138, R139). -/
theorem Rating.charges_afterStep_of_le {r : Rating} {amount : Nat} (t : Nat)
    (hcharge : r.charge + wholeSU amount ≤ max32) (htotal : r.totalCharge + wholeSU amount ≤ max32) :
    (r.afterStep amount t).charge = r.charge + wholeSU amount ∧
    (r.afterStep amount t).totalCharge = r.totalCharge + wholeSU amount := by
  obtain ⟨-, -, -, hc, ht⟩ := { r with residue := residueOf amount }.addBilled_spec t
  have hadd := Rating.charges_addCharge_of_le (r := { r with residue := residueOf amount }.addBilled t)
    (w := wholeSU amount) (by rwa [hc]) (by rwa [ht])
  rwa [hc, ht] at hadd

/-- Charge and residue together grow by the amount that is not the old residue: a step loses nothing (R138). -/
theorem Rating.conserves_afterStep {r : Rating} {amount : Nat} (t : Nat)
    (hcharge : r.charge + wholeSU amount ≤ max32) (htotal : r.totalCharge + wholeSU amount ≤ max32) :
    3840 * (r.afterStep amount t).charge + (r.afterStep amount t).residue = 3840 * r.charge + amount := by
  rw [(Rating.charges_afterStep_of_le t hcharge htotal).1, r.residue_afterStep, Nat.mul_add, Nat.add_assoc,
    wholeSU_residueOf]

/-- Settles O30: the call's rating context after the step is `Rating.afterStep`, whose charge and residue hold the
rated amount whole. -/
theorem ratingStepConservesTheCharge : Obligations.RatingStepConservesTheCharge := by
  unfold Obligations.RatingStepConservesTheCharge
  intro s h carrier rate t r c hc w hcharge htotal
  obtain ⟨hbilled, htotalBilled⟩ := r.billed_afterStep (ratedAmount rate r.factor t r.residue) t
  refine ⟨_, _, State.call_ratingStep_self hc carrier r rate t, rfl, ?residueBelow, ?conserved,
    (Rating.charges_afterStep_of_le t hcharge htotal).2, hbilled, htotalBilled, rfl⟩
  case residueBelow =>
    rw [Rating.residue_afterStep]
    exact residueOf_lt _
  case conserved =>
    calc 3840 * (r.afterStep (ratedAmount rate r.factor t r.residue) t).charge +
          (r.afterStep (ratedAmount rate r.factor t r.residue) t).residue
        = 3840 * r.charge + ratedAmount rate r.factor t r.residue := Rating.conserves_afterStep t hcharge htotal
      _ = 3840 * r.charge + rate * r.factor * t + r.residue := (Nat.add_assoc ..).symm

end Sys2Proof.Machine
end

section
/-! PROOFS. The link's own requests (R184, R187, R188, R189): a taken request that writes event flags and notice
enables alone, a taken message of unknown code, and the statement LinkRequestsAnswered. -/

namespace Sys2Proof.Machine

open Sys2Proof

variable {s : State} {type : Byte} {tag : Tag} {payload : List Byte}

/-! ### A request that writes flags and enables alone -/

/-- The link fields that STATUS READ and NOTICE ENABLE write: the event flags and the notice enables. -/
def State.setFlagsEnables (s : State) (flags : BitVec 14) (enables : BitVec 7) : State :=
  { s with link := { s.link with flags := flags, enables := enables } }

/-- A request taken at once that writes flags and enables alone: the answer, with what it wrote. -/
theorem State.serve_setFlagsEnables (h : s.takesNow type tag payload) {run : List Byte → State → Body × State}
    {body : Body} {flags : BitVec 14} {enables : BitVec 7}
    (hr : run payload s.dropHeadRequest.withoutMessages =
      (body, s.dropHeadRequest.withoutMessages.setFlagsEnables flags enables)) :
    s.serve type tag payload run = (s.answer (type &&& 0x3F).toNat tag body).setFlagsEnables flags enables := by
  rw [State.serve_of_takesNow h, hr]
  simp [State.sendFirst, State.oweVisitToRequests, State.answer, State.dropHeadRequest, State.withoutMessages,
    State.setFlagsEnables]

/-- STATUS READ shows the flags and the requests that wait behind it, and clears the flags it showed (R187). -/
theorem exec_statusRead_of_takesNow (h : s.takesNow 0x01 tag []) :
    exec (.statusRead tag []) s =
      .next ((s.answer 0x01 tag (.status s.link.flags s.link.requests.tail.length)).setFlagsEnables
        0 s.link.enables) := by
  have hexec : exec (.statusRead tag []) s = execStatusRead tag [] s := rfl
  have hparse : parseEmpty [] = .ok () := rfl
  rw [hexec, execStatusRead, request, State.serve_operands h hparse fun s _ => statusRead s]
  exact congrArg _ (State.serve_setFlagsEnables h rfl)

/-- A byte whose bit 7 is clear reads as the seven notice enables (R188). -/
theorem parseNoticeEnable_singleton {b : Byte} (hb : b.getLsbD 7 = false) :
    parseNoticeEnable [b] = .ok (b.truncate 7) := by
  rw [parseNoticeEnable, hb, if_neg Bool.false_ne_true]

/-- NOTICE ENABLE shows the enables it replaces and those it writes (R188). -/
theorem exec_noticeEnable_of_takesNow {b : Byte} (h : s.takesNow 0x02 tag [b]) (hb : b.getLsbD 7 = false) :
    exec (.noticeEnable tag [b]) s =
      .next ((s.answer 0x02 tag (.noticesEnabled s.link.enables (b.truncate 7))).setFlagsEnables
        s.link.flags (b.truncate 7)) := by
  have hexec : exec (.noticeEnable tag [b]) s = execNoticeEnable tag [b] s := rfl
  rw [hexec, execNoticeEnable, request,
    State.serve_operands h (parseNoticeEnable_singleton hb) fun s e => noticeEnable e s]
  exact congrArg _ (State.serve_setFlagsEnables h rfl)

/-! ### A request that changes nothing -/

/-- LINK ECHO replies with its payload and changes no state (R189). -/
theorem exec_linkEcho_of_takesNow (h : s.takesNow 0x00 tag payload) :
    exec (.linkEcho tag payload) s = .next (s.answer 0x00 tag (.echo payload)) := by
  have hexec : exec (.linkEcho tag payload) s = execLinkEcho tag payload s := rfl
  rw [hexec, execLinkEcho, request]
  exact congrArg _ (State.serve_reply h rfl)

/-- A whole message of unknown code is carried out as a request that replies UNKNOWN_REQUEST: the free value of an
overlong one (log 8) is not asked for. -/
theorem State.serveWith_carryOutUnknown (h : s.takesNow type tag payload) :
    s.serveWith (Request.ofPayload type tag payload) State.carryOutUnknown =
      s.serve type tag payload fun _ s => refuse .unknownRequest s := by
  have ⟨_, hwhole, _⟩ := h
  rw [State.serve, State.serveWith_of_takesNow h, State.serveWith_of_takesNow h, Request.ofPayload_whole hwhole]
  rfl

/-- A message of unknown code is replied UNKNOWN_REQUEST and changes nothing (R184). -/
theorem exec_unknownRequest_of_takesNow (hm : isMessageType type = true) (hu : isUnknownType type = true)
    (h : s.takesNow type tag payload) :
    exec (.unknownRequest type tag payload) s =
      .next (s.answer (type &&& 0x3F).toNat tag (.result .unknownRequest)) := by
  have hexec : exec (.unknownRequest type tag payload) s = execUnknownRequest type tag payload s := rfl
  have hrow : (!(isMessageType type && isUnknownType type)) = false := by rw [hm, hu]; rfl
  rw [hexec, execUnknownRequest, hrow, if_neg Bool.false_ne_true, State.serveWith_carryOutUnknown h]
  exact congrArg _ (State.serve_reply h rfl)

/-- Settles O7: each of the four commands is a request taken at once, and what it writes besides its answer stands
in the flags or the enables. -/
theorem linkRequestsAnswered : Obligations.LinkRequestsAnswered := by
  unfold Obligations.LinkRequestsAnswered
  refine ⟨fun s type tag p => ⟨fun h => ?echo, fun hm hu h => ?unknown⟩,
    fun s tag b => ⟨fun h => ?status, fun h hb => ?enable⟩⟩
  case echo => exact exec_linkEcho_of_takesNow h
  case unknown => exact exec_unknownRequest_of_takesNow hm hu h
  case status => exact exec_statusRead_of_takesNow h
  case enable => exact exec_noticeEnable_of_takesNow h hb

end Sys2Proof.Machine
end

section
/-! PROOFS. The state after power-on, block by block, and the statement ResetValuesOfEveryBlock. -/

namespace Sys2Proof.Machine

open Sys2Proof

@[simp] theorem State.circuit_reset (n : Nat) : State.reset.circuit n = Circuit.powerOn := rfl
@[simp] theorem State.span_reset (n : Nat) : State.reset.span n = Span.powerOn := rfl
@[simp] theorem State.call_reset (h : Nat) : State.reset.call h = none := rfl

/-- Power-on defines the home network and no other carrier (R151). -/
theorem State.find_carriers_reset (c : Nat) :
    Table.find State.reset.carriers c = if c = 0 then some Carrier.home else none := by
  rw [State.reset, Table.find_cons, Table.find_nil]
  simp only [eq_comm]

/-- Settles O2: tables without an entry read as their power-on records, carrier 0 alone is defined, and the other
blocks stand at their power-on values. -/
theorem resetValuesOfEveryBlock : Obligations.ResetValuesOfEveryBlock := by
  unfold Obligations.ResetValuesOfEveryBlock
  refine ⟨State.circuit_reset, State.span_reset, Table.find_nil, rfl, Table.find_nil, State.call_reset, rfl,
    rfl, rfl, rfl, rfl, Table.find_nil, fun c hc => ?foreign, ?home,
    ?periodsRecordsLink⟩
  case foreign => rw [State.find_carriers_reset, if_neg hc]
  case home => exact ⟨Carrier.home, State.find_carriers_reset 0, rfl, rfl, rfl, rfl, rfl, rfl⟩
  case periodsRecordsLink => exact ⟨rfl, rfl, rfl, rfl, rfl, rfl, rfl, rfl, rfl, rfl, rfl, rfl, rfl⟩

end Sys2Proof.Machine
end

section
/-! PROOFS. What a part that raises notices changes at its link: messages join the tail of the send list, event flags
are set, notices are numbered, and nothing else (R186, R187, R188). -/

namespace Sys2Proof.Machine

open Sys2Proof

/-- A link after notices: messages at the tail of the send list, flags set, notices numbered (R186 to R188). -/
def Link.Tells (l l' : Link) : Prop :=
  ∃ more flags counter, l' = { l with
    sendList := l.sendList ++ more, flags := l.flags ||| flags, noticeCounter := counter }

/-- A state whose link has done no more than tell. -/
def State.Tells (s t : State) : Prop := s.link.Tells t.link

theorem Link.Tells.refl (l : Link) : l.Tells l := ⟨[], 0, l.noticeCounter, by simp⟩

theorem Link.Tells.trans {l l' l'' : Link} (h : l.Tells l') (h' : l'.Tells l'') : l.Tells l'' := by
  obtain ⟨m, f, c, rfl⟩ := h
  obtain ⟨m', f', c', rfl⟩ := h'
  exact ⟨m ++ m', f ||| f', c', by simp only [List.append_assoc, BitVec.or_assoc]⟩

theorem Link.Tells.sound {l l' : Link} (h : l.Tells l') (hl : l.Sound) : l'.Sound := by
  obtain ⟨m, f, c, rfl⟩ := h
  exact hl

variable {s t u : State}

theorem State.Tells.refl (s : State) : s.Tells s := Link.Tells.refl _

theorem State.Tells.of_link (h : t.link = s.link) : s.Tells t := by
  rw [State.Tells, h]; exact Link.Tells.refl _

theorem State.Tells.trans (h : s.Tells t) (h' : t.Tells u) : s.Tells u := Link.Tells.trans h h'

/-- What a tell leaves of the send list: messages at its tail. -/
theorem State.Tells.sendList (h : s.Tells t) : ∃ after, t.link.sendList = s.link.sendList ++ after := by
  obtain ⟨m, f, c, h⟩ := h
  exact ⟨m, by rw [h]⟩

theorem State.Tells.requests (h : s.Tells t) : t.link.requests = s.link.requests := by
  obtain ⟨m, f, c, h⟩ := h
  rw [h]

theorem State.Tells.transmitter (h : s.Tells t) : t.link.transmitter = s.link.transmitter := by
  obtain ⟨m, f, c, h⟩ := h
  rw [h]

theorem State.Tells.enables (h : s.Tells t) : t.link.enables = s.link.enables := by
  obtain ⟨m, f, c, h⟩ := h
  rw [h]

/-- A flag that is set stays set (R187). -/
theorem State.Tells.flag (h : s.Tells t) {f : Flag} (hf : s.flag f = true) : t.flag f = true := by
  obtain ⟨m, fl, c, h⟩ := h
  simp only [State.flag] at hf ⊢
  rw [h, BitVec.getLsbD_or, hf, Bool.true_or]

theorem State.tells_setFlag (s : State) (f : Flag) : s.Tells (s.setFlag f) :=
  ⟨[], 1#14 <<< f.bit, s.link.noticeCounter, by simp [State.setFlag]⟩

theorem State.tells_raise (s : State) (k : Nat) (b : Body) : s.Tells (s.raise k b) :=
  ⟨[{ code := k, tag := s.link.noticeCounter, body := b }], 0, s.link.noticeCounter + 1, by simp [State.raise]⟩

theorem State.tells_raiseIf (s : State) (on : Bool) (k : Nat) (b : Body) : s.Tells (s.raiseIf on k b) := by
  cases on
  · exact State.Tells.refl s
  · exact s.tells_raise k b

theorem State.tells_reportQueue (s : State) (c : QueueCondition) (cause : QueueCause) :
    s.Tells (s.reportQueue c cause) := (s.tells_setFlag _).trans (State.tells_raiseIf _ _ _ _)

theorem State.tells_evaluateThresholds (s : State) (cause : QueueCause) : s.Tells (s.evaluateThresholds cause) := by
  unfold State.evaluateThresholds
  dsimp only
  have held : s.Tells { s with records :=
      { s.records with almostEmpty := s.records.emptyHolds, almostFull := s.records.fullHolds } } := .of_link rfl
  split <;> split
  · exact (held.trans (State.tells_reportQueue _ _ _)).trans (State.tells_reportQueue _ _ _)
  · exact held.trans (State.tells_reportQueue _ _ _)
  · exact held.trans (State.tells_reportQueue _ _ _)
  · exact held

theorem State.tells_writeRecord (s : State) (r : Record) : s.Tells (s.writeRecord r) := by
  unfold State.writeRecord
  split
  · exact (State.Tells.of_link rfl).trans (State.tells_evaluateThresholds _ _)
  · exact (State.Tells.of_link rfl).trans (State.tells_setFlag _ _)

theorem State.tells_evaluateCap (s : State) (c : Nat) (cause : CapCause) : s.Tells (s.evaluateCap c cause) := by
  unfold State.evaluateCap
  split
  · exact .refl s
  · dsimp only
    split
    · exact (State.Tells.of_link rfl).trans ((State.tells_setFlag _ _).trans (State.tells_raiseIf _ _ _ _))
    · exact .of_link rfl

theorem State.tells_addToCarrier (s : State) (c x : Nat) : s.Tells (s.addToCarrier c x) := by
  unfold State.addToCarrier
  split
  · exact .refl s
  · exact (State.Tells.of_link rfl).trans (State.tells_evaluateCap _ _ _)

theorem State.tells_chargeCall (s : State) (h carrier : Nat) (r : Rating) (w : Nat) :
    s.Tells (s.chargeCall h carrier r w) := (State.Tells.of_link rfl).trans (State.tells_addToCarrier _ _ _)

theorem State.tells_ratingStep (s : State) (h carrier : Nat) (r : Rating) (rate t : Nat) :
    s.Tells (s.ratingStep h carrier r rate t) := s.tells_chargeCall _ _ _ _

theorem State.tells_catchUp (s : State) (h : Nat) (c : Call) (r : Rating) (byTouch : Bool) :
    s.Tells (s.catchUp h c r byTouch) := by
  rw [s.catchUp_eq]
  refine State.Tells.trans (t := if r.owesPartial then s.writeRecord (c.record h r none) else s) ?_ (.of_link rfl)
  split
  · exact s.tells_writeRecord _
  · exact .refl s

theorem State.tells_answerEvent (s : State) (h : Nat) (c : Call) : s.Tells (s.answerEvent h c) :=
  (s.tells_chargeCall _ _ _ _).trans (State.tells_ratingStep _ _ _ _ _ _)

theorem State.makeIdle_link (s : State) (n : Nat) : (s.makeIdle n).link = s.link := by
  obtain ⟨_, _, _, h⟩ := (s.makeIdle_spec n).2.2.2
  rw [h]

theorem State.tells_completeWatch (s : State) (sp : Nat) (cause : DrainCause) : s.Tells (s.completeWatch sp cause) := by
  rcases s.completeWatch_spec sp cause with ⟨h, -⟩ | ⟨w, -, -, h⟩ <;> rw [h]
  · exact .refl s
  · exact ((s.tells_setFlag _).trans (State.tells_raiseIf _ _ _ _)).trans (.of_link rfl)

theorem State.tells_closeStart (s : State) (cause : PeriodCause) : s.Tells (s.closeStart cause) := by
  unfold State.closeStart
  dsimp only
  split
  · exact .of_link rfl
  · exact (s.tells_setFlag _).trans (.of_link rfl)

/-- Every snapshot is complete, and the end of the sweep is reported (R164). -/
def State.sweepTold (s : State) (sw : Sweep) : State :=
  (State.setFlag { s with carriers := Table.mapAll s.carriers fun k =>
    { k with snapshot := { k.snapshot with complete := true } } } .period).raiseIf (s.enabled .period) codePeriod
    (.noticePeriod (s.periods.closed.getD 0) s.periods.number sw.cause sw.bySweep sw.byTouch sw.snapshotsLost
      s.time.seconds s.clock)

/-- The end of a sweep in its two steps: the report, and a deferred close (R164). -/
theorem State.endSweep_eq (s : State) (sw : Sweep) :
    s.endSweep sw =
      let ended := { s.sweepTold sw with
        periods := { (s.sweepTold sw).periods with sweep := none, deferred := false } }
      if s.periods.deferred then ended.closeStart .boundary else ended := rfl

theorem State.tells_reportGuard (s : State) (old : GuardState) (cause : GuardCause) (m : Option (Nat × Nat)) :
    s.Tells (s.reportGuard old cause m) := by
  unfold State.reportGuard
  split
  · exact .refl s
  · exact (s.tells_setFlag _).trans (State.tells_raiseIf _ _ _ _)

/-- A list of tells is a tell. -/
theorem State.tells_foldl {α : Type} {f : State → α → State} (hf : ∀ (s : State) a, s.Tells (f s a)) (l : List α) (s : State) :
    s.Tells (l.foldl f s) := by
  induction l generalizing s with
  | nil => exact .refl s
  | cons a l ih => exact (hf s a).trans (ih _)

end Sys2Proof.Machine
end

section
/-! PROOFS. What every operation of the part keeps: the record queue, the link, the clock, the controls, the periods,
the ratings and the tables are sound after it if they were before. Operations are composed by transitivity. -/

namespace Sys2Proof.Machine

open Sys2Proof

/-- Every invariant but the agreement of circuits and calls passes from `s` to `t`. -/
structure State.Keeps (s t : State) : Prop where
  records : s.records.Sound → t.records.Sound
  link : s.link.Sound → t.link.Sound
  clock : s.ClockSound → t.ClockSound
  control : s.ControlSound → t.ControlSound
  periods : s.periods.Sound → t.periods.Sound
  ratings : s.RatingsSound → t.RatingsSound
  tables : s.TablesSound → t.TablesSound

variable {s t u : State}

theorem State.Keeps.refl (s : State) : s.Keeps s := ⟨id, id, id, id, id, id, id⟩

theorem State.Keeps.trans (h : s.Keeps t) (h' : t.Keeps u) : s.Keeps u :=
  ⟨h'.records ∘ h.records, h'.link ∘ h.link, h'.clock ∘ h.clock, h'.control ∘ h.control, h'.periods ∘ h.periods,
    h'.ratings ∘ h.ratings, h'.tables ∘ h.tables⟩

/-- A list of operations keeps what each keeps. -/
theorem State.keeps_foldl {α : Type} {f : State → α → State} (hf : ∀ (s : State) a, s.Keeps (f s a)) (l : List α)
    (s : State) : s.Keeps (l.foldl f s) := by
  induction l generalizing s with
  | nil => exact .refl s
  | cons a l ih => exact (hf s a).trans (ih _)

/-! ### Updates of one field -/

/-- Fields that no invariant speaks of. -/
theorem State.Keeps.of_free (s : State) (low : Bool) (straps : BitVec 2) (ps : List PrefixEntry) (n : Nat)
    (is : List Instr) :
    s.Keeps { s with resetLow := low, rateStraps := straps, prefixes := ps, serialCounter := n, pending := is } :=
  ⟨id, id, id, id, id, id, id⟩

theorem State.Keeps.of_link {l : Link} (h : s.link.Sound → l.Sound) : s.Keeps { s with link := l } :=
  ⟨id, h, id, id, id, id, id⟩

theorem State.Keeps.of_records {q : RecordQueue} (h : s.records.Sound → q.Sound) : s.Keeps { s with records := q } :=
  ⟨h, id, id, id, id, id, id⟩

theorem State.Keeps.of_clock {c : TimeBase} {m : List Nat}
    (h : s.ClockSound → State.ClockSound { s with time := c, bandMap := m }) :
    s.Keeps { s with time := c, bandMap := m } :=
  ⟨id, id, h, id, id, id, id⟩

theorem State.Keeps.of_control {m : Monitor} {g : Guard}
    (h : s.ControlSound → State.ControlSound { s with monitor := m, guard := g }) :
    s.Keeps { s with monitor := m, guard := g } :=
  ⟨id, id, id, h, id, id, id⟩

theorem State.Keeps.of_periods {p : Periods} (h : s.periods.Sound → p.Sound) : s.Keeps { s with periods := p } :=
  ⟨id, id, id, id, h, id, id⟩

theorem State.Keeps.of_circuits {cs : Table Circuit} (h : Table.rising s.circuits = true → Table.rising cs = true)
    (h' : (∀ e ∈ s.circuits, e.2 ≠ Circuit.powerOn) → ∀ e ∈ cs, e.2 ≠ Circuit.powerOn) :
    s.Keeps { s with circuits := cs } :=
  ⟨id, id, id, id, id, id, fun ⟨h1, h2, h3, h4, h5, h6, h7, h8, h9⟩ => ⟨h h1, h2, h3, h4, h5, h6, h7, h' h8, h9⟩⟩

theorem State.Keeps.of_spans {ss : Table Span} (h : Table.rising s.spans = true → Table.rising ss = true)
    (h' : (∀ e ∈ s.spans, e.2 ≠ Span.powerOn) → ∀ e ∈ ss, e.2 ≠ Span.powerOn) : s.Keeps { s with spans := ss } :=
  ⟨id, id, id, id, id, id, fun ⟨h1, h2, h3, h4, h5, h6, h7, h8, h9⟩ => ⟨h1, h h2, h3, h4, h5, h6, h7, h8, h' h9⟩⟩

theorem State.Keeps.of_groups {gs : Table Group} (h : Table.rising s.groups = true → Table.rising gs = true) :
    s.Keeps { s with groups := gs } :=
  ⟨id, id, id, id, id, id, fun ⟨h1, h2, h3, h4, h5, h6, h7, h8, h9⟩ => ⟨h1, h2, h h3, h4, h5, h6, h7, h8, h9⟩⟩

theorem State.Keeps.of_plans {ps : Table Plan} (h : Table.rising s.plans = true → Table.rising ps = true) :
    s.Keeps { s with plans := ps } :=
  ⟨id, id, id, id, id, id, fun ⟨h1, h2, h3, h4, h5, h6, h7, h8, h9⟩ => ⟨h1, h2, h3, h h4, h5, h6, h7, h8, h9⟩⟩

theorem State.Keeps.of_tariffs {ts : Table Tariff} (h : Table.rising s.tariffs = true → Table.rising ts = true) :
    s.Keeps { s with tariffs := ts } :=
  ⟨id, id, id, id, id, id, fun ⟨h1, h2, h3, h4, h5, h6, h7, h8, h9⟩ => ⟨h1, h2, h3, h4, h5, h h6, h7, h8, h9⟩⟩

theorem State.Keeps.of_carriers {ks : Table Carrier} (h : Table.rising s.carriers = true → Table.rising ks = true) :
    s.Keeps { s with carriers := ks } :=
  ⟨id, id, id, id, id, id, fun ⟨h1, h2, h3, h4, h5, h6, h7, h8, h9⟩ => ⟨h1, h2, h3, h4, h5, h6, h h7, h8, h9⟩⟩

theorem State.Keeps.of_calls {cs : Table Call} (h : Table.rising s.calls = true → Table.rising cs = true)
    (h' : s.RatingsSound → ∀ k c r, (k, c) ∈ cs → c.rating = some r → r.Sound) : s.Keeps { s with calls := cs } :=
  ⟨id, id, id, id, id, h', fun ⟨h1, h2, h3, h4, h5, h6, h7, h8, h9⟩ => ⟨h1, h2, h3, h4, h h5, h6, h7, h8, h9⟩⟩

/-! ### Notices, circuits, spans and groups -/

/-- A state whose link alone has told something. -/
theorem State.Keeps.of_tells {l : Link} (h : s.link.Tells l) : s.Keeps { s with link := l } := .of_link h.sound

theorem State.keeps_setFlag (s : State) (f : Flag) : s.Keeps (s.setFlag f) := .of_tells (s.tells_setFlag f)

theorem State.keeps_raise (s : State) (k : Nat) (b : Body) : s.Keeps (s.raise k b) := .of_tells (s.tells_raise k b)

theorem State.keeps_raiseIf (s : State) (on : Bool) (k : Nat) (b : Body) : s.Keeps (s.raiseIf on k b) := by
  cases on
  · exact .refl s
  · exact s.keeps_raise k b

/-- A flag is set and a notice is raised where its class is on: how most events are reported (R186, R187). -/
theorem State.keeps_report (s : State) (f : Flag) (on : Bool) (k : Nat) (b : Body) :
    s.Keeps ((s.setFlag f).raiseIf on k b) := (s.keeps_setFlag f).trans (State.keeps_raiseIf _ _ _ _)

theorem State.keeps_setCircuit (s : State) (n : Nat) (c : Circuit) : s.Keeps (s.setCircuit n c) :=
  .of_circuits (fun h => s.setCircuit_rising h n c) fun h => s.setCircuit_listed h n c

theorem State.keeps_setSpan (s : State) (n : Nat) (r : Span) : s.Keeps (s.setSpan n r) :=
  .of_spans (fun h => s.setSpan_rising h n r) fun h => s.setSpan_listed h n r

theorem State.keeps_modifyGroup (s : State) (g : Nat) (f : Group → Group) : s.Keeps (s.modifyGroup g f) :=
  .of_groups fun h => Table.rising_modify h g f

theorem State.keeps_modifyPlan (s : State) (p : Nat) (f : Plan → Plan) : s.Keeps (s.modifyPlan p f) :=
  .of_plans fun h => Table.rising_modify h p f

theorem State.keeps_modifyCarrier (s : State) (c : Nat) (f : Carrier → Carrier) : s.Keeps (s.modifyCarrier c f) :=
  .of_carriers fun h => Table.rising_modify h c f

theorem State.keeps_setUsage (s : State) (n : Nat) (u : Usage) : s.Keeps (s.setUsage n u) := by
  cases h : (s.circuit n).group with
  | none => rw [s.setUsage_of_none h]; exact s.keeps_setCircuit _ _
  | some g => rw [s.setUsage_of_some h]; exact (s.keeps_setCircuit _ _).trans (State.keeps_modifyGroup _ _ _)

theorem State.keeps_unwatch (s : State) (n : Nat) : s.Keeps (s.unwatch n) := by
  cases h : (s.span (spanOf n)).watch with
  | none => rw [s.unwatch_of_closed h]; exact .refl s
  | some w => rw [s.unwatch_of_open h]; exact s.keeps_setSpan _ _

theorem State.keeps_makeIdle (s : State) (n : Nat) : s.Keeps (s.makeIdle n) :=
  (s.keeps_setUsage n .idle).trans (State.keeps_unwatch _ n)

theorem State.keeps_completeWatch (s : State) (sp : Nat) (cause : DrainCause) : s.Keeps (s.completeWatch sp cause) := by
  rcases s.completeWatch_spec sp cause with ⟨h, -⟩ | ⟨w, -, -, h⟩ <;> rw [h]
  · exact .refl s
  · exact (s.keeps_report _ _ _ _).trans (State.keeps_setSpan _ _ _)

/-! ### Calls -/

/-- A rewriting of one call keeps the ratings if every rating context it leaves is sound. -/
theorem State.Keeps.modifyCall (hk : s.Keeps t) (h : Nat) {f : Call → Call}
    (hf : s.RatingsSound → ∀ c r, (h, c) ∈ t.calls → (f c).rating = some r → r.Sound) : s.Keeps (t.modifyCall h f) :=
  { records := hk.records
    link := hk.link
    clock := hk.clock
    control := hk.control
    periods := hk.periods
    tables := fun hs => by
      obtain ⟨h1, h2, h3, h4, h5, h6, h7, h8, h9⟩ := hk.tables hs
      exact ⟨h1, h2, h3, h4, Table.rising_modify h5 h f, h6, h7, h8, h9⟩
    ratings := fun hs k c r hm hc => by
      obtain ⟨e, he, heq⟩ := List.mem_map.mp hm
      by_cases hkh : e.1 = h
      · rw [if_pos hkh] at heq
        cases heq
        exact hf hs e.2 r (hkh ▸ he) hc
      · rw [if_neg hkh] at heq
        exact hk.ratings hs k c r (heq ▸ he) hc }

/-- A rewriting that leaves the rating context alone. -/
theorem State.keeps_modifyCall (s : State) (h : Nat) {f : Call → Call} (hf : ∀ c, (f c).rating = c.rating) :
    s.Keeps (s.modifyCall h f) :=
  (State.Keeps.refl s).modifyCall h fun hs c r hm hc => hs h c r hm (hf c ▸ hc)

theorem State.keeps_eraseCall (s : State) (h : Nat) : s.Keeps { s with calls := Table.erase s.calls h } :=
  .of_calls (fun hr => Table.rising_erase hr h) fun hs k c r hm hc => hs k c r (List.mem_filter.mp hm).1 hc

/-- A rating context is written that is sound where the ratings were. -/
theorem State.Keeps.setRating (hk : s.Keeps t) (h : Nat) {r : Rating} (hr : s.RatingsSound → r.Sound) :
    s.Keeps (t.setRating h r) :=
  hk.modifyCall h fun hs c r' _ hc => by cases hc; exact hr hs

/-- The rating context that a read of the Call Table gives is sound. -/
theorem State.RatingsSound.of_call (hs : s.RatingsSound) {h : Nat} {c : Call} {r : Rating} (hc : s.call h = some c)
    (hr : c.rating = some r) : r.Sound := hs h c r (Table.mem_of_find hc) hr

/-! ### Records, accounts and rating -/

/-- An evaluation of the thresholds after a change of the queue: what is asked of the new queue is its size and its
thresholds, for the held flags are written (R174). -/
theorem State.keeps_evaluateThresholds (s : State) (q : RecordQueue) (cause : QueueCause)
    (h : s.records.Sound → q.queue.length ≤ 2048 ∧ q.ae ≤ 2047 ∧ q.af ≤ 2047) :
    s.Keeps (State.evaluateThresholds { s with records := q } cause) := by
  have ht := State.tells_evaluateThresholds { s with records := q } cause
  obtain ⟨l, he⟩ := State.evaluateThresholds_spec { s with records := q } cause
  rw [State.Tells, he] at ht
  rw [he]
  refine State.Keeps.trans (t := { s with records := { q with
    almostEmpty := q.emptyHolds, almostFull := q.fullHolds } }) (.of_records fun hs => ?_) (.of_tells ht)
  obtain ⟨hl, ha, hf⟩ := h hs
  exact ⟨hl, ha, hf, rfl, rfl⟩

theorem State.keeps_modifyAccountOf (s : State) (r : Record) (f : Account → Account) :
    s.Keeps (s.modifyAccountOf r f) := s.keeps_modifyCarrier _ _

theorem State.keeps_writeRecord (s : State) (r : Record) : s.Keeps (s.writeRecord r) := by
  unfold State.writeRecord
  by_cases h : s.recordCount < queueCapacity
  · rw [if_pos h]
    refine (s.keeps_modifyAccountOf r fun a => a.addRecorded r.charge).trans
      (State.keeps_evaluateThresholds _ { s.records with queue := s.records.queue ++ [r] } .count fun hs => ?_)
    have hlen : s.records.queue.length < 2048 := h
    exact ⟨by simp only [List.length_append, List.length_singleton]; omega, hs.2.1, hs.2.2.1⟩
  · rw [if_neg h]
    refine (s.keeps_modifyAccountOf r fun a => a.addOverflow r.charge).trans
      (State.Keeps.trans (State.Keeps.of_records fun hs => ?_) (State.keeps_setFlag _ .overflow))
    exact hs

theorem State.keeps_evaluateCap (s : State) (c : Nat) (cause : CapCause) : s.Keeps (s.evaluateCap c cause) := by
  unfold State.evaluateCap
  split
  · exact .refl s
  · dsimp only
    split
    · exact (s.keeps_modifyCarrier c _).trans (State.keeps_report _ _ _ _ _)
    · exact s.keeps_modifyCarrier c _

theorem State.keeps_addToCarrier (s : State) (c x : Nat) : s.Keeps (s.addToCarrier c x) := by
  unfold State.addToCarrier
  split
  · exact .refl s
  · exact (s.keeps_modifyCarrier c _).trans (State.keeps_evaluateCap _ _ _)

theorem State.Keeps.chargeCall (hk : s.Keeps t) (h carrier : Nat) {r : Rating} (w : Nat)
    (hr : s.RatingsSound → r.Sound) : s.Keeps (t.chargeCall h carrier r w) :=
  (hk.setRating h fun hs => (hr hs).addCharge w).trans (State.keeps_addToCarrier _ _ _)

theorem State.Keeps.ratingStep (hk : s.Keeps t) (h carrier : Nat) {r : Rating} (rate sec : Nat)
    (hr : s.RatingsSound → r.Sound) : s.Keeps (t.ratingStep h carrier r rate sec) :=
  hk.chargeCall h carrier _ fun hs => by
    obtain ⟨-, hcharge, hbilled, htotal, htotalBilled⟩ := hr hs
    exact Rating.Sound.addBilled (r := { r with residue := residueOf (ratedAmount rate r.factor sec r.residue) })
      ⟨residueOf_lt _, hcharge, hbilled, htotal, htotalBilled⟩ sec

theorem State.freshRating_sound (s : State) (grp : Group) : (s.freshRating grp).Sound :=
  ⟨Nat.zero_lt_succ _, Nat.zero_le _, Nat.zero_le _, Nat.zero_le _, Nat.zero_le _⟩

theorem State.keeps_answerEvent (s : State) (h : Nat) (c : Call) : s.Keeps (s.answerEvent h c) :=
  ((State.Keeps.refl s).chargeCall h c.carrier _ fun _ => s.freshRating_sound _).ratingStep h c.carrier _ _
    fun _ => (s.freshRating_sound _).addCharge _

theorem Rating.Sound.caughtUp {r : Rating} (h : r.Sound) (n : Nat) : (r.caughtUp n).Sound := by
  obtain ⟨hresidue, -, -, htotal, htotalBilled⟩ := h
  exact ⟨hresidue, Nat.zero_le _, Nat.zero_le _, htotal, htotalBilled⟩

/-- The sweep's count of catch-ups is no part of the period fields' ranges. -/
theorem State.keeps_countCatchUp (s : State) (byTouch : Bool) : s.Keeps (s.countCatchUp byTouch) := by
  refine .of_periods fun ⟨hl, hn, hd, hs⟩ => ⟨hl, hn, fun h => ?_, fun sw h => ?_⟩
  · rw [Option.isSome_map]; exact hd h
  · obtain ⟨sw', hsw, rfl⟩ := Option.map_eq_some_iff.mp h
    cases byTouch <;> exact hs sw' hsw

theorem State.Keeps.catchUp (hk : s.Keeps t) (h : Nat) (c : Call) {r : Rating} (byTouch : Bool)
    (hr : s.RatingsSound → r.Sound) : s.Keeps (t.catchUp h c r byTouch) := by
  rw [t.catchUp_eq]
  have hwrote : s.Keeps (if r.owesPartial then t.writeRecord (c.record h r none) else t) := by
    split
    · exact hk.trans (t.keeps_writeRecord _)
    · exact hk
  exact ((hwrote.setRating h fun hs => (hr hs).caughtUp _).trans (State.keeps_modifyCarrier _ _ _)).trans
    (State.keeps_countCatchUp _ _)

theorem State.Keeps.freshen (hk : s.Keeps t) (h : Nat) (c : Call) {r : Rating} (hr : s.RatingsSound → r.Sound) :
    s.Keeps (t.freshen h c r).1 := by
  unfold State.freshen
  split
  · exact hk.catchUp h c true hr
  · exact hk

theorem State.freshen_sound (s : State) (h : Nat) (c : Call) {r : Rating} (hr : r.Sound) : (s.freshen h c r).2.Sound := by
  unfold State.freshen
  split
  · exact hr.caughtUp _
  · exact hr

theorem State.keeps_incrementCall {h : Nat} {c : Call} {r : Rating} (hc : s.call h = some c)
    (hr : c.rating = some r) : s.Keeps (s.incrementCall h c r) :=
  ((State.Keeps.refl s).freshen h c fun hs => hs.of_call hc hr).ratingStep h c.carrier _ _ fun hs => by
    obtain ⟨hresidue, hamounts⟩ := s.freshen_sound h c (hs.of_call hc hr)
    exact ⟨hresidue, hamounts⟩

theorem State.Keeps.releaseClose (hk : s.Keeps t) (h : Nat) (c : Call) {r : Rating} (cause : CloseCause)
    (hr : s.RatingsSound → r.Sound) : s.Keeps (t.releaseClose h c r cause).1 :=
  ((hk.freshen h c hr).chargeCall h c.carrier _ fun hs => by
    obtain ⟨-, hamounts⟩ := t.freshen_sound h c (hr hs)
    exact ⟨Nat.zero_lt_succ _, hamounts⟩).trans (State.keeps_writeRecord _ _)

/-- A call's rating context, if it has one, is sound where the ratings are. -/
def State.RatesSoundly (s : State) (c : Call) : Prop := s.RatingsSound → ∀ r, c.rating = some r → r.Sound

/-- A call that stands in the Call Table rates soundly. -/
theorem State.ratesSoundly_of_call {h : Nat} {c : Call} (hc : s.call h = some c) : s.RatesSoundly c :=
  fun hs _ hr => hs.of_call hc hr

theorem State.Keeps.closeCall (hk : s.Keeps t) (h : Nat) {c : Call} (hc : s.RatesSoundly c) (cause : CloseCause)
    (holds : Bool) : s.Keeps (t.closeCall h c cause holds).1 := by
  have hrated : s.Keeps (t.ratingClose h c cause).1 := by
    unfold State.ratingClose
    split
    · exact hk.releaseClose h c cause fun hs => hc hs _ ‹_›
    · exact hk
  refine ((hrated.trans ?_).trans (State.keeps_modifyCarrier _ _ _)).trans (State.keeps_eraseCall _ h)
  cases holds
  · exact .refl _
  · exact State.keeps_makeIdle _ _

theorem State.keeps_tellLost (s : State) (h : Nat) (c : Call) (reason : Option Verdict) :
    s.Keeps (s.tellLost h c reason) := s.keeps_raise _ _

theorem State.keeps_reseize (s : State) (h : Nat) (c : Call) (z : Seizure) (tried : List Nat) :
    s.Keeps (s.reseize h c z tried) := by
  unfold State.reseize State.moveOpenCall
  refine State.Keeps.trans (s.keeps_modifyCall h (f := fun c => { c with
    group := z.group, circuit := z.circuit, role := z.role, carrier := z.carrier, quote := z.quote, tried := tried })
    fun _ => rfl) ?_
  split
  · exact .refl _
  · exact (State.keeps_modifyCarrier _ _ _).trans (State.keeps_modifyCarrier _ _ _)

/-! ### Hunting and route selection -/

theorem State.keeps_hunt (s : State) (g : Nat) (cls : CallClass) (role : Role) (h : Nat) :
    s.Keeps (s.hunt g cls role h).2 := by
  rcases s.hunt_spec g cls role h with ⟨n, p, -, he⟩ | ⟨v, -, he⟩ <;> rw [he]
  · exact (s.keeps_modifyGroup g _).trans (State.keeps_setUsage _ n _)
  · exact s.keeps_modifyGroup g _

theorem State.keeps_moveSticky (s : State) (i : PassInput) (c : Candidate) (seized : Bool) :
    s.Keeps (s.moveSticky i c seized) := by
  unfold State.moveSticky
  split
  · exact s.keeps_modifyPlan _ _
  · exact .refl s

theorem passFrom_keeps (i : PassInput) (cs : List Candidate) : ∀ (s : State) (tried : List Nat)
    (trace : List (Nat × Verdict)), s.Keeps (passFrom i cs s tried trace).state := by
  induction cs with
  | nil => exact fun s _ _ => .refl s
  | cons x cs ih =>
    intro s tried trace
    unfold passFrom
    cases s.check i tried x with
    | some v =>
      dsimp only
      split
      · exact .refl s
      · exact ih _ _ _
    | none =>
      have hunted := s.keeps_hunt x.group i.cls x.role (s.huntHandle i)
      rcases hh : s.hunt x.group i.cls x.role (s.huntHandle i) with ⟨n, p⟩ | v
      all_goals
        rw [hh] at hunted
        dsimp only at hunted ⊢
      · exact hunted.trans (State.keeps_moveSticky _ _ _ _)
      · split
        · exact hunted.trans (State.keeps_moveSticky _ _ _ _)
        · exact (hunted.trans (State.keeps_moveSticky _ _ _ _)).trans (ih _ _ _)

theorem State.keeps_pass (s : State) (i : PassInput) (tried : List Nat) : s.Keeps (s.pass i tried).state := by
  unfold State.pass
  split
  · exact .refl s
  · exact passFrom_keeps i _ s tried []

end Sys2Proof.Machine
end

section
/-! PROOFS. Every command keeps every invariant but the agreement of circuits and calls: the statements
StepKeepsRecordQueueSound, StepKeepsRequestQueueSound, StepKeepsControlsInRange and ResetIsSound, and the first half of
StepKeepsRatingsAndTablesSound. -/

namespace Sys2Proof.Machine

open Sys2Proof

variable {s t u : State}

/-! ### Requests -/

theorem State.keeps_arrive (s : State) {r : Request} (hr : r.payload.length ≤ 4096) : s.Keeps (s.arrive r) := by
  have hlink := fun hs : s.link.Sound => hs.arrive hr
  unfold State.arrive at hlink ⊢
  split
  · rw [if_pos ‹_›] at hlink; exact .of_link hlink
  · rw [if_neg ‹_›] at hlink
    dsimp only at hlink ⊢
    split
    · exact (s.keeps_setFlag _).trans (.of_link fun hs => hs)
    · exact s.keeps_setFlag _

theorem State.keeps_dropHeadRequest (s : State) : s.Keeps s.dropHeadRequest := by
  refine .of_link fun ⟨hlen, hreq, hrest⟩ => ⟨?_, fun r hr => hreq r (List.mem_of_mem_tail hr), hrest⟩
  rw [List.length_tail]; omega

/-- A visit due is no part of the period fields' ranges. -/
theorem State.keeps_oweVisitToRequests (s : State) : s.Keeps s.oweVisitToRequests := by
  refine .of_periods fun ⟨hl, hn, hd, hs⟩ => ⟨hl, hn, fun h => ?_, fun sw h => ?_⟩
  · rw [Option.isSome_map]; exact hd h
  · obtain ⟨sw', hsw, rfl⟩ := Option.map_eq_some_iff.mp h
    exact hs sw' hsw

theorem State.keeps_sendFirst (s : State) (m : List Message) : s.Keeps (s.sendFirst m) := .of_link fun hs => hs

/-- A request that is carried out keeps what its effect keeps. -/
theorem State.keeps_carryOut (s : State) (r : Request) {run : List Byte → State → Body × State}
    (hrun : ∀ p s, State.Keeps s (run p s).2) : s.Keeps (s.carryOut r run) := by
  have hstart : s.Keeps s.withoutMessages := .of_link fun hs => hs
  have hdone : s.Keeps
      (if r.overlong then (Body.result .badLength, s.withoutMessages) else run r.payload s.withoutMessages).2 := by
    split
    · exact hstart
    · exact hstart.trans (hrun _ _)
  exact (hdone.trans (State.keeps_sendFirst _ _)).trans (State.keeps_oweVisitToRequests _)

/-- A command that is a request keeps what its taking keeps. -/
theorem State.keeps_serveWith (s : State) {r : Request} (hr : r.payload.length ≤ 4096) {take : State → Request → State}
    (htake : ∀ s, State.Keeps s (take s r)) : s.Keeps (s.serveWith r take) := by
  unfold State.serveWith
  split
  · exact .refl s
  · split
    · split
      · exact s.keeps_dropHeadRequest.trans (htake _)
      · exact .refl s
    · split
      · exact .refl s
      · dsimp only
        split
        · exact ((s.keeps_arrive hr).trans (State.keeps_dropHeadRequest _)).trans (htake _)
        · exact s.keeps_arrive hr

theorem Request.ofPayload_length (type : Byte) (tag : Tag) (payload : List Byte) :
    (Request.ofPayload type tag payload).payload.length ≤ 4096 := List.length_take_le ..

/-- An outcome whose next state keeps what stood in `s`. -/
def State.KeepsIn (s : State) (o : Host.Outcome State Fault Refusal) : Prop := ∀ t, o = .next t → s.Keeps t

theorem State.KeepsIn.next (h : s.Keeps t) : s.KeepsIn (.next t) := by rintro _ ⟨⟩; exact h

theorem State.KeepsIn.refused (r : Refusal) : s.KeepsIn (.refused r) := by rintro _ ⟨⟩

/-- A request of a known code keeps what its effect keeps. -/
theorem request_keeps (type : Byte) (tag : Tag) (payload : List Byte) (s : State)
    {run : List Byte → State → Body × State} (hrun : ∀ p s, State.Keeps s (run p s).2) :
    s.KeepsIn (request type tag payload s run) :=
  .next (s.keeps_serveWith (Request.ofPayload_length ..) fun s => s.keeps_carryOut _ hrun)

/-- A request keeps what its effect keeps on operands that read. -/
theorem request_operands_keeps {α : Type} (type : Byte) (tag : Tag) (payload : List Byte) (s : State)
    {parse : List Byte → Except Result α} {f : α → State → Body × State}
    (hf : ∀ p a s, parse p = .ok a → State.Keeps s (f a s).2) :
    s.KeepsIn (request type tag payload s fun p s => withOperands (parse p) s fun a => f a s) :=
  request_keeps type tag payload s fun p s => withOperands_state (.refl s) fun a ha => hf p a s ha

/-! ### Chapter 1 -/

theorem State.keeps_blockAll (s : State) (ns : List Nat) : s.Keeps (s.blockAll ns) :=
  State.keeps_foldl (fun s n => s.keeps_setCircuit n _) ns s

theorem blockDrain_keeps (tag : Tag) (sc : Scope) (s : State) : s.Keeps (blockDrain tag sc s).2 := by
  unfold blockDrain
  dsimp only
  split
  · exact ((s.keeps_blockAll _).trans (State.keeps_setSpan _ _ _)).trans (State.keeps_completeWatch _ _ _)
  · exact (s.keeps_blockAll _).trans (State.keeps_setSpan _ _ _)

theorem State.keeps_forceCircuit (s : State) (tally : ForcedTally) (n : Nat) : s.Keeps (s.forceCircuit tally n).1 := by
  unfold State.forceCircuit
  split
  · exact .refl s
  · exact s.keeps_makeIdle n
  · split
    · exact ((State.Keeps.refl s).closeCall _ (State.ratesSoundly_of_call ‹_›) _ _).trans (State.keeps_tellLost _ _ _ _)
    · exact .refl s

theorem forceAll_keeps (ns : List Nat) (s : State) (tally : ForcedTally) : s.Keeps (forceAll ns s tally).1 := by
  induction ns generalizing s tally with
  | nil => exact .refl s
  | cons n ns ih => exact (s.keeps_forceCircuit tally n).trans (ih _ _)

theorem blockForced_keeps (sc : Scope) (s : State) : s.Keeps (blockForced sc s).2 :=
  ((s.keeps_blockAll _).trans (forceAll_keeps _ _ _)).trans (State.keeps_completeWatch _ _ _)

theorem unblock_keeps (sc : Scope) (s : State) : s.Keeps (unblock sc s).2 :=
  (State.keeps_foldl (fun s n => (s.keeps_setCircuit n _).trans (State.keeps_unwatch _ n)) _ s).trans
    (State.keeps_completeWatch _ _ _)

theorem setRemote_keeps (b : Bool) (sc : Scope) (s : State) : s.Keeps (setRemote b sc s).2 :=
  State.keeps_foldl (fun s n => s.keeps_setCircuit n _) _ s

theorem State.Keeps.glareContinue (hk : s.Keeps t) (h : Nat) {c : Call} (hc : s.RatesSoundly c) :
    s.Keeps (t.glareContinue h c) := by
  unfold State.glareContinue
  have hpass := hk.trans (t.keeps_pass (c.passInput h false) c.tried)
  dsimp only
  split
  · exact (hpass.trans (State.keeps_reseize _ _ _ _ _)).trans (State.keeps_raise _ _ _)
  · exact (hpass.closeCall h hc _ _).trans (State.keeps_tellLost _ _ _ _)

theorem State.Keeps.glareReroute (hk : s.Keeps t) (h : Nat) {c : Call} (hc : s.RatesSoundly c) :
    s.Keeps (t.glareReroute h c) := by
  unfold State.glareReroute
  have hhunt := hk.trans (t.keeps_hunt c.group c.cls c.role h)
  split
  · exact hk.glareContinue h hc
  · split
    all_goals
      rw [‹t.hunt _ _ _ _ = _›] at hhunt
    · exact (hhunt.trans (State.keeps_reseize _ _ _ _ _)).trans (State.keeps_raise _ _ _)
    · exact hhunt.glareContinue h hc

theorem State.seizeRow_glare {n g h : Nat} {c : Call} (hr : s.seizeRow n = .glare g h c) : s.call h = some c := by
  unfold State.seizeRow at hr
  dsimp only at hr
  split at hr
  · cases hr
  · split at hr
    · cases hr
    · split at hr
      · cases hr
      · split at hr
        · cases hr
        · cases hr
        · split at hr
          · cases hr
          · split at hr
            · cases hr
            · cases hr; assumption

theorem incomingSeize_keeps (n : Nat) (s : State) : s.Keeps (incomingSeize n s).2 := by
  unfold incomingSeize
  split
  · exact .refl s
  · rename_i g h c hrow
    have hcounted := s.keeps_modifyGroup g fun grp => { grp with current := Stats.addGlare grp.current }
    unfold State.glare
    dsimp only
    split
    · exact hcounted
    · exact ((hcounted.trans (State.keeps_setCircuit _ n _)).trans (State.keeps_setUsage _ n _)).glareReroute h
        (State.ratesSoundly_of_call (State.seizeRow_glare hrow))
  · exact (s.keeps_setCircuit n _).trans (State.keeps_setUsage _ n _)

theorem incomingRelease_keeps (n : Nat) (s : State) : s.Keeps (incomingRelease n s).2 := by
  unfold incomingRelease
  split
  · exact (s.keeps_makeIdle n).trans (State.keeps_completeWatch _ _ _)
  · exact .refl s

theorem State.keeps_auditCircuit (s : State) (n : Nat) (v : FarView) : s.Keeps (s.auditCircuit n v).1 := by
  unfold State.auditCircuit
  dsimp only
  split
  · exact .refl s
  · cases v with
    | idle =>
      dsimp only
      split
      · split
        · exact s.keeps_setCircuit n _
        · exact .refl s
      · exact (s.keeps_makeIdle n).trans (State.keeps_setCircuit _ n _)
      · exact .refl s
    | busy =>
      dsimp only
      split
      · exact .refl s
      · exact s.keeps_setUsage n _
    | blocked =>
      dsimp only
      split
      · exact .refl s
      · exact s.keeps_setCircuit n _

theorem auditFrom_keeps (span : Nat) (views : List FarView) (p : Nat) (s : State) :
    s.Keeps (auditFrom span p views s).1 := by
  induction views generalizing p s with
  | nil => exact .refl s
  | cons v views ih => exact (s.keeps_auditCircuit _ v).trans (ih _ _)

theorem circuitAudit_keeps (span first : Nat) (views : List FarView) (s : State) :
    s.Keeps (circuitAudit span first views s).2 := by
  have hkept := (auditFrom_keeps span views first s).trans (State.keeps_setSpan _ span
    { (auditFrom span first views s).1.span span with lastAudit := some (auditFrom span first views s).2 })
  unfold circuitAudit
  dsimp only
  split
  · exact (hkept.trans (State.keeps_setFlag _ _)).trans (State.keeps_completeWatch _ _ _)
  · exact hkept.trans (State.keeps_completeWatch _ _ _)

/-! ### Chapter 2 -/

theorem State.keeps_setGroupOf (s : State) (ns : List Nat) (g : Option Nat) : s.Keeps (s.setGroupOf ns g) :=
  State.keeps_foldl (fun s n => s.keeps_setCircuit n _) ns s

theorem groupDefine_keeps (g : Nat) (d : GroupDefn) (ms : List Nat) (s : State) : s.Keeps (groupDefine g d ms s).2 := by
  unfold groupDefine
  split_ifs
  · exact .refl s
  · exact .refl s
  · exact .refl s
  · exact .refl s
  · exact (s.keeps_setGroupOf ms _).trans (.of_groups fun h => Table.rising_put h _ _)

theorem groupChange_keeps (g : Nat) (d : GroupDefn) (s : State) : s.Keeps (groupChange g d s).2 := by
  unfold groupChange
  split
  · exact .refl s
  · split_ifs
    · exact .refl s
    · exact .refl s
    · exact .refl s
    · exact s.keeps_modifyGroup g _

theorem groupMembers_keeps (g : Nat) (ms : List Nat) (s : State) : s.Keeps (groupMembers g ms s).2 := by
  unfold groupMembers
  split
  · exact .refl s
  · dsimp only
    split_ifs
    · exact .refl s
    · exact .refl s
    · exact ((s.keeps_setGroupOf _ _).trans (State.keeps_setGroupOf _ _ _)).trans (State.keeps_modifyGroup _ g _)

theorem groupDelete_keeps (g : Nat) (s : State) : s.Keeps (groupDelete g s).2 := by
  unfold groupDelete
  split
  · exact .refl s
  · split_ifs
    · exact .refl s
    · exact .refl s
    · exact .refl s
    · exact (s.keeps_setGroupOf _ _).trans (.of_groups fun h => Table.rising_erase h _)

/-! ### A request that reads alone -/

/-- A request that changes nothing keeps everything. -/
theorem State.Keeps.of_eq (h : t = s) : s.Keeps t := h ▸ .refl s

theorem groupRead_state (g : Nat) (s : State) : (groupRead g s).2 = s := by unfold groupRead; split <;> rfl
theorem prefixLookup_state (d : List Nat) (s : State) : (prefixLookup d s).2 = s := by unfold prefixLookup; split <;> rfl
theorem planRead_state (p : Nat) (s : State) : (planRead p s).2 = s := by unfold planRead; split <;> rfl
theorem callRead_state (h : Nat) (s : State) : (callRead h s).2 = s := by unfold callRead; split <;> rfl
theorem tariffRead_state (tf : Nat) (s : State) : (tariffRead tf s).2 = s := by unfold tariffRead; split <;> rfl
theorem carrierReport_state (c : Nat) (s : State) : (carrierReport c s).2 = s := by unfold carrierReport; split <;> rfl

/-! ### Chapters 3, 4 and 5 -/

theorem State.keeps_prefixes (s : State) (ps : List PrefixEntry) : s.Keeps { s with prefixes := ps } :=
  .of_free s s.resetLow s.rateStraps ps s.serialCounter s.pending

theorem prefixWrite_keeps (d : List Nat) (plan : Nat) (s : State) : s.Keeps (prefixWrite d plan s).2 := by
  unfold prefixWrite
  split
  · exact s.keeps_prefixes _
  · split
    · exact .refl s
    · exact s.keeps_prefixes _

theorem prefixDelete_keeps (d : List Nat) (s : State) : s.Keeps (prefixDelete d s).2 := by
  unfold prefixDelete
  split
  · exact .refl s
  · exact s.keeps_prefixes _

theorem planWrite_keeps (plan : Nat) (entries : List PlanEntry) (ceiling : Option Nat) (s : State) :
    s.Keeps (planWrite plan entries ceiling s).2 := by
  unfold planWrite
  split
  · exact .refl s
  · exact .of_plans fun h => Table.rising_put h _ _

theorem planDelete_keeps (plan : Nat) (s : State) : s.Keeps (planDelete plan s).2 := by
  unfold planDelete
  split_ifs
  · exact .refl s
  · exact .refl s
  · exact .of_plans fun h => Table.rising_erase h _

theorem State.keeps_createCall (s : State) (h : Nat) (i : PassInput) (z : Seizure) (tried : List Nat) :
    s.Keeps (s.createCall h i z tried) := by
  unfold State.createCall
  dsimp only
  refine (s.keeps_modifyCarrier z.carrier fun k => { k with openCalls := k.openCalls + 1 }).trans
    (State.Keeps.trans (.of_calls (fun hr => Table.rising_put hr h _) fun hs k c r hm hc => ?_)
      (.of_free _ _ _ _ (wrap32 (s.serialCounter + 1)) _))
  · rcases Table.mem_put hm with heq | hm
    · cases heq; cases hc
    · exact hs k c r hm hc

theorem callSetup_keeps (o : SetupOperands) (s : State) : s.Keeps (callSetup o s).2 := by
  unfold callSetup
  split
  · exact .refl s
  · split
    · exact .refl s
    · exact .refl s
    · unfold setupPass
      dsimp only
      split
      · exact (s.keeps_pass _ _).trans (State.keeps_createCall _ _ _ _ _)
      · exact s.keeps_pass _ _

theorem State.namedCall_ok {h : Nat} {expected : Option Nat} {c : Call} (hc : s.namedCall h expected = .ok c) :
    s.call h = some c := by
  unfold State.namedCall at hc
  split at hc
  · cases hc
  · split at hc
    · cases hc
    · cases hc; assumption

theorem State.keeps_crankback (s : State) (c : Call) (cause : RetryCause) : s.Keeps (s.crankback c cause) := by
  unfold State.crankback
  dsimp only
  refine State.Keeps.trans ?_ (State.keeps_modifyGroup _ _ _)
  cases cause
  · exact s.keeps_makeIdle _
  · exact (s.keeps_makeIdle _).trans (State.keeps_setCircuit _ _ _)

theorem retrySearch_keeps (hk : s.Keeps t) (h : Nat) {c : Call} (hc : s.RatesSoundly c) :
    s.Keeps (retrySearch h c t).2 := by
  unfold retrySearch
  dsimp only
  split
  · exact hk.closeCall h hc _ _
  · split
    · exact (hk.trans (t.keeps_pass _ _)).trans (State.keeps_reseize _ _ _ _ _)
    · exact (hk.trans (t.keeps_pass _ _)).closeCall h hc _ _

theorem callRetry_keeps (h : Nat) (cause : RetryCause) (expected : Option Nat) (s : State) :
    s.Keeps (callRetry h cause expected s).2 := by
  unfold callRetry
  split
  · exact .refl s
  · split
    · exact .refl s
    · exact (retrySearch_keeps (s.keeps_crankback _ cause) h
        (State.ratesSoundly_of_call (State.namedCall_ok ‹_›))).trans (State.keeps_completeWatch _ _ _)

theorem callAnswer_keeps (h : Nat) (expected : Option Nat) (s : State) : s.Keeps (callAnswer h expected s).2 := by
  unfold callAnswer
  split
  · exact .refl s
  · dsimp only
    split_ifs
    · exact .refl s
    · exact s.keeps_modifyCall h fun _ => rfl
    · exact (s.keeps_modifyCall h (f := fun c => { c with answeredAt := some s.time.seconds }) fun _ => rfl).trans
        (State.keeps_answerEvent _ _ _)

theorem callRelease_keeps (h : Nat) (cause : CloseCause) (expected : Option Nat) (s : State) :
    s.Keeps (callRelease h cause expected s).2 := by
  unfold callRelease
  split
  · exact .refl s
  · exact ((State.Keeps.refl s).closeCall h (State.ratesSoundly_of_call (State.namedCall_ok ‹_›)) _ _).trans
      (State.keeps_completeWatch _ _ _)

end Sys2Proof.Machine
end

section
/-! PROOFS. Every command keeps every invariant but the agreement of circuits and calls: the statements
StepKeepsRecordQueueSound, StepKeepsRequestQueueSound, StepKeepsControlsInRange and ResetIsSound, and the first half of
StepKeepsRatingsAndTablesSound. -/

namespace Sys2Proof.Machine

open Sys2Proof

variable {s t u : State}

/-! ### Chapters 6 and 7 -/

theorem State.sampleGroup_frame (s : State) (g : Nat) : ∃ gs l, s.sampleGroup g = { s with groups := gs, link := l } := by
  unfold State.sampleGroup
  split
  · exact ⟨s.groups, s.link, rfl⟩
  · dsimp only
    split
    · exact ⟨_, s.link, rfl⟩
    · cases s.enabled .level && (_ : Group).defn.levelNotice <;> exact ⟨_, _, rfl⟩

theorem State.keeps_sampleGroup (s : State) (g : Nat) : s.Keeps (s.sampleGroup g) := by
  unfold State.sampleGroup
  split
  · exact .refl s
  · dsimp only
    split
    · exact s.keeps_modifyGroup g _
    · exact (s.keeps_modifyGroup g _).trans (State.keeps_report _ _ _ _ _)

theorem State.foldl_sampleGroup_frame (l : List Nat) (s : State) :
    ∃ gs lk, l.foldl State.sampleGroup s = { s with groups := gs, link := lk } := by
  induction l generalizing s with
  | nil => exact ⟨s.groups, s.link, rfl⟩
  | cons g l ih =>
    obtain ⟨gs, lk, h⟩ := s.sampleGroup_frame g
    obtain ⟨gs', lk', h'⟩ := ih (s.sampleGroup g)
    exact ⟨gs', lk', by rw [List.foldl_cons, h', h]⟩

theorem State.keeps_reportGuard (s : State) (old : GuardState) (cause : GuardCause) (m : Option (Nat × Nat)) :
    s.Keeps (s.reportGuard old cause m) := by
  unfold State.reportGuard
  split
  · exact .refl s
  · exact s.keeps_report _ _ _ _

/-- The guard's fields in range, as the controls ask (R113). -/
def Guard.Sound (g : Guard) : Prop :=
  g.gGroups ≤ 256 ∧ g.qGuard ≤ 64 ∧ (1 ≤ g.depth ∧ g.depth ≤ 8) ∧ g.clearCount < 3

/-- The monitor's fields in range, as the controls ask (R96). -/
def Monitor.Sound (m : Monitor) : Prop :=
  (1 ≤ m.sampleInterval ∧ m.sampleInterval ≤ 60) ∧ (1 ≤ m.statsInterval ∧ m.statsInterval ≤ 720) ∧
    m.samplesInInterval ≤ 719 ∧ (m.nextSample = none ↔ m.hold = .held)

theorem State.controlSound_iff (s : State) : s.ControlSound ↔ s.monitor.Sound ∧ s.guard.Sound := by
  unfold State.ControlSound Monitor.Sound Guard.Sound
  tauto

theorem State.Keeps.of_monitor {m : Monitor} (h : s.monitor.Sound → m.Sound) : s.Keeps { s with monitor := m } :=
  .of_control fun hs => (State.controlSound_iff _).mpr (((State.controlSound_iff _).mp hs).imp_left h)

theorem State.Keeps.of_guard {g : Guard} (h : s.guard.Sound → g.Sound) : s.Keeps { s with guard := g } :=
  .of_control fun hs => (State.controlSound_iff _).mpr (((State.controlSound_iff _).mp hs).imp_right h)

theorem Guard.Sound.autoStep {g : Guard} (h : g.Sound) (c : Bool) : (g.autoStep c).Sound := by
  obtain ⟨hg, hq, hd, hc⟩ := h
  unfold Guard.autoStep
  split
  · exact ⟨hg, hq, hd, Nat.zero_lt_succ _⟩
  · exact ⟨hg, hq, hd, Nat.zero_lt_succ _⟩
  · exact ⟨hg, hq, hd, Nat.zero_lt_succ _⟩
  · split
    · exact ⟨hg, hq, hd, ‹_›⟩
    · exact ⟨hg, hq, hd, Nat.zero_lt_succ _⟩

theorem Guard.Sound.evaluated {g : Guard} (h : g.Sound) (seconds congested depth : Nat) :
    (g.evaluated seconds congested depth).Sound := by
  unfold Guard.evaluated
  dsimp only
  split
  · exact Guard.Sound.autoStep (g := { g with lastEval := some _ }) h _
  · exact h

theorem State.keeps_evaluateGuard (s : State) (congested depth : Nat) : s.Keeps (s.evaluateGuard congested depth) :=
  (State.Keeps.of_guard fun h => h.evaluated s.time.seconds congested depth).trans (State.keeps_reportGuard _ _ _ _)

theorem State.keeps_rollover (s : State) : s.Keeps s.rollover := by
  unfold State.rollover
  dsimp only
  split
  · refine State.Keeps.trans (.of_groups fun h => Table.rising_mapAll h _) (.of_monitor fun ⟨hi, hst, hn, hh⟩ => ?_)
    exact ⟨hi, hst, Nat.zero_le _, hh⟩
  · refine .of_monitor fun ⟨hi, hst, hn, hh⟩ => ⟨hi, hst, ?_, hh⟩
    dsimp only; omega

theorem State.rollover_hold (s : State) : s.rollover.monitor.hold = s.monitor.hold := by
  unfold State.rollover; dsimp only; split <;> rfl

theorem State.keeps_sample (h : s.monitor.hold = .running) : s.Keeps s.sample := by
  have hfold := State.keeps_foldl State.keeps_sampleGroup (s.groups.map fun e => e.1) s
  obtain ⟨gs, lk, hf⟩ := State.foldl_sampleGroup_frame (s.groups.map fun e => e.1) s
  have hhold : (State.rollover ((s.groups.map fun e => e.1).foldl State.sampleGroup s)).monitor.hold = .running := by
    rw [State.rollover_hold, hf, h]
  refine (hfold.trans ((State.keeps_rollover _).trans (.of_monitor fun ⟨hi, hst, hn, _⟩ => ?_))).trans
    (State.keeps_evaluateGuard _ _ _)
  exact ⟨hi, hst, hn, by simp [hhold]⟩

theorem groupReport_keeps (g : Nat) (clear : Bool) (s : State) : s.Keeps (groupReport g clear s).2 := by
  unfold groupReport
  split
  · exact .refl s
  · cases clear
    · exact .refl s
    · exact s.keeps_modifyGroup g _

theorem clamp_mem {low high : Nat} (h : low ≤ high) (n : Nat) : low ≤ clamp low high n ∧ clamp low high n ≤ high := by
  rw [clamp_eq h]; omega

theorem monitorSet_keeps (a b : Nat) (s : State) : s.Keeps (monitorSet a b s).2 :=
  .of_monitor fun ⟨_, _, hn, hh⟩ => ⟨clamp_mem (by decide) a, clamp_mem (by decide) b, hn, hh⟩

theorem monitorHold_keeps (s : State) : s.Keeps (monitorHold s).2 := by
  unfold monitorHold
  split
  · rename_i n _ hn
    exact .of_monitor fun ⟨hi, hst, hc, _⟩ => ⟨hi, hst, hc, by simp [hn]⟩
  · exact .refl s

theorem monitorResume_keeps (s : State) : s.Keeps (monitorResume s).2 := by
  unfold monitorResume
  split
  · refine State.Keeps.trans (.of_groups fun h => Table.rising_mapAll h _) (.of_monitor fun ⟨hi, hst, hn, _⟩ => ?_)
    exact ⟨hi, hst, hn, by simp⟩
  · rename_i n _ hn
    exact .of_monitor fun ⟨hi, hst, hc, _⟩ => ⟨hi, hst, hc, by simp [hn]⟩
  · exact .refl s

theorem guardSet_keeps (setting : GuardSetting) (s : State) : s.Keeps (guardSet setting s).2 :=
  (State.Keeps.of_guard (g := s.guard.set setting) fun ⟨hg, hq, hd, _⟩ =>
    ⟨hg, hq, hd, Nat.zero_lt_succ _⟩).trans (State.keeps_reportGuard _ _ _ _)

theorem guardParameters_keeps {p : List Byte} {o : Nat × Nat × Nat} (hp : parseGuardParameters p = .ok o) (s : State) :
    s.Keeps (guardParameters o.1 o.2.1 o.2.2 s).2 := by
  obtain ⟨hg, hq⟩ := parseGuardParameters_ok hp
  exact .of_guard fun ⟨_, _, _, hc⟩ => ⟨hg, hq, clamp_mem (by decide) _, hc⟩

/-! ### Chapter 8 -/

theorem State.keeps_activateTariff (cause : TariffCause) (s : State) (tf : Nat) :
    s.Keeps (State.activateTariff cause s tf) := by
  unfold State.activateTariff
  split
  · exact .refl s
  · exact State.Keeps.trans (.of_tariffs fun h => Table.rising_modify h _ _) (State.keeps_report _ _ _ _ _)

theorem State.keeps_activateReached (s : State) (cause : TariffCause) : s.Keeps (s.activateReached cause) :=
  State.keeps_foldl (State.keeps_activateTariff cause) _ s

theorem State.keeps_advance (s : State) : s.Keeps s.advance := by
  refine State.Keeps.trans (.of_clock (c := s.time.advance) (m := s.bandMap) fun ⟨hs, ht, hd, hb⟩ => ?_)
    (.of_periods fun ⟨hl, hn, hd, hs⟩ => ⟨hl, hn, fun h => ?_, fun sw h => ?_⟩)
  · unfold State.ClockSound TimeBase.advance
    split
    · exact ⟨wrap32_lt _, Nat.zero_lt_succ _, Nat.mod_lt _ (by decide), hb⟩
    · exact ⟨wrap32_lt _, by dsimp only; omega, hd, hb⟩
  · rw [Option.isSome_map]; exact hd h
  · obtain ⟨sw', hsw, rfl⟩ := Option.map_eq_some_iff.mp h
    exact hs sw' hsw

theorem clockSet_keeps {p : List Byte} {i : Instant} (hp : parseClockSet p = .ok i) (s : State) :
    s.Keeps (clockSet i s).2 := by
  obtain ⟨htime, hday⟩ := parseClockSet_ok hp
  refine State.Keeps.trans (.of_clock (m := s.bandMap) fun ⟨hs, _, _, hb⟩ => ?_) (State.keeps_activateReached _ _)
  exact ⟨hs, by dsimp only; omega, by dsimp only; omega, hb⟩

theorem readNums_length {n count : Nat} {bs rest : List Byte} {vs : List Nat}
    (h : readNums n count bs = some (vs, rest)) : vs.length = count := by
  induction count generalizing bs vs with
  | zero => cases h; rfl
  | succ count ih =>
    unfold readNums at h
    split at h
    · cases h
    · obtain ⟨⟨ws, r⟩, hw, he⟩ := Option.map_eq_some_iff.mp h
      cases he
      rw [List.length_cons, ih hw]

theorem parseBandMap_length {p : List Byte} {bands : List Nat} (h : parseBandMap p = .ok bands) : bands.length = 48 := by
  obtain ⟨bs, hread, h⟩ := whole_bind_ok h
  obtain ⟨-, h⟩ := valid_bind_ok h
  cases h
  exact readNums_length hread

theorem bandMapWrite_keeps {p : List Byte} {bands : List Nat} (hp : parseBandMap p = .ok bands) (s : State) :
    s.Keeps (bandMapWrite bands s).2 :=
  .of_clock (c := s.time) fun ⟨hs, ht, hd, _⟩ => ⟨hs, ht, hd, parseBandMap_length hp, parseBandMap_ok hp⟩

theorem tariffWrite_keeps (tf : Nat) (v : Version) (effective : Option Instant) (s : State) :
    s.Keeps (tariffWrite tf v effective s).2 := by
  unfold tariffWrite
  dsimp only
  split
  · exact .refl s
  · exact .of_tariffs fun h => Table.rising_put h _ _

theorem tariffCancel_keeps (tf : Nat) (s : State) : s.Keeps (tariffCancel tf s).2 := by
  unfold tariffCancel
  split
  · exact .refl s
  · split
    · exact .refl s
    · exact .of_tariffs fun h => Table.rising_put h _ _

theorem tariffDelete_keeps (tf : Nat) (s : State) : s.Keeps (tariffDelete tf s).2 := by
  unfold tariffDelete
  split
  · exact .refl s
  · split_ifs
    · exact .refl s
    · exact .refl s
    · exact .of_tariffs fun h => Table.rising_erase h _

/-! ### Chapter 10 -/

theorem carrierWrite_keeps (o : CarrierOperands) (s : State) : s.Keeps (carrierWrite o s).2 := by
  unfold carrierWrite
  split
  · exact .refl s
  · split
    · exact State.Keeps.trans (.of_carriers fun h => Table.rising_put h _ _) (State.keeps_evaluateCap _ _ _)
    · exact State.Keeps.trans (.of_carriers fun h => Table.rising_put h _ _) (State.keeps_evaluateCap _ _ _)

theorem carrierDelete_keeps (c : Nat) (s : State) : s.Keeps (carrierDelete c s).2 := by
  unfold carrierDelete
  split
  · exact .refl s
  · split
    · exact .refl s
    · split_ifs
      · exact .refl s
      · exact .refl s
      · exact .of_carriers fun h => Table.rising_erase h _

theorem clampLength_mem (n : Nat) : clampLength n ∈ periodLengths := by
  unfold clampLength
  cases h : (periodLengths.filter fun l => decide (l ≤ n)).getLast? with
  | none => decide
  | some l => exact (List.mem_filter.mp (List.mem_of_getLast? h)).1

theorem periodLength_keeps (n : Nat) (s : State) : s.Keeps (periodLength n s).2 :=
  .of_periods fun ⟨_, hn, hd, hs⟩ => ⟨clampLength_mem n, hn, hd, hs⟩

theorem State.keeps_closeStart (s : State) (cause : PeriodCause) : s.Keeps (s.closeStart cause) := by
  have hflag : s.Keeps (if s.unreadSnapshots = 0 then s else s.setFlag .snapshotLost) := by
    split
    · exact .refl s
    · exact s.keeps_setFlag _
  refine hflag.trans (State.Keeps.trans (.of_carriers fun h => Table.rising_map h _ fun e => ?_)
    (.of_periods fun ⟨hl, _, _, _⟩ => ⟨?_, wrap32_lt _, fun _ => rfl, fun sw h => ?_⟩))
  · split <;> rfl
  · exact hl
  · cases h; exact Nat.zero_lt_succ _

theorem periodClose_keeps (s : State) : s.Keeps (periodClose s).2 := by
  unfold periodClose
  split
  · exact .refl s
  · exact s.keeps_closeStart _

theorem periodReport_keeps (s : State) : s.Keeps (periodReport s).2 := .of_carriers fun h => Table.rising_mapAll h _

theorem State.keeps_endSweep (s : State) (sw : Sweep) : s.Keeps (s.endSweep sw) := by
  have htold : s.Keeps (s.sweepTold sw) :=
    State.Keeps.trans (.of_carriers fun h => Table.rising_mapAll h _) (State.keeps_report _ _ _ _ _)
  have hended : s.Keeps { s.sweepTold sw with
      periods := { (s.sweepTold sw).periods with sweep := none, deferred := false } } := by
    refine htold.trans (.of_periods fun ⟨hl, hn, _, _⟩ => ⟨hl, hn, ?_, ?_⟩)
    · intro h; cases h
    · intro sw h; cases h
  rw [s.endSweep_eq]
  dsimp only
  split
  · exact hended.trans (State.keeps_closeStart _ _)
  · exact hended

theorem State.keeps_visitCall (s : State) (h : Nat) : s.Keeps (s.visitCall h) := by
  unfold State.visitCall
  split
  · exact .refl s
  · split
    · exact .refl s
    · split
      · exact (State.Keeps.refl s).catchUp _ _ _ fun hs => hs.of_call ‹_› ‹_›
      · exact .refl s

theorem State.keeps_sweepVisit (s : State) : s.Keeps s.sweepVisit := by
  unfold State.sweepVisit
  split
  · exact .refl s
  · dsimp only
    split
    · exact (s.keeps_visitCall _).trans (State.keeps_endSweep _ _)
    · refine (s.keeps_visitCall _).trans (.of_periods fun ⟨hl, hn, _, _⟩ => ⟨hl, hn, fun _ => rfl, fun sw h => ?_⟩)
      cases h
      dsimp only; omega

theorem State.keeps_finishSweep (fuel : Nat) (s : State) : s.Keeps (State.finishSweep fuel s) := by
  induction fuel generalizing s with
  | zero => exact .refl s
  | succ fuel ih =>
    unfold State.finishSweep
    split
    · exact s.keeps_sweepVisit.trans (ih _)
    · exact .refl s

/-! ### Chapter 11 -/

theorem recordFetch_keeps (n : Nat) (s : State) : s.Keeps (recordFetch n s).2 := by
  unfold recordFetch
  split
  · exact .refl s
  · dsimp only
    split
    · exact .refl s
    · refine s.keeps_evaluateThresholds _ .count fun ⟨hl, ha, hf, _⟩ => ⟨?_, ha, hf⟩
      simp only [List.length_append, List.length_take, List.length_drop]
      omega

theorem queueThresholds_keeps (ae af : Nat) (s : State) : s.Keeps (queueThresholds ae af s).2 :=
  s.keeps_evaluateThresholds _ .thresholdWritten fun ⟨hl, _⟩ => ⟨hl, Nat.min_le_right .., Nat.min_le_right ..⟩

theorem drainMode_keeps (m : DrainMode) (s : State) : s.Keeps (drainMode m s).2 := .of_records fun hs => hs

/-! ### Chapter 12 -/

/-- Power-on leaves no circuit in use, no call, no group and no open watch (R3, R4, R26, R73). -/
theorem State.agrees_reset : State.reset.Agrees := by
  refine ⟨⟨fun n h => ⟨by rintro ⟨⟩, by rintro ⟨c, hc, -⟩; cases hc⟩, fun h hc => absurd rfl hc⟩,
    ⟨fun n g => ⟨by rintro ⟨⟩, by rintro ⟨grp, hg, -⟩; cases hg⟩, fun n hu => absurd rfl hu, ?_⟩, ?_⟩
  · rintro g grp ⟨⟩
  · rintro m w ⟨⟩

/-- Settles O56: every block's power-on values are in range, and no circuit, call, group or watch stands. -/
theorem resetIsSound : Obligations.ResetIsSound := by
  unfold Obligations.ResetIsSound
  refine ⟨⟨by decide, by decide, by decide, by decide, by decide⟩, ⟨by decide, by decide, ?noAssembly, by decide⟩,
    ⟨by decide, by decide, by decide, by decide, by decide⟩,
    ⟨by decide, by decide, by decide, by decide, by decide, by decide, by decide, by decide⟩,
    ⟨by decide, by decide, by decide, ?noSweep⟩, ?noRating,
    ⟨rfl, rfl, rfl, rfl, rfl, rfl, rfl, ?noCircuit, ?noSpan⟩, State.agrees_reset⟩
  case noAssembly => rintro _ ⟨⟩
  case noSweep => rintro _ ⟨⟩
  case noRating => rintro h c r hm; cases hm
  case noCircuit => rintro _ ⟨⟩
  case noSpan => rintro _ ⟨⟩

/-- The power-on state is sound whatever stood before it (R193). -/
theorem State.keeps_poweredOn (s : State) (straps : BitVec 2) (low : Bool) : s.Keeps (s.poweredOn straps low) := by
  obtain ⟨hrecords, hlink, hclock, hcontrol, hperiods, hratings, htables, -⟩ := resetIsSound
  exact ⟨fun _ => hrecords, fun _ => hlink, fun _ => hclock, fun _ => hcontrol, fun _ => hperiods,
    fun _ => hratings, fun _ => htables⟩

theorem State.keeps_frameError (s : State) : s.Keeps s.frameError :=
  (s.keeps_setFlag _).trans (.of_link fun ⟨hl, hr, _, hms⟩ => ⟨hl, hr, by rintro _ ⟨⟩, hms⟩)

theorem State.keeps_acceptFrame (s : State) (type : Byte) (tag : Tag) (payload : List Byte) :
    s.Keeps (s.acceptFrame type tag payload) := by
  have hjoined : ∀ (a : Request) (p : List Byte), (a.join p).payload.length ≤ 4096 := fun a p => List.length_take_le ..
  have hfinish : ∀ (t : State) (r : Request), s.Keeps t → r.payload.length ≤ 4096 →
      s.Keeps (if type.getLsbD 6 then t.setAssembly (some r) else (t.setAssembly none).arrive r) := by
    intro t r hk hr
    split
    · exact hk.trans (.of_link fun ⟨hl, hq, _, hms⟩ => ⟨hl, hq, by rintro _ ⟨⟩; exact hr, hms⟩)
    · refine State.Keeps.trans (hk.trans ?_) (State.keeps_arrive (t.setAssembly none) hr)
      refine .of_link fun ⟨hl, hq, _, hms⟩ => ⟨hl, hq, ?_, hms⟩
      rintro _ ⟨⟩
  unfold State.acceptFrame
  dsimp only
  cases s.link.assembly with
  | none => exact hfinish s _ (.refl s) (Request.ofPayload_length ..)
  | some a =>
    dsimp only
    by_cases ha : a.type = type &&& 0xBF ∧ a.tag = tag
    · rw [if_pos ha]; exact hfinish s _ (.refl s) (hjoined _ _)
    · rw [if_neg ha]; exact hfinish _ _ s.keeps_frameError (Request.ofPayload_length ..)

theorem State.keeps_acceptContent (s : State) (content : List Byte) : s.Keeps (s.acceptContent content) := by
  unfold State.acceptContent
  split
  · exact s.keeps_acceptFrame _ _ _
  · exact .refl s

theorem State.keeps_setReceived (s : State) (bs : List Byte) : s.Keeps (s.setReceived bs) := .of_link fun hs => hs

theorem State.keeps_receive (fuel : Nat) (s : State) : s.Keeps (State.receive fuel s) := by
  induction fuel generalizing s with
  | zero => exact .refl s
  | succ fuel ih =>
    unfold State.receive
    split
    · exact s.keeps_setReceived _
    · exact (s.keeps_frameError.trans (State.keeps_setReceived _ _)).trans (ih _)
    · exact ((s.keeps_setReceived _).trans (State.keeps_acceptContent _ _)).trans (ih _)

theorem execFrameReceived_keeps (bytes : List Byte) (s : State) : s.KeepsIn (execFrameReceived bytes s) := by
  unfold execFrameReceived
  split
  · exact .next (.refl s)
  · unfold State.takeBytes
    refine .next (State.Keeps.trans ?_ ((State.keeps_setReceived _ _).trans (State.keeps_receive _ _)))
    refine .of_link fun ⟨hl, hr, ha, hms⟩ => ⟨hl, hr, ha, ?_⟩
    dsimp only
    split
    · exact hms
    · exact Nat.zero_lt_succ _

/-- Counting records as lost leaves the queue and its flags alone (R179). -/
theorem RecordQueue.foldl_lose_sound (rs : List Record) {q : RecordQueue} (h : q.Sound) :
    (rs.foldl RecordQueue.lose q).Sound := by
  induction rs generalizing q with
  | nil => exact h
  | cons r rs ih => exact ih h

theorem State.keeps_loseHead (s : State) : s.Keeps s.loseHead := by
  unfold State.loseHead
  split
  · exact .refl s
  · rename_i r rest hq
    refine s.keeps_evaluateThresholds _ .count fun ⟨hl, ha, hf, _⟩ => ⟨?_, ha, hf⟩
    rw [hq, List.length_cons] at hl
    exact Nat.le_of_succ_le hl

theorem State.keeps_linkRestart (s : State) : s.Keeps s.linkRestart := by
  have hemptied : s.Keeps { s with link := { s.link with
      requests := [], sendList := [], transmitter := none, assembly := none, received := [], lineBroken := true
      spaceMs := 0, flags := s.abandoned.foldl (fun f m => f ||| m.clearedFlags) s.link.flags } } :=
    .of_link fun _ => ⟨Nat.zero_le _, by rintro _ ⟨⟩, by rintro _ ⟨⟩, Nat.zero_lt_succ _⟩
  unfold State.linkRestart
  dsimp only
  split
  · exact ((hemptied.trans (State.keeps_loseHead _)).trans (.of_records (RecordQueue.foldl_lose_sound _))).trans
      (State.keeps_setFlag _ _)
  · exact (hemptied.trans (.of_records (RecordQueue.foldl_lose_sound _))).trans (State.keeps_setFlag _ _)

/-! ### The device restart -/

theorem restartCloses_keeps (hs : List Nat) (s : State) (tally : RestartTally) : s.Keeps (restartCloses hs s tally).1 := by
  induction hs generalizing s tally with
  | nil => exact .refl s
  | cons h hs ih =>
    unfold restartCloses
    split
    · exact ih _ _
    · exact ((State.Keeps.refl s).closeCall h (State.ratesSoundly_of_call ‹_›) _ _).trans (ih _ _)

theorem State.keeps_closeWatch (s : State) (sp : Nat) : s.Keeps (s.closeWatch sp) :=
  (s.keeps_setSpan _ _).trans (State.keeps_completeWatch _ _ _)

theorem Monitor.Sound.restarted {m : Monitor} (h : m.Sound) (seconds : Nat) : (m.restarted seconds).Sound := by
  obtain ⟨hi, hst, -, -⟩ := h
  refine ⟨hi, hst, Nat.zero_le _, ?_⟩
  unfold Monitor.restarted
  dsimp only
  split <;> simp_all

theorem Guard.Sound.restarted {g : Guard} (h : g.Sound) : g.restarted.Sound := by
  obtain ⟨hg, hq, hd, -⟩ := h
  exact ⟨hg, hq, hd, Nat.zero_lt_succ _⟩

theorem State.keeps_restartBlocks (s : State) : s.Keeps s.restartBlocks :=
  ((State.Keeps.of_groups fun h => Table.rising_mapAll h Group.restarted).trans
    ((State.Keeps.of_monitor fun h => h.restarted s.time.seconds).trans
      (.of_guard fun h => Guard.Sound.restarted h))).trans (State.keeps_reportGuard _ _ _ _)

/-- The stages of a device restart (R190): the sweep, the calls, the circuits, the watches, the blocks. -/
theorem deviceRestart_state (s : State) :
    (deviceRestart s).2 =
      let swept := State.finishSweep 16384 s
      let idled := (restartCloses (swept.calls.map fun e => e.1) swept { calls := 0, records := 0 }).1.idleAll
      (idled.openWatches.foldl State.closeWatch idled).restartBlocks := by
  unfold deviceRestart
  generalize 16384 = fuel
  rfl

theorem deviceRestart_keeps (s : State) : s.Keeps (deviceRestart s).2 := by
  rw [deviceRestart_state]
  generalize 16384 = fuel
  dsimp only
  refine State.Keeps.trans ?_ (State.keeps_restartBlocks _)
  refine State.Keeps.trans ?_ (State.keeps_foldl State.keeps_closeWatch _ _)
  refine State.Keeps.trans ?_ (State.keeps_foldl State.keeps_makeIdle _ _)
  exact (s.keeps_finishSweep fuel).trans (restartCloses_keeps _ _ _)

/-! ### Events -/

theorem execIncrement_keeps (h : Nat) (s : State) : s.KeepsIn (execIncrement h s) := by
  unfold execIncrement
  split
  · exact .next (.refl s)
  · split
    · exact .next (.refl s)
    · split
      · exact .next (.refl s)
      · exact .next (State.keeps_incrementCall ‹_› ‹_›)

theorem execPeriodBoundary_keeps (s : State) : s.KeepsIn (execPeriodBoundary s) := by
  unfold execPeriodBoundary
  split
  · exact .next (.refl s)
  · dsimp only
    split
    · refine .next (State.Keeps.trans ?_ (State.keeps_closeStart _ _))
      exact .of_periods fun hs => hs
    · rename_i sw hsw
      refine .next (.of_periods fun ⟨hl, hn, _, hs⟩ => ⟨hl, hn, fun _ => ?_, hs⟩)
      rw [hsw]; rfl

theorem execSampleInstant_keeps (s : State) : s.KeepsIn (execSampleInstant s) := by
  unfold execSampleInstant
  split
  · exact .next (.refl s)
  · split
    · exact .next (State.keeps_sample ‹_›)
    · refine .next (.of_monitor fun ⟨hi, hst, hn, _⟩ => ⟨hi, hst, hn, ?_⟩)
      exact iff_of_true rfl rfl
    · exact .next (.refl s)

theorem execPowerOn_keeps (cause : PowerCause) (straps : BitVec 2) (s : State) :
    s.KeepsIn (execPowerOn cause straps s) := by
  unfold execPowerOn
  cases cause with
  | powerApplied => exact .next (s.keeps_poweredOn _ _)
  | resetPinLow us =>
    dsimp only
    split
    · exact .next (.refl s)
    · exact .next (s.keeps_poweredOn _ _)

theorem execLinkBreak_keeps (ms : Nat) (s : State) : s.KeepsIn (execLinkBreak ms s) := by
  unfold execLinkBreak
  split
  · exact .next (.refl s)
  · split
    · exact .next (.of_link fun ⟨hl, hr, ha, _⟩ => ⟨hl, hr, ha, ‹_›⟩)
    · exact .next s.keeps_linkRestart

theorem execMessageBegin_keeps (s : State) : s.KeepsIn (execMessageBegin s) := by
  unfold execMessageBegin
  split
  · split
    · exact .next (.refl s)
    · exact .next (.of_link fun hs => hs)
  · exact .next (.refl s)

theorem execMessageEnd_keeps (s : State) : s.KeepsIn (execMessageEnd s) := by
  unfold execMessageEnd
  split
  · exact .next (.refl s)
  · exact .next (.of_link fun hs => hs)

theorem execRecordNoticeBegin_keeps (s : State) : s.KeepsIn (execRecordNoticeBegin s) := by
  unfold execRecordNoticeBegin
  split
  · split
    · exact .next (.refl s)
    · exact .next (.of_link fun hs => hs)
  · exact .next (.refl s)

theorem execRecordNoticeEnd_keeps (s : State) : s.KeepsIn (execRecordNoticeEnd s) := by
  unfold execRecordNoticeEnd
  split
  · exact .next (.refl s)
  · refine .next (State.Keeps.trans (t := { s with link := { s.link with transmitter := none } })
      (.of_link fun hs => hs) (State.keeps_evaluateThresholds _ _ .count fun ⟨hl, ha, hf, _⟩ => ⟨?_, ha, hf⟩))
    rw [List.length_tail]; exact Nat.le_trans (Nat.sub_le ..) hl

theorem execLineReturnsToMark_keeps (s : State) : s.KeepsIn (execLineReturnsToMark s) := by
  unfold execLineReturnsToMark
  split
  · exact .next (.refl s)
  · exact .next (.of_link fun ⟨hl, hr, ha, _⟩ => ⟨hl, hr, ha, Nat.zero_lt_succ _⟩)

theorem execResetPinReturnsHigh_keeps (s : State) : s.KeepsIn (execResetPinReturnsHigh s) := by
  unfold execResetPinReturnsHigh
  split
  · exact .next (State.Keeps.trans (.of_free s false s.rateStraps s.prefixes s.serialCounter s.pending)
      (.of_link fun ⟨hl, hr, ha, _⟩ => ⟨hl, hr, ha, Nat.zero_lt_succ _⟩))
  · exact .next (.refl s)

theorem execUnknownRequest_keeps (type : Byte) (tag : Tag) (payload : List Byte) (s : State) :
    s.KeepsIn (execUnknownRequest type tag payload s) := by
  unfold execUnknownRequest
  split
  · exact .refused _
  · exact .next (s.keeps_serveWith (Request.ofPayload_length ..) fun s => s.keeps_carryOut _ fun _ s => .refl s)

/-- A choice between a refusal and a request. -/
theorem State.KeepsIn.ite {b : Bool} {o : Host.Outcome State Fault Refusal} {r : Refusal} (h : s.KeepsIn o) :
    s.KeepsIn (if b then .refused r else o) := by
  split
  · exact .refused r
  · exact h

/-- A choice between two next states. -/
theorem State.KeepsIn.next_ite {b : Bool} (ht : s.Keeps t) (hu : s.Keeps u) :
    s.KeepsIn (if b then .next t else .next u) := by
  split
  · exact .next ht
  · exact .next hu

/-! ### Every command -/

/-- Every command keeps every invariant but the agreement of circuits and calls. -/
theorem exec_keeps (i : Instr) (s : State) : s.KeepsIn (exec i s) := by
  cases i with
  | powerOn cause straps => exact execPowerOn_keeps cause straps s
  | frameReceived bytes => exact execFrameReceived_keeps bytes s
  | linkBreak spaceMs => exact execLinkBreak_keeps spaceMs s
  | messageBegin => exact execMessageBegin_keeps s
  | messageEnd => exact execMessageEnd_keeps s
  | recordNoticeBegin => exact execRecordNoticeBegin_keeps s
  | recordNoticeEnd => exact execRecordNoticeEnd_keeps s
  | unknownRequest type tag payload => exact execUnknownRequest_keeps type tag payload s
  | linkEcho tag payload => exact request_keeps _ _ _ s fun _ s => .refl s
  | statusRead tag payload => exact request_operands_keeps _ _ _ s fun _ _ _ _ => .of_link fun hs => hs
  | noticeEnable tag payload => exact request_operands_keeps _ _ _ s fun _ _ _ _ => .of_link fun hs => hs
  | deviceRestart tag payload => exact request_operands_keeps _ _ _ s fun _ _ s _ => deviceRestart_keeps s
  | circuitBlockPlain tag payload => exact .ite (request_operands_keeps _ _ _ s fun _ o s _ => s.keeps_blockAll o.1.circuits)
  | circuitBlockDrain tag payload => exact .ite (request_operands_keeps _ _ _ s fun _ o s _ => blockDrain_keeps tag o.1 s)
  | circuitBlockForced tag payload => exact .ite (request_operands_keeps _ _ _ s fun _ o s _ => blockForced_keeps o.1 s)
  | circuitUnblock tag payload => exact request_operands_keeps _ _ _ s fun _ _ s _ => unblock_keeps _ s
  | remoteBlock tag payload => exact request_operands_keeps _ _ _ s fun _ _ s _ => setRemote_keeps _ _ s
  | remoteUnblock tag payload => exact request_operands_keeps _ _ _ s fun _ _ s _ => setRemote_keeps _ _ s
  | incomingSeize tag payload => exact request_operands_keeps _ _ _ s fun _ _ s _ => incomingSeize_keeps _ s
  | incomingRelease tag payload => exact request_operands_keeps _ _ _ s fun _ _ s _ => incomingRelease_keeps _ s
  | circuitAudit tag payload => exact request_operands_keeps _ _ _ s fun _ _ s _ => circuitAudit_keeps _ _ _ s
  | spanReport tag payload => exact request_operands_keeps _ _ _ s fun _ _ s _ => .refl s
  | groupDefine tag payload => exact request_operands_keeps _ _ _ s fun _ _ s _ => groupDefine_keeps _ _ _ s
  | groupChange tag payload => exact request_operands_keeps _ _ _ s fun _ _ s _ => groupChange_keeps _ _ s
  | groupMembers tag payload => exact request_operands_keeps _ _ _ s fun _ _ s _ => groupMembers_keeps _ _ s
  | groupDelete tag payload => exact request_operands_keeps _ _ _ s fun _ _ s _ => groupDelete_keeps _ s
  | groupRead tag payload => exact request_operands_keeps _ _ _ s fun _ _ s _ => .of_eq (groupRead_state _ s)
  | prefixWrite tag payload => exact request_operands_keeps _ _ _ s fun _ _ s _ => prefixWrite_keeps _ _ s
  | prefixDelete tag payload => exact request_operands_keeps _ _ _ s fun _ _ s _ => prefixDelete_keeps _ s
  | prefixLookup tag payload => exact request_operands_keeps _ _ _ s fun _ _ s _ => .of_eq (prefixLookup_state _ s)
  | planWrite tag payload => exact request_operands_keeps _ _ _ s fun _ _ s _ => planWrite_keeps _ _ _ s
  | planDelete tag payload => exact request_operands_keeps _ _ _ s fun _ _ s _ => planDelete_keeps _ s
  | planRead tag payload => exact request_operands_keeps _ _ _ s fun _ _ s _ => .of_eq (planRead_state _ s)
  | callSetup tag payload => exact request_operands_keeps _ _ _ s fun _ _ s _ => callSetup_keeps _ s
  | callRetry tag payload => exact request_operands_keeps _ _ _ s fun _ _ s _ => callRetry_keeps _ _ _ s
  | callAnswer tag payload => exact request_operands_keeps _ _ _ s fun _ _ s _ => callAnswer_keeps _ _ s
  | callRelease tag payload => exact request_operands_keeps _ _ _ s fun _ _ s _ => callRelease_keeps _ _ _ s
  | callRead tag payload => exact request_operands_keeps _ _ _ s fun _ _ s _ => .of_eq (callRead_state _ s)
  | groupReport tag payload => exact request_operands_keeps _ _ _ s fun _ _ s _ => groupReport_keeps _ _ s
  | monitorSet tag payload => exact request_operands_keeps _ _ _ s fun _ _ s _ => monitorSet_keeps _ _ s
  | monitorHold tag payload => exact request_operands_keeps _ _ _ s fun _ _ s _ => monitorHold_keeps s
  | monitorResume tag payload => exact request_operands_keeps _ _ _ s fun _ _ s _ => monitorResume_keeps s
  | monitorRead tag payload => exact request_operands_keeps _ _ _ s fun _ _ s _ => .refl s
  | guardSet tag payload => exact request_operands_keeps _ _ _ s fun _ _ s _ => guardSet_keeps _ s
  | guardParameters tag payload => exact request_operands_keeps _ _ _ s fun _ _ s hp => guardParameters_keeps hp s
  | guardRead tag payload => exact request_operands_keeps _ _ _ s fun _ _ s _ => .refl s
  | clockSet tag payload => exact request_operands_keeps _ _ _ s fun _ _ s hp => clockSet_keeps hp s
  | clockRead tag payload => exact request_operands_keeps _ _ _ s fun _ _ s _ => .refl s
  | bandMapWrite tag payload => exact request_operands_keeps _ _ _ s fun _ _ s hp => bandMapWrite_keeps hp s
  | bandMapRead tag payload => exact request_operands_keeps _ _ _ s fun _ _ s _ => .refl s
  | tariffWrite tag payload => exact request_operands_keeps _ _ _ s fun _ _ s _ => tariffWrite_keeps _ _ _ s
  | tariffCancel tag payload => exact request_operands_keeps _ _ _ s fun _ _ s _ => tariffCancel_keeps _ s
  | tariffDelete tag payload => exact request_operands_keeps _ _ _ s fun _ _ s _ => tariffDelete_keeps _ s
  | tariffRead tag payload => exact request_operands_keeps _ _ _ s fun _ _ s _ => .of_eq (tariffRead_state _ s)
  | carrierWrite tag payload => exact request_operands_keeps _ _ _ s fun _ _ s _ => carrierWrite_keeps _ s
  | carrierDelete tag payload => exact request_operands_keeps _ _ _ s fun _ _ s _ => carrierDelete_keeps _ s
  | carrierReport tag payload => exact request_operands_keeps _ _ _ s fun _ _ s _ => .of_eq (carrierReport_state _ s)
  | periodLength tag payload => exact request_operands_keeps _ _ _ s fun _ _ s _ => periodLength_keeps _ s
  | periodClose tag payload => exact request_operands_keeps _ _ _ s fun _ _ s _ => periodClose_keeps s
  | periodReport tag payload => exact request_operands_keeps _ _ _ s fun _ _ s _ => periodReport_keeps s
  | recordFetch tag payload => exact request_operands_keeps _ _ _ s fun _ _ s _ => recordFetch_keeps _ s
  | queueThresholds tag payload => exact request_operands_keeps _ _ _ s fun _ _ s _ => queueThresholds_keeps _ _ s
  | drainMode tag payload => exact request_operands_keeps _ _ _ s fun _ _ s _ => drainMode_keeps _ s
  | queueRead tag payload => exact request_operands_keeps _ _ _ s fun _ _ s _ => .refl s
  | oneSecondAdvance => exact .next_ite (.refl s) (s.keeps_advance)
  | pendingTariffSwitch => exact .next_ite (.refl s) (s.keeps_activateReached _)
  | periodBoundary => exact execPeriodBoundary_keeps s
  | increment handle => exact execIncrement_keeps handle s
  | sweepVisit => exact .next_ite (.refl s) (s.keeps_sweepVisit)
  | sampleInstant => exact execSampleInstant_keeps s
  | lineReturnsToMark => exact execLineReturnsToMark_keeps s
  | resetPinReturnsHigh => exact execResetPinReturnsHigh_keeps s

/-- Every step keeps every invariant but the agreement of circuits and calls. -/
theorem step_keeps (h : step s = .next t) : s.Keeps t := by
  unfold step at h
  split at h
  · cases h; exact .refl s
  · exact (State.Keeps.of_free s s.resetLow s.rateStraps s.prefixes s.serialCounter _).trans (exec_keeps _ _ t h)

/-- Settles O57: whatever a command writes to the queue is followed by an evaluation of its thresholds, and nothing is
appended to a full one. -/
theorem stepKeepsRecordQueueSound : Obligations.StepKeepsRecordQueueSound := by
  unfold Obligations.StepKeepsRecordQueueSound
  exact fun s t hs h => (step_keeps h).records hs

/-- Settles O58: requests join the queue by an arrival alone, and a space of 20 ms is a break, which ends the count. -/
theorem stepKeepsRequestQueueSound : Obligations.StepKeepsRequestQueueSound := by
  unfold Obligations.StepKeepsRequestQueueSound
  exact fun s t hs h => (step_keeps h).link hs

/-- Settles O59: every write of the clock, the controls and the periods is of a value in range. -/
theorem stepKeepsControlsInRange : Obligations.StepKeepsControlsInRange := by
  unfold Obligations.StepKeepsControlsInRange
  exact fun s t hclock hcontrol hperiods h =>
    ⟨(step_keeps h).clock hclock, (step_keeps h).control hcontrol, (step_keeps h).periods hperiods⟩

end Sys2Proof.Machine
end

section
/-! PROOFS. What the agreement of circuits, calls, groups and watches speaks of, and the operations that leave all of it
alone (R1, R2, R4, R25, R60). -/

namespace Sys2Proof.Machine

open Sys2Proof

variable {s t u : State}

/-- The circuit that the call on a handle names (R59). -/
def State.heldBy (s : State) (h : Nat) : Option Nat := (s.call h).map Call.circuit

/-- What the agreement reads of a group: its members and its busy count. -/
def Group.counted (grp : Group) : List Nat × Nat := (grp.members, grp.busyCount)

/-- The two states show the same to the agreement of circuits, calls, groups and watches. -/
structure State.SameView (s t : State) : Prop where
  usage : ∀ n, (t.circuit n).usage = (s.circuit n).usage
  group : ∀ n, (t.circuit n).group = (s.circuit n).group
  held : ∀ h, t.heldBy h = s.heldBy h
  members : ∀ g, (Table.find t.groups g).map Group.counted = (Table.find s.groups g).map Group.counted
  watch : ∀ m, (t.span m).watch = (s.span m).watch

theorem State.SameView.refl (s : State) : s.SameView s :=
  ⟨fun _ => rfl, fun _ => rfl, fun _ => rfl, fun _ => rfl, fun _ => rfl⟩

theorem State.SameView.trans (h : s.SameView t) (h' : t.SameView u) : s.SameView u :=
  ⟨fun n => (h'.usage n).trans (h.usage n), fun n => (h'.group n).trans (h.group n),
    fun k => (h'.held k).trans (h.held k), fun g => (h'.members g).trans (h.members g),
    fun m => (h'.watch m).trans (h.watch m)⟩

/-- A state with the same circuits, calls, groups and spans. -/
theorem State.SameView.of_frame (hc : t.circuits = s.circuits) (hk : t.calls = s.calls) (hg : t.groups = s.groups)
    (hs : t.spans = s.spans) : s.SameView t :=
  ⟨fun n => by rw [State.circuit_congr hc], fun n => by rw [State.circuit_congr hc],
    fun h => by rw [State.heldBy, State.heldBy, State.call_congr hk], fun g => by rw [hg],
    fun m => by rw [State.span_congr hs]⟩

theorem State.sameView_foldl {α : Type} {f : State → α → State} (hf : ∀ (s : State) a, s.SameView (f s a)) (l : List α)
    (s : State) : s.SameView (l.foldl f s) := by
  induction l generalizing s with
  | nil => exact .refl s
  | cons a l ih => exact (hf s a).trans (ih _)

/-! ### Operations that leave the view alone -/

/-- A write of one circuit's record that leaves its usage and its group. -/
theorem State.sameView_setCircuit (s : State) (n : Nat) {c : Circuit} (hu : c.usage = (s.circuit n).usage)
    (hg : c.group = (s.circuit n).group) : s.SameView (s.setCircuit n c) := by
  refine ⟨fun m => ?_, fun m => ?_, fun _ => rfl, fun _ => rfl, fun _ => rfl⟩
  · rw [State.circuit_setCircuit]; split
    · rename_i h; rw [hu, h]
    · rfl
  · rw [State.circuit_setCircuit]; split
    · rename_i h; rw [hg, h]
    · rfl

theorem State.sameView_setLocalBlock (s : State) (n : Nat) (b : Bool) : s.SameView (s.setLocalBlock n b) :=
  s.sameView_setCircuit n rfl rfl

theorem State.sameView_setRemoteBlock (s : State) (n : Nat) (b : Bool) : s.SameView (s.setRemoteBlock n b) :=
  s.sameView_setCircuit n rfl rfl

/-- A rewriting of a group that leaves its members and its busy count. -/
theorem State.sameView_modifyGroup (s : State) (g : Nat) {f : Group → Group} (hf : ∀ x, (f x).counted = x.counted) :
    s.SameView (s.modifyGroup g f) := by
  refine ⟨fun _ => rfl, fun _ => rfl, fun _ => rfl, fun k => ?_, fun _ => rfl⟩
  rw [State.find_modifyGroup]
  split
  · rename_i h
    rw [h, Option.map_map]
    exact congrArg (fun F => Option.map F _) (funext hf)
  · rfl

/-- A rewriting of every group that leaves their members and their busy counts. -/
theorem State.sameView_mapGroups (s : State) {f : Group → Group} (hf : ∀ x, (f x).counted = x.counted) :
    s.SameView { s with groups := Table.mapAll s.groups f } := by
  refine ⟨fun _ => rfl, fun _ => rfl, fun _ => rfl, fun k => ?_, fun _ => rfl⟩
  rw [Table.find_mapAll, Option.map_map]
  exact congrArg (fun F => Option.map F _) (funext hf)

/-- A rewriting of a call that leaves its circuit. -/
theorem State.sameView_modifyCall (s : State) (h : Nat) {f : Call → Call} (hf : ∀ c, (f c).circuit = c.circuit) :
    s.SameView (s.modifyCall h f) := by
  refine ⟨fun _ => rfl, fun _ => rfl, fun k => ?_, fun _ => rfl, fun _ => rfl⟩
  rw [State.heldBy, State.call_modifyCall]
  split
  · rename_i hk
    rw [hk, Option.map_map, State.heldBy]
    exact congrArg (fun F => Option.map F _) (funext hf)
  · rfl

/-- A write of one span's record that leaves its watch. -/
theorem State.sameView_setSpan (s : State) (n : Nat) {r : Span} (hw : r.watch = (s.span n).watch) :
    s.SameView (s.setSpan n r) := by
  refine ⟨fun _ => rfl, fun _ => rfl, fun _ => rfl, fun _ => rfl, fun m => ?_⟩
  rw [State.span_setSpan]
  split
  · rename_i h; rw [hw, h]
  · rfl

theorem State.sameView_setFlag (s : State) (f : Flag) : s.SameView (s.setFlag f) := .of_frame rfl rfl rfl rfl

theorem State.sameView_raise (s : State) (k : Nat) (b : Body) : s.SameView (s.raise k b) := .of_frame rfl rfl rfl rfl

theorem State.sameView_raiseIf (s : State) (on : Bool) (k : Nat) (b : Body) : s.SameView (s.raiseIf on k b) := by
  cases on <;> exact .of_frame rfl rfl rfl rfl

theorem State.sameView_report (s : State) (f : Flag) (on : Bool) (k : Nat) (b : Body) :
    s.SameView ((s.setFlag f).raiseIf on k b) := (s.sameView_setFlag f).trans (State.sameView_raiseIf _ _ _ _)

theorem State.sameView_evaluateThresholds (s : State) (cause : QueueCause) :
    s.SameView (s.evaluateThresholds cause) := by
  obtain ⟨l, h⟩ := s.evaluateThresholds_spec cause
  rw [h]; exact .of_frame rfl rfl rfl rfl

theorem State.sameView_writeRecord (s : State) (r : Record) : s.SameView (s.writeRecord r) := by
  obtain ⟨ks, q, l, h⟩ := s.writeRecord_frame r
  rw [h]; exact .of_frame rfl rfl rfl rfl

theorem State.sameView_evaluateCap (s : State) (c : Nat) (cause : CapCause) : s.SameView (s.evaluateCap c cause) := by
  obtain ⟨ks, l, h⟩ := s.evaluateCap_frame c cause
  rw [h]; exact .of_frame rfl rfl rfl rfl

theorem State.sameView_addToCarrier (s : State) (c x : Nat) : s.SameView (s.addToCarrier c x) := by
  obtain ⟨ks, l, h⟩ := s.addToCarrier_frame c x
  rw [h]; exact .of_frame rfl rfl rfl rfl

theorem State.sameView_chargeCall (s : State) (h carrier : Nat) (r : Rating) (w : Nat) :
    s.SameView (s.chargeCall h carrier r w) :=
  (s.sameView_modifyCall h (f := fun c => { c with rating := some (r.addCharge w) }) fun _ => rfl).trans
    (State.sameView_addToCarrier _ _ _)

theorem State.sameView_ratingStep (s : State) (h carrier : Nat) (r : Rating) (rate sec : Nat) :
    s.SameView (s.ratingStep h carrier r rate sec) := s.sameView_chargeCall _ _ _ _

theorem State.sameView_answerEvent (s : State) (h : Nat) (c : Call) : s.SameView (s.answerEvent h c) :=
  (s.sameView_chargeCall _ _ _ _).trans (State.sameView_ratingStep _ _ _ _ _ _)

theorem State.sameView_catchUp (s : State) (h : Nat) (c : Call) (r : Rating) (byTouch : Bool) :
    s.SameView (s.catchUp h c r byTouch) := by
  rw [s.catchUp_eq]
  have hwrote : s.SameView (if r.owesPartial then s.writeRecord (c.record h r none) else s) := by
    split
    · exact s.sameView_writeRecord _
    · exact .refl s
  refine (hwrote.trans (State.sameView_modifyCall _ h
    (f := fun c => { c with rating := some (r.caughtUp s.periods.number) }) fun _ => rfl)).trans ?_
  exact .of_frame rfl rfl rfl rfl

theorem State.sameView_freshen (s : State) (h : Nat) (c : Call) (r : Rating) : s.SameView (s.freshen h c r).1 := by
  unfold State.freshen
  split
  · exact s.sameView_catchUp _ _ _ _
  · exact .refl s

theorem State.sameView_incrementCall (s : State) (h : Nat) (c : Call) (r : Rating) :
    s.SameView (s.incrementCall h c r) := (s.sameView_freshen h c r).trans (State.sameView_ratingStep _ _ _ _ _ _)

theorem State.sameView_releaseClose (s : State) (h : Nat) (c : Call) (r : Rating) (cause : CloseCause) :
    s.SameView (s.releaseClose h c r cause).1 :=
  ((s.sameView_freshen h c r).trans (State.sameView_chargeCall _ _ _ _ _)).trans (State.sameView_writeRecord _ _)

theorem State.sameView_ratingClose (s : State) (h : Nat) (c : Call) (cause : CloseCause) :
    s.SameView (s.ratingClose h c cause).1 := by
  unfold State.ratingClose
  split
  · exact s.sameView_releaseClose _ _ _ _
  · exact .refl s

theorem State.sameView_moveSticky (s : State) (i : PassInput) (c : Candidate) (seized : Bool) :
    s.SameView (s.moveSticky i c seized) := by
  obtain ⟨ps, h⟩ := s.moveSticky_frame i c seized
  rw [h]; exact .of_frame rfl rfl rfl rfl

theorem State.sameView_closeStart (s : State) (cause : PeriodCause) : s.SameView (s.closeStart cause) := by
  obtain ⟨-, -, -, -, -, ks, ps, l, h⟩ := s.closeStart_frame cause
  rw [h]; exact .of_frame rfl rfl rfl rfl

theorem State.sameView_visitCall (s : State) (h : Nat) : s.SameView (s.visitCall h) := by
  unfold State.visitCall
  split
  · exact .refl s
  · split
    · exact .refl s
    · split
      · exact s.sameView_catchUp _ _ _ _
      · exact .refl s

theorem State.sameView_sweepVisit (s : State) : s.SameView s.sweepVisit := by
  unfold State.sweepVisit
  split
  · exact .refl s
  · dsimp only
    split
    · obtain ⟨ks, ps, l, h⟩ := State.endSweep_frame (s.visitCall _) _
      rw [h]
      exact (s.sameView_visitCall _).trans (.of_frame rfl rfl rfl rfl)
    · exact (s.sameView_visitCall _).trans (.of_frame rfl rfl rfl rfl)

theorem State.sameView_finishSweep (fuel : Nat) (s : State) : s.SameView (State.finishSweep fuel s) := by
  induction fuel generalizing s with
  | zero => exact .refl s
  | succ fuel ih =>
    unfold State.finishSweep
    split
    · exact s.sameView_sweepVisit.trans (ih _)
    · exact .refl s

theorem State.sameView_activateTariff (cause : TariffCause) (s : State) (tf : Nat) :
    s.SameView (State.activateTariff cause s tf) := by
  unfold State.activateTariff
  split
  · exact .refl s
  · refine State.SameView.trans ?_ (State.sameView_report _ _ _ _ _)
    exact .of_frame rfl rfl rfl rfl

theorem State.sameView_reportGuard (s : State) (old : GuardState) (cause : GuardCause) (m : Option (Nat × Nat)) :
    s.SameView (s.reportGuard old cause m) := by
  unfold State.reportGuard
  split
  · exact .refl s
  · exact s.sameView_report _ _ _ _

theorem State.sameView_sampleGroup (s : State) (g : Nat) : s.SameView (s.sampleGroup g) := by
  unfold State.sampleGroup
  split
  · exact .refl s
  · rename_i grp hg
    have hwrite : s.SameView (s.modifyGroup g fun _ => grp.sampled (s.availableCount grp)) := by
      refine ⟨fun _ => rfl, fun _ => rfl, fun _ => rfl, fun k => ?_, fun _ => rfl⟩
      rw [State.find_modifyGroup]
      split
      · rename_i hk; rw [hk, hg]; rfl
      · rfl
    dsimp only
    split
    · exact hwrite
    · exact hwrite.trans (State.sameView_report _ _ _ _ _)

theorem State.sameView_rollover (s : State) : s.SameView s.rollover := by
  unfold State.rollover
  dsimp only
  split
  · exact (s.sameView_mapGroups (f := Group.rolledOver) fun _ => rfl).trans (.of_frame rfl rfl rfl rfl)
  · exact .of_frame rfl rfl rfl rfl

theorem State.sameView_sample (s : State) : s.SameView s.sample := by
  unfold State.sample State.evaluateGuard
  refine State.SameView.trans ?_ (State.sameView_reportGuard _ _ _ _)
  refine State.SameView.trans (t := State.rollover ((s.groups.map fun e => e.1).foldl State.sampleGroup s)) ?_
    (.of_frame rfl rfl rfl rfl)
  exact (State.sameView_foldl State.sameView_sampleGroup _ s).trans (State.sameView_rollover _)

/-! ### The agreement in terms of the view -/

/-- The circuits OUTGOING and the handles that hold them: `held` gives the circuit of each handle (R60). -/
def State.Holds (s : State) (held : Nat → Option Nat) : Prop :=
  ∀ n h, (s.circuit n).usage = .outgoing h ↔ held h = some n

theorem State.callsAgree_iff (s : State) :
    s.CallsAgree ↔ s.Holds s.heldBy ∧ ∀ h, s.heldBy h ≠ none → h < 8192 := by
  unfold State.CallsAgree State.Holds State.heldBy
  simp only [Option.map_eq_some_iff, ne_eq, Option.map_eq_none_iff]

theorem State.SameView.holds (h : s.SameView t) {held : Nat → Option Nat} (hs : s.Holds held) : t.Holds held :=
  fun n k => by rw [h.usage n]; exact hs n k

theorem State.SameView.heldBy_eq (h : s.SameView t) : t.heldBy = s.heldBy := funext h.held

theorem State.SameView.callsAgree (h : s.SameView t) (hs : s.CallsAgree) : t.CallsAgree := by
  rw [State.callsAgree_iff] at hs ⊢
  rw [h.heldBy_eq]
  exact ⟨h.holds hs.1, hs.2⟩

/-- Whatever group stands after, one with the same members and busy count stood before. -/
theorem State.SameView.find_group (h : s.SameView t) {g : Nat} {grp : Group} (hg : Table.find t.groups g = some grp) :
    ∃ grp', Table.find s.groups g = some grp' ∧ grp'.members = grp.members ∧ grp'.busyCount = grp.busyCount := by
  have hm := h.members g
  rw [hg, Option.map_some] at hm
  obtain ⟨grp', hg', heq⟩ := Option.map_eq_some_iff.mp hm.symm
  exact ⟨grp', hg', congrArg Prod.fst heq, congrArg Prod.snd heq⟩

theorem State.SameView.symm (h : s.SameView t) : t.SameView s :=
  ⟨fun n => (h.usage n).symm, fun n => (h.group n).symm, fun k => (h.held k).symm, fun g => (h.members g).symm,
    fun m => (h.watch m).symm⟩

theorem State.SameView.groupsAgree (h : s.SameView t) (hs : s.GroupsAgree) : t.GroupsAgree := by
  obtain ⟨hmem, huse, hcount⟩ := hs
  refine ⟨fun n g => ?_, fun n hn => ?_, fun g grp hg => ?_⟩
  · rw [h.group n, hmem n g]
    constructor
    · rintro ⟨grp, hg, hn⟩
      obtain ⟨grp', hg', hm, -⟩ := h.symm.find_group hg
      exact ⟨grp', hg', hm ▸ hn⟩
    · rintro ⟨grp, hg, hn⟩
      obtain ⟨grp', hg', hm, -⟩ := h.find_group hg
      exact ⟨grp', hg', hm ▸ hn⟩
  · rw [h.group n]; exact huse n (h.usage n ▸ hn)
  · obtain ⟨grp', hg', hm, hb⟩ := h.find_group hg
    obtain ⟨hnodup, hlt, hbusy⟩ := hcount g grp' hg'
    refine ⟨hm ▸ hnodup, hm ▸ hlt, ?_⟩
    rw [← hb, hbusy, hm]
    exact congrArg (fun f => List.countP f _) (funext fun n => by rw [h.usage n])

theorem State.SameView.watchesAgree (h : s.SameView t) (hs : s.WatchesAgree) : t.WatchesAgree :=
  fun m w hw => hs m w (h.watch m ▸ hw)

theorem State.SameView.agrees (h : s.SameView t) (hs : s.Agrees) : t.Agrees :=
  ⟨h.callsAgree hs.1, h.groupsAgree hs.2.1, h.watchesAgree hs.2.2⟩

end Sys2Proof.Machine
end

section
/-! PROOFS. What a change of usage, a hunt, a seizure and a close make of the agreement of circuits, calls, groups and
watches (R1, R2, R4, R10, R11, R36, R60, R63, R64, R67). -/

namespace Sys2Proof.Machine

open Sys2Proof

variable {s t : State}

/-! ### Watches that may be empty for a while -/

/-- The watches agree, but those of the spans in `loose` may have an empty set (R4). -/
def State.WatchesBut (s : State) (loose : Nat → Prop) : Prop :=
  ∀ m w, (s.span m).watch = some w → (¬loose m → w.positions ≠ []) ∧ ∀ q ∈ w.positions, q < 32

theorem State.WatchesAgree.but (h : s.WatchesAgree) (loose : Nat → Prop) : s.WatchesBut loose :=
  fun m w hw => ⟨fun _ => (h m w hw).1, (h m w hw).2⟩

theorem State.SameView.watchesBut {loose : Nat → Prop} (h : s.SameView t) (hs : s.WatchesBut loose) :
    t.WatchesBut loose := fun m w hw => hs m w (h.watch m ▸ hw)

theorem State.WatchesBut.of_spans {loose : Nat → Prop} (hs : s.WatchesBut loose) (h : t.spans = s.spans) :
    t.WatchesBut loose := fun m w hw => hs m w (State.span_congr h m ▸ hw)

/-- A position that leaves a loose watch set (R10). -/
theorem State.WatchesBut.unwatch {loose : Nat → Prop} (hs : s.WatchesBut loose) {n : Nat} (hn : loose (spanOf n)) :
    (s.unwatch n).WatchesBut loose := by
  intro m w hw
  rw [State.span_unwatch] at hw
  split at hw
  · rename_i hm
    obtain ⟨w', hw', rfl⟩ := Option.map_eq_some_iff.mp hw
    exact ⟨fun h => absurd (hm ▸ hn) h, fun q hq => (hs m w' hw').2 q (List.mem_filter.mp hq).1⟩
  · exact hs m w hw

theorem State.WatchesBut.makeIdle {loose : Nat → Prop} (hs : s.WatchesBut loose) {n : Nat} (hn : loose (spanOf n)) :
    (s.makeIdle n).WatchesBut loose := (hs.of_spans (s.setUsage_spans n .idle)).unwatch hn

/-- The completion of the one loose watch makes every watch agree (R11). -/
theorem State.WatchesBut.completeWatch {sp : Nat} (hs : s.WatchesBut (· = sp)) (cause : DrainCause) :
    (s.completeWatch sp cause).WatchesAgree := by
  rcases s.completeWatch_spec sp cause with ⟨h, hfull⟩ | ⟨w, -, -, h⟩ <;> rw [h]
  · intro m w hw
    refine ⟨?_, (hs m w hw).2⟩
    by_cases hm : m = sp
    · exact hfull w (hm ▸ hw)
    · exact (hs m w hw).1 hm
  · intro m w' hw
    rw [State.span_setSpan] at hw
    split at hw
    · cases hw
    · rename_i hm
      rw [(s.sameView_report _ _ _ _).watch m] at hw
      exact ⟨(hs m w' hw).1 hm, (hs m w' hw).2⟩

/-- The completion of a watch shows the same circuits, calls and groups. -/
theorem State.completeWatch_frame (s : State) (sp : Nat) (cause : DrainCause) :
    ∃ ss l, s.completeWatch sp cause = { s with spans := ss, link := l } := by
  rcases s.completeWatch_spec sp cause with ⟨h, -⟩ | ⟨w, -, -, h⟩ <;> rw [h]
  · exact ⟨s.spans, s.link, rfl⟩
  · cases s.enabled .drain <;> exact ⟨_, _, rfl⟩

theorem State.CallsAgree.of_frame (hs : s.CallsAgree) (hc : t.circuits = s.circuits) (hk : t.calls = s.calls) :
    t.CallsAgree := by
  unfold State.CallsAgree
  simp only [State.circuit_congr hc, State.call_congr hk]
  exact hs

theorem State.GroupsAgree.of_frame (hs : s.GroupsAgree) (hc : t.circuits = s.circuits) (hg : t.groups = s.groups) :
    t.GroupsAgree := by
  unfold State.GroupsAgree
  simp only [State.circuit_congr hc, hg]
  exact hs

/-- A completed watch ends an operation whose circuits, calls and groups agree. -/
theorem State.Agrees.completeWatch {sp : Nat} (hc : s.CallsAgree) (hg : s.GroupsAgree) (hw : s.WatchesBut (· = sp))
    (cause : DrainCause) : (s.completeWatch sp cause).Agrees := by
  refine ⟨?_, ?_, hw.completeWatch cause⟩
  · obtain ⟨ss, l, h⟩ := s.completeWatch_frame sp cause
    rw [h]; exact hc.of_frame rfl rfl
  · obtain ⟨ss, l, h⟩ := s.completeWatch_frame sp cause
    rw [h]; exact hg.of_frame rfl rfl

/-! ### Busy counts -/

/-- Where two conditions agree on all but one element of a list without duplicates, their counts differ by that element's
part. -/
theorem countP_changed {l : List Nat} {n : Nat} (hl : l.Nodup) (hn : n ∈ l) {p q : Nat → Bool}
    (h : ∀ m, m ≠ n → q m = p m) : l.countP q + (p n).toNat = l.countP p + (q n).toNat := by
  induction l with
  | nil => cases hn
  | cons a l ih =>
    rw [List.nodup_cons] at hl
    by_cases ha : a = n
    · subst ha
      have hrest : l.countP q = l.countP p :=
        List.countP_congr fun m hm => by rw [h m fun he => hl.1 (he ▸ hm)]
      rw [List.countP_cons, List.countP_cons, hrest]
      cases p a <;> cases q a <;> simp
    · have := ih hl.2 ((List.mem_cons.mp hn).resolve_left fun he => ha he.symm)
      rw [List.countP_cons, List.countP_cons, h a ha]
      omega

/-- A busy count that counted a member right counts it right after its change of usage (R2). -/
theorem busyAfter_add (count : Nat) (before after : Usage) (hb : before.busy = true → 0 < count) :
    busyAfter count before after + before.busy.toNat = count + after.busy.toNat := by
  unfold busyAfter
  cases hbb : before.busy <;> cases after.busy <;> simp
  have := hb hbb
  omega

/-- A change of usage leaves the group of every circuit. -/
theorem State.group_setUsage (s : State) (n : Nat) (u : Usage) (m : Nat) :
    ((s.setUsage n u).circuit m).group = (s.circuit m).group := by
  rw [State.circuit_setUsage]; split
  · rename_i h; rw [h]
  · rfl

/-- A change of usage keeps the groups in agreement, so long as only an equipped circuit comes into use (R1, R2). -/
theorem State.GroupsAgree.setUsage (hs : s.GroupsAgree) {n : Nat} {u : Usage}
    (hu : u ≠ .idle → (s.circuit n).group ≠ none) : (s.setUsage n u).GroupsAgree := by
  obtain ⟨hmem, huse, hcount⟩ := hs
  have huse' : ∀ m, ((s.setUsage n u).circuit m).usage ≠ .idle → ((s.setUsage n u).circuit m).group ≠ none := by
    intro m hm
    rw [State.group_setUsage]
    rw [State.circuit_setUsage] at hm
    split at hm
    · rename_i h; exact h ▸ hu hm
    · exact huse m hm
  cases hg : (s.circuit n).group with
  | none =>
    have hidle : (s.circuit n).usage = .idle := by_contra fun h => huse n h hg
    have hu' : u = .idle := by_contra fun h => hu h hg
    rw [s.setUsage_of_none hg]
    exact (s.sameView_setCircuit n (c := { s.circuit n with usage := u }) (hu'.trans hidle.symm) rfl).groupsAgree ⟨hmem, huse, hcount⟩
  | some g =>
    have hgroups : ∀ k, Table.find (s.setUsage n u).groups k = if k = g then (Table.find s.groups g).map fun grp =>
        { grp with busyCount := busyAfter grp.busyCount (s.circuit n).usage u } else Table.find s.groups k := by
      intro k; rw [s.setUsage_of_some hg, State.find_modifyGroup]; rfl
    refine ⟨fun m k => ?_, huse', fun k grp hk => ?_⟩
    · rw [State.group_setUsage, hmem, hgroups]
      split
      · rename_i h
        rw [h]
        simp only [Option.map_eq_some_iff, exists_exists_and_eq_and]
      · rfl
    · rw [hgroups] at hk
      split at hk
      · rename_i h
        obtain ⟨old, hold, rfl⟩ := Option.map_eq_some_iff.mp hk
        obtain ⟨hnodup, hlt, hbusy⟩ := hcount g old hold
        have hin : n ∈ old.members := by
          obtain ⟨grp', hg', hn⟩ := (hmem n g).mp hg
          rw [hold] at hg'; cases hg'; exact hn
        have hpos : (s.circuit n).usage.busy = true → 0 < old.busyCount := fun hb => by
          rw [hbusy]; exact List.countP_pos_iff.mpr ⟨n, hin, hb⟩
        have hchange := countP_changed (p := fun m => (s.circuit m).usage.busy)
          (q := fun m => ((s.setUsage n u).circuit m).usage.busy) hnodup hin fun m hm => by
            rw [State.circuit_setUsage, if_neg hm]
        have hafter := busyAfter_add old.busyCount (s.circuit n).usage u hpos
        simp only [State.circuit_setUsage, if_true] at hchange
        refine ⟨hnodup, hlt, ?_⟩
        simp only [State.circuit_setUsage]
        omega
      · rename_i h
        obtain ⟨hnodup, hlt, hbusy⟩ := hcount k grp hk
        refine ⟨hnodup, hlt, hbusy.trans (List.countP_congr fun m hm => ?_)⟩
        have hne : m ≠ n := fun he => h (by
          have := (hmem m k).mpr ⟨grp, hk, hm⟩
          rw [he, hg] at this; exact (Option.some.inj this).symm)
        rw [State.circuit_setUsage, if_neg hne]

theorem State.unwatch_sameCalls (s : State) (n : Nat) : (s.unwatch n).circuits = s.circuits ∧
    (s.unwatch n).calls = s.calls ∧ (s.unwatch n).groups = s.groups := by
  obtain ⟨_, h⟩ := s.unwatch_frame n
  rw [h]; exact ⟨rfl, rfl, rfl⟩

theorem State.GroupsAgree.makeIdle (hs : s.GroupsAgree) (n : Nat) : (s.makeIdle n).GroupsAgree :=
  (hs.setUsage (u := .idle) fun h => absurd rfl h).of_frame (State.unwatch_sameCalls _ n).1
    (State.unwatch_sameCalls _ n).2.2

/-! ### Circuits held -/

/-- A circuit that no handle holds stays so under a usage that no handle holds. -/
theorem State.Holds.setUsage_free {held : Nat → Option Nat} (hs : s.Holds held) {n : Nat} {u : Usage}
    (hn : ∀ h, (s.circuit n).usage ≠ .outgoing h) (hu : ∀ h, u ≠ .outgoing h) : (s.setUsage n u).Holds held := by
  intro m h
  rw [State.circuit_setUsage]
  split
  · rename_i hm
    refine iff_of_false (hu h) fun hh => hn h ((hs n h).mpr (hm ▸ hh))
  · exact hs m h

/-- A circuit that a handle gives up (R64, R67). -/
theorem State.Holds.setUsage_release {held : Nat → Option Nat} (hs : s.Holds held) {n k : Nat} {u : Usage}
    (hn : (s.circuit n).usage = .outgoing k) (hu : ∀ h, u ≠ .outgoing h) :
    (s.setUsage n u).Holds (Function.update held k none) := by
  have hk := (hs n k).mp hn
  intro m h
  rw [State.circuit_setUsage, Function.update_apply]
  by_cases hm : m = n
  · rw [if_pos hm]
    refine iff_of_false (hu h) fun hh => ?_
    split at hh
    · cases hh
    · rename_i hne
      have := (hs n h).mpr (hm ▸ hh)
      rw [hn] at this
      cases this; exact hne rfl
  · rw [if_neg hm, hs m h]
    by_cases hh : h = k
    · rw [if_pos hh, hh, hk]
      exact iff_of_false (fun he => hm (Option.some.inj he).symm) (by simp)
    · rw [if_neg hh]

/-- A circuit that a handle without one takes (R36). -/
theorem State.Holds.setUsage_seize {held : Nat → Option Nat} (hs : s.Holds held) {n k : Nat}
    (hn : (s.circuit n).usage = .idle) (hk : held k = none) :
    (s.setUsage n (.outgoing k)).Holds (Function.update held k (some n)) := by
  intro m h
  rw [State.circuit_setUsage, Function.update_apply]
  by_cases hm : m = n
  · rw [if_pos hm]
    by_cases hh : h = k
    · rw [if_pos hh, hm, hh]; exact iff_of_true rfl rfl
    · rw [if_neg hh]
      refine iff_of_false (fun he => hh (by cases he; rfl)) fun he => ?_
      have := (hs n h).mpr (hm ▸ he)
      rw [hn] at this; cases this
  · rw [if_neg hm, hs m h]
    by_cases hh : h = k
    · rw [if_pos hh, hh, hk]
      exact iff_of_false (by simp) fun he => hm (Option.some.inj he).symm
    · rw [if_neg hh]

theorem State.Holds.of_circuits {held : Nat → Option Nat} (hs : s.Holds held) (h : t.circuits = s.circuits) :
    t.Holds held := fun n k => by rw [State.circuit_congr h]; exact hs n k

theorem State.Holds.makeIdle_release {held : Nat → Option Nat} (hs : s.Holds held) {n k : Nat}
    (hn : (s.circuit n).usage = .outgoing k) : (s.makeIdle n).Holds (Function.update held k none) :=
  (hs.setUsage_release hn (u := .idle) fun h => by rintro ⟨⟩).of_circuits (State.unwatch_sameCalls _ n).1

theorem State.Holds.makeIdle_free {held : Nat → Option Nat} (hs : s.Holds held) {n : Nat}
    (hn : ∀ h, (s.circuit n).usage ≠ .outgoing h) : (s.makeIdle n).Holds held :=
  (hs.setUsage_free hn (u := .idle) fun h => by rintro ⟨⟩).of_circuits (State.unwatch_sameCalls _ n).1

theorem State.makeIdle_calls (s : State) (n : Nat) : (s.makeIdle n).calls = s.calls := by
  rw [State.makeIdle, (State.unwatch_sameCalls _ n).2.1, State.setUsage_calls]

theorem State.heldBy_congr (h : t.calls = s.calls) : t.heldBy = s.heldBy := by
  funext k; rw [State.heldBy, State.heldBy, State.call_congr h]

/-! ### Calls written and erased -/

/-- A call whose circuit is given up is closed (R67). -/
theorem State.callsAgree_erase {h : Nat} (hs : s.Holds (Function.update s.heldBy h none))
    (hlt : ∀ k, s.heldBy k ≠ none → k < 8192) : State.CallsAgree { s with calls := Table.erase s.calls h } := by
  have hheld : State.heldBy { s with calls := Table.erase s.calls h } = Function.update s.heldBy h none := by
    funext k
    rw [Function.update_apply, State.heldBy, State.call, Table.find_erase]
    split <;> rfl
  rw [State.callsAgree_iff, hheld]
  refine ⟨hs.of_circuits rfl, fun k hk => hlt k ?_⟩
  rw [Function.update_apply] at hk
  split at hk
  · exact absurd rfl hk
  · exact hk

/-- A call that takes another circuit (R64). -/
theorem State.callsAgree_reseize {h : Nat} {c : Call} {z : Seizure} {tried : List Nat} (hcall : s.heldBy h ≠ none)
    (hs : s.Holds (Function.update s.heldBy h (some z.circuit))) (hlt : ∀ k, s.heldBy k ≠ none → k < 8192) :
    (s.reseize h c z tried).CallsAgree := by
  have hcalls : (s.reseize h c z tried).calls = Table.modify s.calls h fun c =>
      { c with group := z.group, circuit := z.circuit, role := z.role, carrier := z.carrier, quote := z.quote,
               tried := tried } := by
    unfold State.reseize State.moveOpenCall
    dsimp only
    split <;> rfl
  have hcircuits : (s.reseize h c z tried).circuits = s.circuits := by
    unfold State.reseize State.moveOpenCall
    dsimp only
    split <;> rfl
  have hheld : (s.reseize h c z tried).heldBy = Function.update s.heldBy h (some z.circuit) := by
    funext k
    rw [Function.update_apply, State.heldBy, State.call, hcalls, Table.find_modify]
    split
    · cases hf : Table.find s.calls h with
      | none => exact absurd (by rw [State.heldBy, State.call, hf]; rfl) hcall
      | some c' => rfl
    · rfl
  rw [State.callsAgree_iff, hheld]
  refine ⟨hs.of_circuits hcircuits, fun k hk => hlt k ?_⟩
  rw [Function.update_apply] at hk
  split at hk
  · rename_i he; exact he ▸ hcall
  · exact hk

/-- A call that is created on a handle (R63). -/
theorem State.callsAgree_create {h : Nat} {i : PassInput} {z : Seizure} {tried : List Nat} (hh : h < 8192)
    (hs : s.Holds (Function.update s.heldBy h (some z.circuit))) (hlt : ∀ k, s.heldBy k ≠ none → k < 8192) :
    (s.createCall h i z tried).CallsAgree := by
  have hheld : (s.createCall h i z tried).heldBy = Function.update s.heldBy h (some z.circuit) := by
    funext k
    rw [Function.update_apply, State.heldBy, State.call]
    show Option.map Call.circuit (Table.find (Table.put s.calls h _) k) = _
    rw [Table.find_put]
    split <;> rfl
  rw [State.callsAgree_iff, hheld]
  refine ⟨hs.of_circuits rfl, fun k hk => ?_⟩
  rw [Function.update_apply] at hk
  split at hk
  · rename_i he; exact he ▸ hh
  · exact hlt k hk

/-! ### The close of a call -/

/-- The closing actions of a call that holds its circuit (R67). -/
theorem State.CallsAgree.closeCall (hs : s.CallsAgree) {h : Nat} {c : Call} (hc : s.call h = some c)
    (cause : CloseCause) : (s.closeCall h c cause true).1.CallsAgree := by
  have hview := s.sameView_ratingClose h c cause
  have husage : (s.circuit c.circuit).usage = .outgoing h := (hs.1 _ _).mpr ⟨c, hc, rfl⟩
  obtain ⟨hholds, hlt⟩ := (State.callsAgree_iff _).mp (hview.callsAgree hs)
  have hidle := hholds.makeIdle_release (n := c.circuit) (hview.usage _ ▸ husage)
  rw [← State.heldBy_congr (State.makeIdle_calls (s.ratingClose h c cause).1 c.circuit)] at hidle hlt
  exact State.callsAgree_erase (s := (State.makeIdle _ _).closeCallOn c.carrier)
    (hidle.of_circuits rfl) hlt

theorem State.GroupsAgree.closeCall (hs : s.GroupsAgree) (h : Nat) (c : Call) (cause : CloseCause) (holds : Bool) :
    (s.closeCall h c cause holds).1.GroupsAgree := by
  have hrated := (s.sameView_ratingClose h c cause).groupsAgree hs
  cases holds
  · exact hrated.of_frame rfl rfl
  · exact (hrated.makeIdle c.circuit).of_frame rfl rfl

theorem State.WatchesBut.closeCall {loose : Nat → Prop} (hs : s.WatchesBut loose) (h : Nat) {c : Call}
    (hc : loose (spanOf c.circuit)) (cause : CloseCause) (holds : Bool) :
    (s.closeCall h c cause holds).1.WatchesBut loose := by
  have hrated := (s.sameView_ratingClose h c cause).watchesBut hs
  cases holds
  · exact hrated.of_spans rfl
  · exact (hrated.makeIdle hc).of_spans rfl

/-- The closing actions of a call that has given its circuit up (R64, R67). -/
theorem State.callsAgree_closeCall_given {h : Nat} {c : Call} (hs : s.Holds (Function.update s.heldBy h none))
    (hlt : ∀ k, s.heldBy k ≠ none → k < 8192) (cause : CloseCause) :
    (s.closeCall h c cause false).1.CallsAgree := by
  have hview := s.sameView_ratingClose h c cause
  rw [← hview.heldBy_eq] at hs hlt
  exact State.callsAgree_erase (s := (s.ratingClose h c cause).1.closeCallOn c.carrier)
    ((hview.holds hs).of_circuits rfl) hlt

/-! ### Hunts and passes -/

/-- An available circuit is one of the circuits 0 to 8,191 (R2, R25). -/
theorem State.GroupsAgree.available_lt (hs : s.GroupsAgree) {n : Nat} (ha : s.available n = true) : n < 8192 := by
  simp only [State.available, Circuit.available, Bool.and_eq_true] at ha
  obtain ⟨g, hg⟩ := Option.isSome_iff_exists.mp ha.1.1.1
  obtain ⟨grp, hf, hn⟩ := (hs.1 n g).mp hg
  exact (hs.2.2 g grp hf).2.1 n hn

theorem State.group_of_available {n : Nat} (ha : s.available n = true) : (s.circuit n).group ≠ none := by
  simp only [State.available, Circuit.available, Bool.and_eq_true] at ha
  exact Option.isSome_iff_ne_none.mp ha.1.1.1

/-- A seizure for a handle without a circuit (R36). -/
theorem State.hunt_seized_agrees {held : Nat → Option Nat} {h : Nat} (hs : s.Holds held) (hg : s.GroupsAgree)
    (hh : held h = none) {g : Nat} {cls : CallClass} {role : Role} {n p : Nat} {after : State}
    (hunt : s.hunt g cls role h = (.seized n p, after)) :
    s.available n = true ∧ after.Holds (Function.update held h (some n)) ∧ after.GroupsAgree := by
  obtain ⟨ho, ht⟩ := State.hunt_of_seized (congrArg Prod.fst hunt)
  have ha := (State.huntOutcome_seized s ho).1
  have hview : s.SameView (s.modifyGroup g fun grp => grp.afterSeizure p) := s.sameView_modifyGroup g fun _ => rfl
  have hafter : after = (s.modifyGroup g fun grp => grp.afterSeizure p).setUsage n (.outgoing h) := by
    rw [← ht, hunt]
  rw [hafter]
  refine ⟨ha, (hview.holds hs).setUsage_seize (State.usage_of_available ha) hh, ?_⟩
  exact (hview.groupsAgree hg).setUsage fun _ => State.group_of_available ha

theorem State.hunt_overflow_sameView {g h : Nat} {cls : CallClass} {role : Role} {v : Verdict} {after : State}
    (hunt : s.hunt g cls role h = (.overflow v, after)) : s.SameView after := by
  have ht := State.hunt_of_overflow (congrArg Prod.fst hunt)
  rw [hunt] at ht
  change after = _ at ht
  rw [ht]
  exact s.sameView_modifyGroup g fun _ => rfl

/-- What a pass for a handle without a circuit makes of the agreement: a circuit that was available is held by it, or
nothing changes (R76). -/
structure PassResult.Agrees (r : PassResult) (s : State) (held : Nat → Option Nat) (h : Nat) : Prop where
  groups : r.state.GroupsAgree
  failed : r.seizure = none → r.state.Holds held
  seized : ∀ z, r.seizure = some z → s.available z.circuit = true ∧
    r.state.Holds (Function.update held h (some z.circuit))

theorem passFrom_agrees (i : PassInput) {held : Nat → Option Nat} {h : Nat} (hh : held h = none) (cs : List Candidate) :
    ∀ (s : State) (tried : List Nat) (trace : List (Nat × Verdict)), s.huntHandle i = h → s.Holds held →
      s.GroupsAgree → (passFrom i cs s tried trace).Agrees s held h := by
  induction cs with
  | nil => exact fun s tried trace _ hs hg => ⟨hg, fun _ => hs, by rintro z ⟨⟩⟩
  | cons x cs ih =>
    intro s tried trace hhandle hs hg
    unfold passFrom
    cases s.check i tried x with
    | some v =>
      dsimp only
      split
      · exact ⟨hg, fun _ => hs, by rintro z ⟨⟩⟩
      · exact ih s _ _ hhandle hs hg
    | none =>
      dsimp only
      rw [hhandle]
      split
      · rename_i n p after hunt
        obtain ⟨ha, hseized, hgroups⟩ := State.hunt_seized_agrees hs hg hh hunt
        have hsticky := after.sameView_moveSticky i x true
        refine ⟨hsticky.groupsAgree hgroups, by rintro ⟨⟩, ?_⟩
        rintro z ⟨⟩
        exact ⟨ha, hsticky.holds hseized⟩
      · rename_i v after hunt
        have hview := (State.hunt_overflow_sameView hunt).trans (after.sameView_moveSticky i x false)
        have hframe : (after.moveSticky i x false).calls = s.calls ∧
            (∀ n, (after.moveSticky i x false).circuit n = s.circuit n) := by
          obtain ⟨ps, hm⟩ := after.moveSticky_frame i x false
          have hafter : after = s.modifyGroup x.group Group.afterOverflow := by
            have := State.hunt_of_overflow (congrArg Prod.fst hunt)
            rw [hunt] at this; exact this
          rw [hm, hafter]
          exact ⟨rfl, fun _ => rfl⟩
        have hhandle' : (after.moveSticky i x false).huntHandle i = h := by
          rw [← hhandle]
          unfold State.huntHandle State.lowestFree
          rw [hframe.1]
        split
        · exact ⟨hview.groupsAgree hg, fun _ => hview.holds hs, by rintro z ⟨⟩⟩
        · obtain ⟨h1, h2, h3⟩ := ih _ (addTried tried x.group) (trace ++ [(x.group, v)]) hhandle'
            (hview.holds hs) (hview.groupsAgree hg)
          refine ⟨h1, h2, fun z hz => ⟨?_, (h3 z hz).2⟩⟩
          rw [← State.available_congr (hframe.2 z.circuit)]
          exact (h3 z hz).1

theorem State.pass_agrees {i : PassInput} {held : Nat → Option Nat} {h : Nat} (hh : held h = none)
    (hhandle : s.huntHandle i = h) (hs : s.Holds held) (hg : s.GroupsAgree) (tried : List Nat) :
    (s.pass i tried).Agrees s held h := by
  unfold State.pass
  split
  · exact ⟨hg, fun _ => hs, by rintro z ⟨⟩⟩
  · exact passFrom_agrees i hh _ s tried [] hhandle hs hg

/-- An idle circuit leaves a handle free: 8,192 calls would hold every circuit (R59, R61). -/
theorem State.lowestFree_of_available (hc : s.CallsAgree) (hg : s.GroupsAgree) {n : Nat} (ha : s.available n = true) :
    s.call s.lowestFree = none ∧ s.lowestFree < 8192 := by
  have hfree : ∃ h, h < 8192 ∧ s.call h = none := by
    by_contra hall
    push Not at hall
    have hlt : ∀ h : Fin 8192, ∀ c, s.call h = some c → c.circuit < 8192 := by
      intro h c hcall
      have husage := (hc.1 c.circuit h).mpr ⟨c, hcall, rfl⟩
      obtain ⟨g, hgr⟩ := Option.ne_none_iff_exists'.mp (hg.2.1 c.circuit (by rw [husage]; rintro ⟨⟩))
      obtain ⟨grp, hf, hn⟩ := (hg.1 _ g).mp hgr
      exact (hg.2.2 g grp hf).2.1 _ hn
    choose call hcall using fun h : Fin 8192 => Option.ne_none_iff_exists'.mp (hall h h.isLt)
    let circuitOf : Fin 8192 → Fin 8192 := fun h => ⟨(call h).circuit, hlt h _ (hcall h)⟩
    have hinj : Function.Injective circuitOf := by
      intro h k heq
      have h1 := (hc.1 (call h).circuit h).mpr ⟨_, hcall h, rfl⟩
      have h2 := (hc.1 (call k).circuit k).mpr ⟨_, hcall k, rfl⟩
      have heq' : (call h).circuit = (call k).circuit := congrArg Fin.val heq
      rw [heq', h2] at h1
      exact Fin.ext (Usage.outgoing.inj h1).symm
    obtain ⟨h, hh⟩ := Finite.surjective_of_injective hinj ⟨n, hg.available_lt ha⟩
    have husage := (hc.1 n h).mpr ⟨call h, hcall h, congrArg Fin.val hh⟩
    rw [State.usage_of_available ha] at husage
    cases husage
  obtain ⟨h, hlt, hnone⟩ := hfree
  obtain ⟨hfree, -, hlt', -⟩ := lowestFreeFrom_spec s.calls 8192 0 ⟨h, Nat.zero_le _, by omega, hnone⟩
  exact ⟨hfree, by unfold State.lowestFree; omega⟩

end Sys2Proof.Machine
end

section
/-! PROOFS. Every command keeps the agreement of circuits, calls, groups and watches, and the statement
StepKeepsRatingsAndTablesSound. -/

namespace Sys2Proof.Machine

open Sys2Proof

variable {s t : State}

/-! ### A call between two circuits -/

/-- The agreement while the call on handle `h` has given its circuit up and has no other yet (R64, R91). -/
structure State.Between (s : State) (h : Nat) : Prop where
  holds : s.Holds (Function.update s.heldBy h none)
  bound : ∀ k, s.heldBy k ≠ none → k < 8192
  groups : s.GroupsAgree
  called : s.heldBy h ≠ none

theorem State.Between.of_sameView {h : Nat} (hs : s.Between h) (hv : s.SameView t) : t.Between h := by
  obtain ⟨hholds, hbound, hgroups, hcalled⟩ := hs
  rw [← hv.heldBy_eq] at hholds hbound hcalled
  exact ⟨hv.holds hholds, hbound, hv.groupsAgree hgroups, hcalled⟩

/-- What the closing and the reseizure of a call leave of circuits, groups and spans. -/
theorem State.reseize_frame (s : State) (h : Nat) (c : Call) (z : Seizure) (tried : List Nat) :
    ∃ cs ks, s.reseize h c z tried = { s with calls := cs, carriers := ks } := by
  unfold State.reseize State.moveOpenCall
  dsimp only
  split
  · exact ⟨_, s.carriers, rfl⟩
  · exact ⟨_, _, rfl⟩

/-- A call between two circuits is closed (R41, R90). -/
theorem State.Between.close {h : Nat} (hs : s.Between h) (c : Call) (cause : CloseCause) :
    (s.closeCall h c cause false).1.CallsAgree ∧ (s.closeCall h c cause false).1.GroupsAgree :=
  ⟨State.callsAgree_closeCall_given hs.holds hs.bound cause, hs.groups.closeCall h c cause false⟩

/-- A call between two circuits takes one that is held for it (R64). -/
theorem State.Between.reseize {h : Nat} (hs : s.Between h) (c : Call) {z : Seizure} {t : State}
    (hcalls : t.calls = s.calls) (hholds : t.Holds (Function.update (Function.update s.heldBy h none) h (some z.circuit)))
    (hgroups : t.GroupsAgree) (tried : List Nat) :
    (t.reseize h c z tried).CallsAgree ∧ (t.reseize h c z tried).GroupsAgree := by
  rw [Function.update_idem, ← State.heldBy_congr hcalls] at hholds
  have hheld := State.heldBy_congr hcalls
  refine ⟨State.callsAgree_reseize (hheld ▸ hs.called) hholds (hheld ▸ hs.bound), ?_⟩
  obtain ⟨cs, ks, hf⟩ := t.reseize_frame h c z tried
  rw [hf]; exact hgroups.of_frame rfl rfl

/-- A pass for a call between two circuits (R90, R92). -/
theorem State.Between.pass {h : Nat} (hs : s.Between h) {i : PassInput} (hi : i.handle = some h) (tried : List Nat) :
    (s.pass i tried).Agrees s (Function.update s.heldBy h none) h ∧ (s.pass i tried).state.calls = s.calls ∧
      (s.pass i tried).state.spans = s.spans := by
  refine ⟨State.pass_agrees (Function.update_self ..) (by rw [State.huntHandle, hi]; rfl) hs.holds hs.groups tried, ?_⟩
  obtain ⟨c, g, p, hf⟩ := s.pass_frame i tried
  rw [hf]; exact ⟨rfl, rfl⟩

/-- A failed pass leaves the call between two circuits. -/
theorem State.Between.of_failed_pass {h : Nat} (hs : s.Between h) {i : PassInput} (hi : i.handle = some h)
    {tried : List Nat} (hz : (s.pass i tried).seizure = none) : (s.pass i tried).state.Between h := by
  obtain ⟨hagrees, hcalls, -⟩ := hs.pass hi tried
  have hheld := State.heldBy_congr hcalls
  exact ⟨hheld ▸ hagrees.failed hz, hheld ▸ hs.bound, hagrees.groups, hheld ▸ hs.called⟩

/-! ### Commands that leave the view alone -/

/-- An outcome whose next state agrees where `s` did. -/
def State.AgreesIn (s : State) (o : Host.Outcome State Fault Refusal) : Prop := ∀ t, o = .next t → s.Agrees → t.Agrees

theorem State.AgreesIn.next (h : s.Agrees → t.Agrees) : s.AgreesIn (.next t) := by rintro _ ⟨⟩; exact h

theorem State.AgreesIn.same (h : s.SameView t) : s.AgreesIn (.next t) := .next h.agrees

theorem State.sameView_arrive (s : State) (r : Request) : s.SameView (s.arrive r) := by
  unfold State.arrive
  split
  · exact .of_frame rfl rfl rfl rfl
  · dsimp only
    split <;> exact .of_frame rfl rfl rfl rfl

theorem State.agrees_carryOut (r : Request) {run : List Byte → State → Body × State}
    (hrun : ∀ p s, State.Agrees s → (run p s).2.Agrees) (hs : s.Agrees) : (s.carryOut r run).Agrees := by
  have hstart : s.withoutMessages.Agrees := (State.SameView.of_frame rfl rfl rfl rfl : s.SameView _).agrees hs
  have hdone : (if r.overlong then (Body.result .badLength, s.withoutMessages)
      else run r.payload s.withoutMessages).2.Agrees := by
    split
    · exact hstart
    · exact hrun _ _ hstart
  exact (State.SameView.of_frame rfl rfl rfl rfl : State.SameView _ (s.carryOut r run)).agrees hdone

theorem State.agrees_serveWith {r : Request} {take : State → Request → State}
    (htake : ∀ s, State.Agrees s → (take s r).Agrees) (hs : s.Agrees) : (s.serveWith r take).Agrees := by
  have hdrop : ∀ t : State, t.Agrees → t.dropHeadRequest.Agrees := fun t =>
    (State.SameView.of_frame rfl rfl rfl rfl : t.SameView t.dropHeadRequest).agrees
  unfold State.serveWith
  split
  · exact hs
  · split
    · split
      · exact htake _ (hdrop _ hs)
      · exact hs
    · split
      · exact hs
      · dsimp only
        split
        · exact htake _ (hdrop _ ((s.sameView_arrive r).agrees hs))
        · exact (s.sameView_arrive r).agrees hs

/-- A request keeps the agreement if its effect does on operands that read. -/
theorem request_operands_agrees {α : Type} (type : Byte) (tag : Tag) (payload : List Byte) (s : State)
    {parse : List Byte → Except Result α} {f : α → State → Body × State}
    (hf : ∀ p a s, parse p = .ok a → State.Agrees s → (f a s).2.Agrees) :
    s.AgreesIn (request type tag payload s fun p s => withOperands (parse p) s fun a => f a s) :=
  .next <| State.agrees_serveWith fun _ => State.agrees_carryOut _ fun p _ hs =>
    withOperands_state hs fun a ha => hf p a _ ha hs

/-- A request whose effect leaves the view alone. -/
theorem request_operands_same {α : Type} (type : Byte) (tag : Tag) (payload : List Byte) (s : State)
    {parse : List Byte → Except Result α} {f : α → State → Body × State}
    (hf : ∀ a s, State.SameView s (f a s).2) :
    s.AgreesIn (request type tag payload s fun p s => withOperands (parse p) s fun a => f a s) :=
  request_operands_agrees type tag payload s fun _ a s _ => (hf a s).agrees

theorem groupChange_sameView (g : Nat) (d : GroupDefn) (s : State) : s.SameView (groupChange g d s).2 := by
  unfold groupChange
  split
  · exact .refl s
  · split_ifs
    · exact .refl s
    · exact .refl s
    · exact .refl s
    · exact s.sameView_modifyGroup g fun _ => rfl

theorem prefixWrite_sameView (d : List Nat) (plan : Nat) (s : State) : s.SameView (prefixWrite d plan s).2 := by
  unfold prefixWrite
  split
  · exact .of_frame rfl rfl rfl rfl
  · split <;> exact .of_frame rfl rfl rfl rfl

theorem prefixDelete_sameView (d : List Nat) (s : State) : s.SameView (prefixDelete d s).2 := by
  unfold prefixDelete
  split <;> exact .of_frame rfl rfl rfl rfl

theorem planWrite_sameView (plan : Nat) (entries : List PlanEntry) (ceiling : Option Nat) (s : State) :
    s.SameView (planWrite plan entries ceiling s).2 := by
  unfold planWrite
  split <;> exact .of_frame rfl rfl rfl rfl

theorem planDelete_sameView (plan : Nat) (s : State) : s.SameView (planDelete plan s).2 := by
  unfold planDelete
  split_ifs <;> exact .of_frame rfl rfl rfl rfl

theorem callAnswer_sameView (h : Nat) (expected : Option Nat) (s : State) : s.SameView (callAnswer h expected s).2 := by
  unfold callAnswer
  split
  · exact .refl s
  · dsimp only
    split_ifs
    · exact .refl s
    · exact s.sameView_modifyCall h fun _ => rfl
    · exact (s.sameView_modifyCall h (f := fun c => { c with answeredAt := some s.time.seconds }) fun _ => rfl).trans
        (State.sameView_answerEvent _ _ _)

theorem groupReport_sameView (g : Nat) (clear : Bool) (s : State) : s.SameView (groupReport g clear s).2 := by
  unfold groupReport
  split
  · exact .refl s
  · cases clear
    · exact .refl s
    · exact s.sameView_modifyGroup g fun _ => rfl

theorem monitorHold_sameView (s : State) : s.SameView (monitorHold s).2 := by
  unfold monitorHold
  split <;> exact .of_frame rfl rfl rfl rfl

theorem monitorResume_sameView (s : State) : s.SameView (monitorResume s).2 := by
  unfold monitorResume
  split
  · exact (s.sameView_mapGroups (f := Group.resumed) fun _ => rfl).trans (.of_frame rfl rfl rfl rfl)
  · exact .of_frame rfl rfl rfl rfl
  · exact .refl s

theorem guardSet_sameView (setting : GuardSetting) (s : State) : s.SameView (guardSet setting s).2 := by
  refine State.SameView.trans ?_ (State.sameView_reportGuard _ _ _ _)
  exact .of_frame rfl rfl rfl rfl

theorem clockSet_sameView (i : Instant) (s : State) : s.SameView (clockSet i s).2 := by
  refine State.SameView.trans ?_ (State.sameView_foldl (State.sameView_activateTariff .clockSet) _ _)
  exact .of_frame rfl rfl rfl rfl

theorem tariffWrite_sameView (tf : Nat) (v : Version) (effective : Option Instant) (s : State) :
    s.SameView (tariffWrite tf v effective s).2 := by
  unfold tariffWrite
  dsimp only
  split <;> exact .of_frame rfl rfl rfl rfl

theorem tariffCancel_sameView (tf : Nat) (s : State) : s.SameView (tariffCancel tf s).2 := by
  unfold tariffCancel
  split
  · exact .refl s
  · split <;> exact .of_frame rfl rfl rfl rfl

theorem tariffDelete_sameView (tf : Nat) (s : State) : s.SameView (tariffDelete tf s).2 := by
  unfold tariffDelete
  split
  · exact .refl s
  · split_ifs <;> exact .of_frame rfl rfl rfl rfl

theorem carrierWrite_sameView (o : CarrierOperands) (s : State) : s.SameView (carrierWrite o s).2 := by
  unfold carrierWrite
  split
  · exact .refl s
  · split
    all_goals
      refine State.SameView.trans ?_ (State.sameView_evaluateCap _ _ _)
      exact .of_frame rfl rfl rfl rfl

theorem carrierDelete_sameView (c : Nat) (s : State) : s.SameView (carrierDelete c s).2 := by
  unfold carrierDelete
  split
  · exact .refl s
  · split
    · exact .refl s
    · split_ifs <;> exact .of_frame rfl rfl rfl rfl

theorem periodClose_sameView (s : State) : s.SameView (periodClose s).2 := by
  unfold periodClose
  split
  · exact .refl s
  · exact s.sameView_closeStart _

theorem recordFetch_sameView (n : Nat) (s : State) : s.SameView (recordFetch n s).2 := by
  unfold recordFetch
  split
  · exact .refl s
  · dsimp only
    split
    · exact .refl s
    · refine State.SameView.trans ?_ (State.sameView_evaluateThresholds _ _)
      exact .of_frame rfl rfl rfl rfl

theorem queueThresholds_sameView (ae af : Nat) (s : State) : s.SameView (queueThresholds ae af s).2 := by
  refine State.SameView.trans ?_ (State.sameView_evaluateThresholds _ _)
  exact .of_frame rfl rfl rfl rfl

/-! ### Blocks and watches -/

/-- Every circuit in scope stands in the scope's span (R5). -/
theorem Scope.spanOf_mem {sc : Scope} {n : Nat} (h : n ∈ sc.circuits) : spanOf n = sc.spanIndex := by
  cases sc with
  | circuit m => rw [List.mem_singleton.mp h]; rfl
  | span sp =>
    obtain ⟨p, hp, rfl⟩ := List.mem_map.mp h
    have := List.mem_range.mp hp
    simp only [spanOf, Scope.spanIndex]
    omega

theorem State.sameView_blockAll (s : State) (ns : List Nat) : s.SameView (s.blockAll ns) :=
  State.sameView_foldl (fun s n => s.sameView_setLocalBlock n true) ns s

theorem mem_mergePositions {a b : List Nat} {q : Nat} : q ∈ mergePositions a b ↔ q < 32 ∧ (q ∈ a ∨ q ∈ b) := by
  simp only [mergePositions, List.mem_filter, List.mem_range, Bool.or_eq_true, List.contains_iff_mem]

theorem blockDrain_agrees (tag : Tag) (sc : Scope) (hs : s.Agrees) : (blockDrain tag sc s).2.Agrees := by
  have hblocked := (s.sameView_blockAll sc.circuits).agrees hs
  unfold blockDrain
  dsimp only
  split
  · refine State.Agrees.completeWatch ?_ ?_ ?_ _
    · exact hblocked.1.of_frame rfl rfl
    · exact hblocked.2.1.of_frame rfl rfl
    intro m w hw
    rw [State.span_setSpan] at hw
    split at hw
    · rename_i hm
      cases hw
      exact ⟨fun h => absurd hm h, fun q hq => (mem_mergePositions.mp hq).1⟩
    · exact ⟨fun _ => (hblocked.2.2 m w hw).1, (hblocked.2.2 m w hw).2⟩
  · rename_i w hw
    refine ⟨hblocked.1.of_frame rfl rfl, hblocked.2.1.of_frame rfl rfl, fun m w' hw' => ?_⟩
    rw [State.span_setSpan] at hw'
    split at hw'
    · cases hw'
      obtain ⟨hne, hlt⟩ := hblocked.2.2 _ w hw
      obtain ⟨q, hq⟩ := List.exists_mem_of_ne_nil _ hne
      refine ⟨List.ne_nil_of_mem (mem_mergePositions.mpr ⟨hlt q hq, .inl hq⟩), fun q' hq' =>
        (mem_mergePositions.mp hq').1⟩
    · exact hblocked.2.2 m w' hw'

/-- Circuits, calls and groups agree, and the watches but one. -/
def State.AgreesBut (s : State) (sp : Nat) : Prop := s.CallsAgree ∧ s.GroupsAgree ∧ s.WatchesBut (· = sp)

theorem State.Agrees.but (hs : s.Agrees) (sp : Nat) : s.AgreesBut sp := ⟨hs.1, hs.2.1, hs.2.2.but _⟩

theorem State.AgreesBut.of_sameView {sp : Nat} (hs : s.AgreesBut sp) (h : s.SameView t) : t.AgreesBut sp :=
  ⟨h.callsAgree hs.1, h.groupsAgree hs.2.1, h.watchesBut hs.2.2⟩

theorem State.AgreesBut.completeWatch {sp : Nat} (hs : s.AgreesBut sp) (cause : DrainCause) :
    (s.completeWatch sp cause).Agrees := State.Agrees.completeWatch hs.1 hs.2.1 hs.2.2 cause

/-- A list of operations on circuits of one span. -/
theorem State.AgreesBut.foldl {sp : Nat} {f : State → Nat → State}
    (hf : ∀ (s : State) n, spanOf n = sp → s.AgreesBut sp → (f s n).AgreesBut sp) {l : List Nat}
    (hl : ∀ n ∈ l, spanOf n = sp) (hs : s.AgreesBut sp) : (l.foldl f s).AgreesBut sp := by
  induction l generalizing s with
  | nil => exact hs
  | cons n l ih =>
    exact ih (fun m hm => hl m (List.mem_cons_of_mem _ hm)) (hf s n (hl n (List.mem_cons_self ..)) hs)

/-- A circuit that no call holds becomes IDLE (R18, R20). -/
theorem State.AgreesBut.makeIdle {sp n : Nat} (hs : s.AgreesBut sp) (hn : spanOf n = sp)
    (hu : ∀ h, (s.circuit n).usage ≠ .outgoing h) : (s.makeIdle n).AgreesBut sp := by
  obtain ⟨hcalls, hgroups, hwatches⟩ := hs
  refine ⟨?_, hgroups.makeIdle n, hwatches.makeIdle hn⟩
  rw [State.callsAgree_iff] at hcalls ⊢
  rw [State.heldBy_congr (s.makeIdle_calls n)]
  exact ⟨hcalls.1.makeIdle_free hu, hcalls.2⟩

theorem State.AgreesBut.closeCall {sp h : Nat} {c : Call} (hs : s.AgreesBut sp) (hc : s.call h = some c)
    (hn : spanOf c.circuit = sp) (cause : CloseCause) : (s.closeCall h c cause true).1.AgreesBut sp :=
  ⟨hs.1.closeCall hc cause, hs.2.1.closeCall h c cause true, hs.2.2.closeCall h hn cause true⟩

theorem State.AgreesBut.forceCircuit {sp n : Nat} (hs : s.AgreesBut sp) (hn : spanOf n = sp) (tally : ForcedTally) :
    (s.forceCircuit tally n).1.AgreesBut sp := by
  unfold State.forceCircuit
  split
  · exact hs
  · rename_i hu
    exact hs.makeIdle hn fun h => by rw [hu]; rintro ⟨⟩
  · rename_i h hu
    split
    · rename_i c hc
      obtain ⟨c', hc', hcirc⟩ := (hs.1.1 n h).mp hu
      rw [hc] at hc'
      cases hc'
      exact (hs.closeCall hc (hcirc ▸ hn) .forced).of_sameView (State.sameView_raise _ _ _)
    · exact hs

theorem forceAll_agreesBut {sp : Nat} {ns : List Nat} (hn : ∀ n ∈ ns, spanOf n = sp) (tally : ForcedTally)
    (hs : s.AgreesBut sp) : (forceAll ns s tally).1.AgreesBut sp := by
  induction ns generalizing s tally with
  | nil => exact hs
  | cons n ns ih =>
    exact ih (fun m hm => hn m (List.mem_cons_of_mem _ hm)) _ (hs.forceCircuit (hn n (List.mem_cons_self ..)) tally)

theorem blockForced_agrees (sc : Scope) (hs : s.Agrees) : (blockForced sc s).2.Agrees :=
  State.AgreesBut.completeWatch (forceAll_agreesBut (fun _ => Scope.spanOf_mem) _
    ((hs.but _).of_sameView (s.sameView_blockAll _))) _

theorem State.AgreesBut.unwatch {sp n : Nat} (hs : s.AgreesBut sp) (hn : spanOf n = sp) : (s.unwatch n).AgreesBut sp := by
  obtain ⟨hc, hk, hg⟩ := s.unwatch_sameCalls n
  exact ⟨hs.1.of_frame hc hk, hs.2.1.of_frame hc hg, hs.2.2.unwatch hn⟩

theorem unblock_agrees (sc : Scope) (hs : s.Agrees) : (unblock sc s).2.Agrees :=
  State.AgreesBut.completeWatch (State.AgreesBut.foldl (fun s n hn hs =>
    (hs.of_sameView (s.sameView_setLocalBlock n false)).unwatch hn) (fun _ => Scope.spanOf_mem) (hs.but _)) _

theorem incomingRelease_agrees (n : Nat) (hs : s.Agrees) : (incomingRelease n s).2.Agrees := by
  unfold incomingRelease
  split
  · rename_i hu
    exact ((hs.but _).makeIdle rfl fun h => by rw [hu]; rintro ⟨⟩).completeWatch _
  · exact hs

/-! ### The audit -/

theorem codes_length {α : Type} {f : Nat → Option α} {ns : List Nat} {as : List α} (h : codes f ns = some as) :
    as.length = ns.length := by
  induction ns generalizing as with
  | nil => cases h; rfl
  | cons n ns ih =>
    unfold codes at h
    split at h
    · rename_i hrest
      cases h
      rw [List.length_cons, List.length_cons, ih hrest]
    · cases h

/-- The audited positions of an audit that reads stand in their span (R19). -/
theorem parseAudit_fits {p : List Byte} {span first : Nat} {views : List FarView}
    (h : parseAudit p = .ok (span, first, views)) : first + views.length ≤ 32 := by
  obtain ⟨⟨sp, fi, co, vs⟩, hread, h⟩ := whole_bind_ok h
  obtain ⟨-, h⟩ := valid_bind_ok h
  obtain ⟨hfit, h⟩ := valid_bind_ok h
  obtain ⟨w, hw, h⟩ := named_bind_ok h
  cases h
  obtain ⟨⟨a, bs⟩, -, hread⟩ := Option.bind_eq_some_iff.mp hread
  obtain ⟨⟨b, cs⟩, -, hread⟩ := Option.bind_eq_some_iff.mp hread
  obtain ⟨⟨c, ds⟩, -, hread⟩ := Option.bind_eq_some_iff.mp hread
  obtain ⟨⟨d, es⟩, hviews, hread⟩ := Option.bind_eq_some_iff.mp hread
  cases hread
  rw [codes_length hw, readNums_length hviews]
  exact of_decide_eq_true hfit

/-- A circuit that is IDLE and equipped is seized by the far end (R16, R21). -/
theorem State.AgreesBut.setIncoming {sp n : Nat} (hs : s.AgreesBut sp) (hu : ∀ h, (s.circuit n).usage ≠ .outgoing h)
    (hg : (s.circuit n).group ≠ none) : (s.setUsage n .incoming).AgreesBut sp := by
  obtain ⟨hcalls, hgroups, hwatches⟩ := hs
  refine ⟨?_, hgroups.setUsage fun _ => hg, hwatches.of_spans (s.setUsage_spans n _)⟩
  rw [State.callsAgree_iff] at hcalls ⊢
  rw [State.heldBy_congr (s.setUsage_calls n _)]
  exact ⟨hcalls.1.setUsage_free hu fun h => by rintro ⟨⟩, hcalls.2⟩

theorem State.AgreesBut.auditCircuit {sp n : Nat} (hs : s.AgreesBut sp) (hn : spanOf n = sp) (v : FarView) :
    (s.auditCircuit n v).1.AgreesBut sp := by
  unfold State.auditCircuit
  dsimp only
  split
  · exact hs
  · rename_i hg
    cases v with
    | idle =>
      dsimp only
      split
      · split
        · exact hs.of_sameView (s.sameView_setRemoteBlock n _)
        · exact hs
      · rename_i hu
        exact (hs.makeIdle hn fun h => by rw [hu]; rintro ⟨⟩).of_sameView (State.sameView_setRemoteBlock _ n _)
      · exact hs
    | busy =>
      dsimp only
      split
      · exact hs
      · rename_i hu
        exact hs.setIncoming (fun h he => hu (by rw [he]; rfl)) hg
    | blocked =>
      dsimp only
      split
      · exact hs
      · exact hs.of_sameView (s.sameView_setRemoteBlock n _)

theorem auditFrom_agreesBut {span p : Nat} {views : List FarView} (hfit : p + views.length ≤ 32)
    (hs : s.AgreesBut span) : (auditFrom span p views s).1.AgreesBut span := by
  induction views generalizing p s with
  | nil => exact hs
  | cons v views ih =>
    rw [List.length_cons] at hfit
    refine ih (p := p + 1) (by omega) (hs.auditCircuit ?_ v)
    unfold spanOf
    omega

theorem circuitAudit_agrees {span first : Nat} {views : List FarView} (hfit : first + views.length ≤ 32)
    (hs : s.Agrees) : (circuitAudit span first views s).2.Agrees := by
  have hkept := (auditFrom_agreesBut hfit (hs.but span)).of_sameView (State.sameView_setSpan _ span
    (r := { (auditFrom span first views s).1.span span with lastAudit := some (auditFrom span first views s).2 }) rfl)
  unfold circuitAudit
  dsimp only
  split
  · exact (hkept.of_sameView (State.sameView_setFlag _ _)).completeWatch _
  · exact hkept.completeWatch _

/-! ### Groups -/

/-- A group whose members are replaced (R27, R29, R30): the new members were free or its own, those that leave are idle,
and its busy count is that of its new members. -/
theorem State.GroupsAgree.regroup (hs : s.GroupsAgree) {g : Nat} {ms : List Nat}
    (husage : ∀ n, (t.circuit n).usage = (s.circuit n).usage)
    (hgroup : ∀ n, (t.circuit n).group =
      if n ∈ ms then some g else if (s.circuit n).group = some g then none else (s.circuit n).group)
    (hfree : ∀ n ∈ ms, (s.circuit n).group = none ∨ (s.circuit n).group = some g)
    (hgone : ∀ n, (s.circuit n).group = some g → n ∉ ms → (s.circuit n).usage = .idle)
    (hother : ∀ k, k ≠ g → Table.find t.groups k = Table.find s.groups k)
    (hg : (Table.find t.groups g = none ∧ ms = []) ∨ ∃ grp, Table.find t.groups g = some grp ∧ grp.members = ms ∧
      ms.Nodup ∧ (∀ n ∈ ms, n < 8192) ∧ grp.busyCount = ms.countP fun n => (s.circuit n).usage.busy) :
    t.GroupsAgree := by
  obtain ⟨hmem, huse, hcount⟩ := hs
  refine ⟨fun n k => ?_, fun n hn => ?_, fun k grp hk => ?_⟩
  · rw [hgroup]
    by_cases hkg : k = g
    · have hiff : (∃ grp, Table.find t.groups k = some grp ∧ n ∈ grp.members) ↔ n ∈ ms := by
        rw [hkg]
        rcases hg with ⟨hnone, hms⟩ | ⟨grp, hf, hm, -⟩
        · simp only [hnone, hms, List.not_mem_nil, reduceCtorEq, false_and, exists_false]
        · simp only [hf, Option.some.injEq, exists_eq_left', hm]
      rw [hiff, hkg]
      split
      · exact iff_of_true rfl ‹_›
      · refine iff_of_false ?_ ‹_›
        split
        · rintro ⟨⟩
        · assumption
    · rw [hother k hkg, ← hmem n k]
      split
      · rename_i hn
        refine iff_of_false (fun h => hkg (Option.some.inj h).symm) fun h => ?_
        rcases hfree n hn with hf | hf <;> rw [hf] at h
        · cases h
        · exact hkg (Option.some.inj h).symm
      · split
        · rename_i h
          rw [h]
          exact iff_of_false (by rintro ⟨⟩) fun h' => hkg (Option.some.inj h').symm
        · rfl
  · rw [husage] at hn
    rw [hgroup]
    split
    · rintro ⟨⟩
    · split
      · rename_i hnot h
        exact absurd (hgone n h hnot) hn
      · exact huse n hn
  · have hbusy : ∀ l : List Nat, l.countP (fun n => (t.circuit n).usage.busy) =
        l.countP fun n => (s.circuit n).usage.busy := fun l =>
      congrArg (fun f => List.countP f l) (funext fun n => by rw [husage])
    by_cases hkg : k = g
    · rw [hkg] at hk
      rcases hg with ⟨hnone, -⟩ | ⟨grp', hf, hm, hnodup, hlt, hb⟩
      · rw [hnone] at hk; cases hk
      · rw [hf] at hk
        cases hk
        rw [hm]
        exact ⟨hnodup, hlt, hb.trans (hbusy _).symm⟩
    · rw [hother k hkg] at hk
      obtain ⟨hnodup, hlt, hb⟩ := hcount k grp hk
      exact ⟨hnodup, hlt, hb.trans (hbusy _).symm⟩

/-- What a writing of group fields leaves and writes (R1). -/
theorem State.setGroupOf_frame (s : State) (ns : List Nat) (g : Option Nat) :
    ∃ cs, s.setGroupOf ns g = { s with circuits := cs } :=
  State.foldl_setCircuit_frame (fun c => { c with group := g }) ns s

theorem State.circuit_setGroupOf (s : State) (ns : List Nat) (g : Option Nat) (m : Nat) :
    (s.setGroupOf ns g).circuit m = if m ∈ ns then { s.circuit m with group := g } else s.circuit m :=
  State.circuit_foldl_setCircuit (f := fun c => { c with group := g }) (fun _ => rfl) ns s m

/-- A state whose circuits changed in their group fields alone. -/
theorem State.CallsAgree.of_usage (hs : s.CallsAgree) (hk : t.calls = s.calls)
    (hu : ∀ n, (t.circuit n).usage = (s.circuit n).usage) : t.CallsAgree := by
  unfold State.CallsAgree
  simp only [hu, State.call_congr hk]
  exact hs

theorem State.WatchesAgree.of_spans (hs : s.WatchesAgree) (h : t.spans = s.spans) : t.WatchesAgree :=
  fun m w hw => hs m w (State.span_congr h m ▸ hw)

theorem groupDefine_agrees {g : Nat} {d : GroupDefn} {ms : List Nat} (hv : membersValid ms = true) (hs : s.Agrees) :
    (groupDefine g d ms s).2.Agrees := by
  simp only [membersValid, Bool.and_eq_true, List.all_eq_true, decide_eq_true_eq] at hv
  obtain ⟨⟨-, hlt⟩, hnodup⟩ := hv
  unfold groupDefine
  split_ifs with hdef _ _ hgrouped
  · exact hs
  · exact hs
  · exact hs
  · exact hs
  · have hundef : Table.find s.groups g = none := by simpa [State.groupDefined] using hdef
    have hfree : ∀ n ∈ ms, (s.circuit n).group = none := by simpa using hgrouped
    have hnone : ∀ n, (s.circuit n).group ≠ some g := fun n hn => by
      obtain ⟨grp, hf, -⟩ := (hs.2.1.1 n g).mp hn
      rw [hundef] at hf; cases hf
    have hcirc := s.circuit_setGroupOf ms (some g)
    obtain ⟨cs, hf⟩ := s.setGroupOf_frame ms (some g)
    have husage : ∀ n, ((s.setGroupOf ms (some g)).circuit n).usage = (s.circuit n).usage := fun n => by
      rw [hcirc]; split <;> rfl
    refine ⟨hs.1.of_usage (by rw [hf]) husage, ?_, hs.2.2.of_spans (by rw [hf])⟩
    refine hs.2.1.regroup (g := g) (ms := ms) husage (fun n => ?_) (fun n hn => .inl (hfree n hn))
      (fun n hn => absurd hn (hnone n)) (fun k hk => ?_) (.inr ⟨Group.fresh d ms, ?_, rfl, hnodup, ?_, ?_⟩)
    · rw [if_neg (hnone n)]
      show ((s.setGroupOf ms (some g)).circuit n).group = _
      rw [hcirc]; split <;> rfl
    · show Table.find (Table.put (s.setGroupOf ms (some g)).groups g _) k = _
      rw [Table.find_put_ne _ _ hk, hf]
    · exact Table.find_put_self _ _ _
    · intro n hn; have := hlt n hn; omega
    · refine (List.countP_eq_zero.mpr fun n hn => ?_).symm
      have hidle : (s.circuit n).usage = .idle := by_contra fun h => hs.2.1.2.1 n h (hfree n hn)
      rw [hidle]; decide

/-- Two lists without duplicates count the same of what they share. -/
theorem countP_eq_of_same_mem {l m : List Nat} (hl : l.Nodup) (hm : m.Nodup) {p : Nat → Bool}
    (h : ∀ n, p n = true → (n ∈ l ↔ n ∈ m)) : l.countP p = m.countP p := by
  rw [List.countP_eq_length_filter, List.countP_eq_length_filter]
  refine List.Perm.length_eq ((List.perm_ext_iff_of_nodup (hl.filter _) (hm.filter _)).mpr fun n => ?_)
  simp only [List.mem_filter]
  exact and_congr_left fun hp => h n hp

theorem groupMembers_agrees {g : Nat} {ms : List Nat} (hv : membersValid ms = true) (hs : s.Agrees) :
    (groupMembers g ms s).2.Agrees := by
  simp only [membersValid, Bool.and_eq_true, List.all_eq_true, decide_eq_true_eq] at hv
  obtain ⟨⟨-, hlt⟩, hnodup⟩ := hv
  unfold groupMembers
  split
  · exact hs
  rename_i grp hgrp
  dsimp only
  split_ifs with htaken hbusy
  · exact hs
  · exact hs
  have hfree : ∀ n ∈ ms, (s.circuit n).group = none ∨ (s.circuit n).group = some g := fun n hn => by
    have := (List.any_eq_false.mp (Bool.eq_false_iff.mpr htaken)) n hn
    simp only [Bool.and_eq_true, bne_iff_ne, not_and, not_not] at this
    exact or_iff_not_imp_left.mpr this
  have hmem : ∀ n, (s.circuit n).group = some g ↔ n ∈ grp.members := fun n => by
    rw [hs.2.1.1]; simp only [hgrp, Option.some.injEq, exists_eq_left']
  have hgone : ∀ n, (s.circuit n).group = some g → n ∉ ms → (s.circuit n).usage = .idle := fun n hn hnot => by
    have := (List.any_eq_false.mp (Bool.eq_false_iff.mpr hbusy)) n
      (List.mem_filter.mpr ⟨(hmem n).mp hn, by simpa using hnot⟩)
    cases hu : (s.circuit n).usage with
    | idle => rfl
    | outgoing h => rw [hu] at this; exact absurd rfl this
    | incoming => rw [hu] at this; exact absurd rfl this
  obtain ⟨hold, -, hcount⟩ := hs.2.1.2.2 g grp hgrp
  obtain ⟨cs, hf⟩ := s.setGroupOf_frame (grp.members.filter fun n => !ms.contains n) none
  obtain ⟨cs', hf'⟩ := (s.setGroupOf (grp.members.filter fun n => !ms.contains n) none).setGroupOf_frame
    (ms.filter fun n => !grp.members.contains n) (some g)
  rw [hf] at hf'
  have hcirc : ∀ n, (((s.setGroupOf (grp.members.filter fun n => !ms.contains n) none).setGroupOf
      (ms.filter fun n => !grp.members.contains n) (some g)).circuit n) = { s.circuit n with
        group := if n ∈ ms then some g else if (s.circuit n).group = some g then none else (s.circuit n).group } := by
    intro n
    rw [State.circuit_setGroupOf, State.circuit_setGroupOf]
    simp only [List.mem_filter, Bool.not_eq_true', List.contains_eq_mem, decide_eq_false_iff_not, ← hmem n]
    by_cases h1 : n ∈ ms <;> by_cases h2 : (s.circuit n).group = some g <;> simp [h1, h2]
    rw [← h2]
  have hsame := fun n => congrArg Circuit.usage (hcirc n)
  rw [← hf] at hf'
  refine ⟨hs.1.of_usage (by rw [State.modifyGroup, hf', hf]) hsame, ?_,
    hs.2.2.of_spans (by rw [State.modifyGroup, hf', hf])⟩
  refine hs.2.1.regroup (g := g) (ms := ms) hsame (fun n => congrArg Circuit.group (hcirc n)) hfree hgone
    (fun k hk => ?_) (.inr ⟨{ grp with members := ms, rotary := ms.length - 1 }, ?_, rfl, hnodup, ?_, ?_⟩)
  · rw [State.find_modifyGroup, if_neg hk, hf', hf]
  · rw [State.find_modifyGroup, if_pos rfl, hf', hf]
    show Option.map _ (Table.find s.groups g) = _
    rw [hgrp]; rfl
  · intro n hn; have := hlt n hn; omega
  · refine hcount.trans (countP_eq_of_same_mem hold hnodup fun n hb => ?_)
    constructor
    · intro hn
      by_contra hnot
      rw [hgone n ((hmem n).mpr hn) hnot] at hb; cases hb
    · intro hn
      refine (hmem n).mp ((hfree n hn).resolve_left fun hnone => hs.2.1.2.1 n (fun hu => ?_) hnone)
      rw [hu] at hb; cases hb

theorem groupDelete_agrees (g : Nat) (hs : s.Agrees) : (groupDelete g s).2.Agrees := by
  unfold groupDelete
  split
  · exact hs
  rename_i grp hgrp
  split_ifs with hbusy
  · exact hs
  · exact hs
  · exact hs
  have hmem : ∀ n, (s.circuit n).group = some g ↔ n ∈ grp.members := fun n => by
    rw [hs.2.1.1]; simp only [hgrp, Option.some.injEq, exists_eq_left']
  have hzero : grp.members.countP (fun n => (s.circuit n).usage.busy) = 0 := by
    rw [← (hs.2.1.2.2 g grp hgrp).2.2]; omega
  obtain ⟨cs, hf⟩ := s.setGroupOf_frame grp.members none
  have hcirc := s.circuit_setGroupOf grp.members none
  have husage : ∀ n, ((s.setGroupOf grp.members none).circuit n).usage = (s.circuit n).usage := fun n => by
    rw [hcirc]; split <;> rfl
  refine ⟨hs.1.of_usage (by rw [hf]) husage, ?_, hs.2.2.of_spans (by rw [hf])⟩
  refine hs.2.1.regroup (g := g) (ms := []) husage (fun n => ?_) (by simp) (fun n hn _ => ?_) (fun k hk => ?_)
    (.inl ⟨Table.find_erase_self _ _, rfl⟩)
  · show ((s.setGroupOf grp.members none).circuit n).group = _
    rw [hcirc, if_neg List.not_mem_nil]
    simp only [hmem n]
    split <;> rfl
  · have := List.countP_eq_zero.mp hzero n ((hmem n).mp hn)
    cases hu : (s.circuit n).usage with
    | idle => rfl
    | outgoing h => rw [hu] at this; exact absurd rfl this
    | incoming => rw [hu] at this; exact absurd rfl this
  · show Table.find (Table.erase (s.setGroupOf grp.members none).groups g) k = _
    rw [Table.find_erase, if_neg hk, hf]

end Sys2Proof.Machine
end

section
/-! PROOFS. The seizures, the retry, the release and the device restart keep the agreement of circuits, calls, groups and
watches, and with them every step: the statement StepKeepsRatingsAndTablesSound. -/

namespace Sys2Proof.Machine

open Sys2Proof

variable {s t : State}

/-! ### Searches for a call between two circuits -/

/-- Circuits, calls and groups agree, and the watches but those of the loose spans. -/
def State.AgreesLoosely (s : State) (loose : Nat → Prop) : Prop :=
  s.CallsAgree ∧ s.GroupsAgree ∧ s.WatchesBut loose

theorem State.AgreesLoosely.of_sameView {loose : Nat → Prop} (hs : s.AgreesLoosely loose) (h : s.SameView t) :
    t.AgreesLoosely loose :=
  ⟨h.callsAgree hs.1, h.groupsAgree hs.2.1, h.watchesBut hs.2.2⟩

theorem State.AgreesLoosely.agrees (hs : s.AgreesLoosely fun _ => False) : s.Agrees :=
  ⟨hs.1, hs.2.1, fun m w hw => ⟨(hs.2.2 m w hw).1 id, (hs.2.2 m w hw).2⟩⟩

/-- The close of a call that has given its circuit up leaves the watches. -/
theorem State.WatchesBut.closeCall_given {loose : Nat → Prop} (hs : s.WatchesBut loose) (h : Nat) (c : Call)
    (cause : CloseCause) : (s.closeCall h c cause false).1.WatchesBut loose :=
  ((s.sameView_ratingClose h c cause).watchesBut hs).of_spans rfl

theorem State.Between.closed {h : Nat} {loose : Nat → Prop} (hs : s.Between h) (hw : s.WatchesBut loose) (c : Call)
    (cause : CloseCause) : (s.closeCall h c cause false).1.AgreesLoosely loose :=
  ⟨(hs.close c cause).1, (hs.close c cause).2, hw.closeCall_given h c cause⟩

/-- A pass that seizes gives the call its circuit; one that fails lets it close (R90, R92). -/
theorem State.Between.searched {h : Nat} {loose : Nat → Prop} (hs : s.Between h) (hw : s.WatchesBut loose)
    {i : PassInput} (hi : i.handle = some h) (tried : List Nat) (c : Call) :
    (∀ z, (s.pass i tried).seizure = some z →
      ((s.pass i tried).state.reseize h c z (s.pass i tried).tried).AgreesLoosely loose) ∧
    ((s.pass i tried).seizure = none → ∀ cause,
      ((s.pass i tried).state.closeCall h c cause false).1.AgreesLoosely loose) := by
  obtain ⟨hagrees, hcalls, hspans⟩ := hs.pass hi tried
  have hw' := hw.of_spans hspans
  refine ⟨fun z hz => ?_, fun hz cause => (hs.of_failed_pass hi hz).closed hw' c cause⟩
  obtain ⟨hc, hg⟩ := hs.reseize c hcalls (hagrees.seized z hz).2 hagrees.groups (s.pass i tried).tried
  refine ⟨hc, hg, ?_⟩
  obtain ⟨cs, ks, hf⟩ := (s.pass i tried).state.reseize_frame h c z (s.pass i tried).tried
  rw [hf]; exact hw'.of_spans rfl

/-! ### Incoming seizures and glare -/

/-- What the glare row says of the circuit (R15, R17). -/
theorem State.seizeRow_glare_circuit {n g h : Nat} {c : Call} (hr : s.seizeRow n = .glare g h c) :
    (s.circuit n).group = some g ∧ (s.circuit n).usage = .outgoing h ∧ s.call h = some c ∧ c.answered = false := by
  have hcall := State.seizeRow_glare hr
  unfold State.seizeRow at hr
  dsimp only at hr
  split at hr
  · cases hr
  rename_i g' hg
  split_ifs at hr
  split at hr
  · cases hr
  · cases hr
  rename_i h' hu
  split at hr
  · cases hr
  split_ifs at hr with ha
  cases hr
  exact ⟨hg, hu, hcall, Bool.eq_false_iff.mpr ha⟩

/-- What the accepting row says of the circuit (R15, R16). -/
theorem State.seizeRow_accepted_circuit {n : Nat} (hr : s.seizeRow n = .accepted) :
    (s.circuit n).group ≠ none ∧ (s.circuit n).usage = .idle := by
  unfold State.seizeRow at hr
  dsimp only at hr
  split at hr
  · cases hr
  rename_i g hg
  split_ifs at hr
  split at hr
  · cases hr
  · rename_i hu
    exact ⟨by rw [hg]; rintro ⟨⟩, hu⟩
  · split at hr
    · cases hr
    · split_ifs at hr

theorem State.Between.glareContinue {h : Nat} {loose : Nat → Prop} (hs : s.Between h) (hw : s.WatchesBut loose)
    (c : Call) : (s.glareContinue h c).AgreesLoosely loose := by
  obtain ⟨hseized, hfailed⟩ := hs.searched hw (i := c.passInput h false) rfl c.tried c
  unfold State.glareContinue
  dsimp only
  split
  · exact (hseized _ ‹_›).of_sameView (State.sameView_raise _ _ _)
  · exact (hfailed ‹_› .noRoute).of_sameView (State.sameView_raise _ _ _)

theorem State.Between.glareReroute {h : Nat} {loose : Nat → Prop} (hs : s.Between h) (hw : s.WatchesBut loose)
    (c : Call) : (s.glareReroute h c).AgreesLoosely loose := by
  unfold State.glareReroute
  split
  · exact hs.glareContinue hw c
  · split
    · rename_i n p after hunt
      obtain ⟨-, hholds, hgroups⟩ := State.hunt_seized_agrees hs.holds hs.groups (Function.update_self ..) hunt
      have hafter : after = (s.modifyGroup c.group fun grp => grp.afterSeizure p).setUsage n (.outgoing h) := by
        have := (State.hunt_of_seized (congrArg Prod.fst hunt)).2
        rw [hunt] at this; exact this
      have hcalls : after.calls = s.calls := by rw [hafter, State.setUsage_calls]; rfl
      have hspans : after.spans = s.spans := by rw [hafter, State.setUsage_spans]; rfl
      dsimp only
      obtain ⟨hc, hg⟩ := hs.reseize c (z := s.seizureOf c.group c.role n p) hcalls hholds hgroups c.tried
      obtain ⟨cs, ks, hf⟩ := after.reseize_frame h c (s.seizureOf c.group c.role n p) c.tried
      have hseized : (after.reseize h c (s.seizureOf c.group c.role n p) c.tried).AgreesLoosely loose :=
        ⟨hc, hg, by rw [hf]; exact hw.of_spans hspans⟩
      exact hseized.of_sameView (State.sameView_raise _ _ _)
    · rename_i v after hunt
      have hview := State.hunt_overflow_sameView hunt
      exact (hs.of_sameView hview).glareContinue (hview.watchesBut hw) c

/-- The far end takes the circuit of a call, which stands between two circuits (R41). -/
theorem State.Agrees.between_taken (hs : s.Agrees) {n h : Nat} (hu : (s.circuit n).usage = .outgoing h)
    (hg : (s.circuit n).group ≠ none) : (s.setUsage n .incoming).Between h := by
  obtain ⟨hholds, hbound⟩ := (State.callsAgree_iff _).mp hs.1
  have hheld := State.heldBy_congr (s.setUsage_calls n .incoming)
  refine ⟨hheld ▸ hholds.setUsage_release hu fun k => by rintro ⟨⟩, hheld ▸ hbound, hs.2.1.setUsage fun _ => hg, ?_⟩
  rw [hheld, (hholds n h).mp hu]; rintro ⟨⟩

theorem incomingSeize_agrees (n : Nat) (hs : s.Agrees) : (incomingSeize n s).2.Agrees := by
  unfold incomingSeize
  split
  · exact hs
  · rename_i g h c hrow
    obtain ⟨hg, hu, -, -⟩ := State.seizeRow_glare_circuit hrow
    have hcounted : s.SameView (s.countStats g Stats.addGlare) := s.sameView_modifyGroup g fun _ => rfl
    unfold State.glare
    dsimp only
    split
    · exact hcounted.agrees hs
    · have hview := hcounted.trans (State.sameView_setRemoteBlock _ n false)
      have hcleared := hview.agrees hs
      refine (State.Between.glareReroute (hcleared.between_taken (h := h) ?_ ?_) (loose := fun _ => False) ?_ c).agrees
      · rw [hview.usage, hu]
      · rw [hview.group, hg]; rintro ⟨⟩
      · exact (hcleared.2.2.but _).of_spans (State.setUsage_spans _ _ _)
  · rename_i hrow
    obtain ⟨hg, hu⟩ := State.seizeRow_accepted_circuit hrow
    have hview := s.sameView_setRemoteBlock n false
    have hset : (State.setUsage (s.setRemoteBlock n false) n .incoming).AgreesBut 0 :=
      ((hview.agrees hs).but 0).setIncoming (fun h => by rw [hview.usage, hu]; rintro ⟨⟩) (by rw [hview.group]; exact hg)
    exact ⟨hset.1, hset.2.1, fun m w hw => (hview.agrees hs).2.2 m w
      (State.span_congr (State.setUsage_spans _ _ _) m ▸ hw)⟩

/-! ### Setups, retries and releases -/

/-- The search for a FREE handle ends at one, or at the handle after the last (R61). -/
theorem lowestFreeFrom_free (calls : Table Call) (fuel h : Nat) :
    Table.find calls (lowestFreeFrom calls fuel h) = none ∨ lowestFreeFrom calls fuel h = h + fuel := by
  induction fuel generalizing h with
  | zero => exact .inr rfl
  | succ fuel ih =>
    unfold lowestFreeFrom
    split
    · exact .inl (Option.isNone_iff_eq_none.mp ‹_›)
    · rcases ih (h + 1) with hf | hf
      · exact .inl hf
      · exact .inr (by omega)

theorem State.heldBy_lowestFree (hbound : ∀ k, s.heldBy k ≠ none → k < 8192) : s.heldBy s.lowestFree = none := by
  rcases lowestFreeFrom_free s.calls 8192 0 with hf | hf
  · rw [State.heldBy, State.call, State.lowestFree, hf]; rfl
  · by_contra hne
    have := hbound _ hne
    unfold State.lowestFree at this
    omega

theorem setupPass_agrees (plan : Nat) (o : SetupOperands) (hs : s.Agrees) : (setupPass plan o s).2.Agrees := by
  obtain ⟨hholds, hbound⟩ := (State.callsAgree_iff _).mp hs.1
  unfold setupPass
  dsimp only
  generalize hi : PassInput.mk plan o.cls o.incoming (effectiveCeiling o.ceiling (s.plan plan).ceiling) none true = i
  have hhandle : s.huntHandle i = s.lowestFree := by rw [← hi]; rfl
  obtain ⟨hgroups, hfailed, hseized⟩ :=
    State.pass_agrees (State.heldBy_lowestFree hbound) hhandle hholds hs.2.1 []
  obtain ⟨cs, gs, ps, hf⟩ := s.pass_frame i []
  have hcalls : (s.pass i []).state.calls = s.calls := by rw [hf]
  have hspans : (s.pass i []).state.spans = s.spans := by rw [hf]
  have hheld := State.heldBy_congr hcalls
  split
  · rename_i z hz
    obtain ⟨ha, hh⟩ := hseized z hz
    obtain ⟨-, hlt⟩ := State.lowestFree_of_available hs.1 hs.2.1 ha
    exact ⟨State.callsAgree_create hlt (hheld ▸ hh) (hheld ▸ hbound), hgroups.of_frame rfl rfl,
      hs.2.2.of_spans hspans⟩
  · rename_i hz
    refine ⟨(State.callsAgree_iff _).mpr ?_, hgroups, hs.2.2.of_spans hspans⟩
    rw [hheld]
    exact ⟨hfailed hz, hbound⟩

theorem callSetup_agrees (o : SetupOperands) (hs : s.Agrees) : (callSetup o s).2.Agrees := by
  unfold callSetup
  split
  · exact hs
  · split
    · exact hs
    · exact hs
    · exact setupPass_agrees _ o hs

/-- A retried call gives its circuit up (R88). -/
theorem State.Agrees.crankback (hs : s.Agrees) {h : Nat} {c : Call} (hc : s.call h = some c) (cause : RetryCause) :
    (s.crankback c cause).Between h ∧ (s.crankback c cause).WatchesBut (· = spanOf c.circuit) := by
  have husage : (s.circuit c.circuit).usage = .outgoing h := (hs.1.1 _ _).mpr ⟨c, hc, rfl⟩
  obtain ⟨hholds, hbound⟩ := (State.callsAgree_iff _).mp hs.1
  have hheld := State.heldBy_congr (s.makeIdle_calls c.circuit)
  have hfreed : (s.makeIdle c.circuit).Between h := by
    refine ⟨hheld ▸ hholds.makeIdle_release husage, hheld ▸ hbound, hs.2.1.makeIdle _, ?_⟩
    rw [hheld, State.heldBy, hc]; rintro ⟨⟩
  have hview : (s.makeIdle c.circuit).SameView (s.crankback c cause) := by
    refine State.SameView.trans ?_ (State.sameView_modifyGroup _ _ fun _ => rfl)
    cases cause with
    | fault => exact State.sameView_setLocalBlock _ _ _
    | downstream => exact .refl _
  exact ⟨hfreed.of_sameView hview, hview.watchesBut ((hs.2.2.but _).makeIdle rfl)⟩

theorem retrySearch_agrees {h : Nat} {c : Call} {loose : Nat → Prop} (hs : s.Between h) (hw : s.WatchesBut loose) :
    (retrySearch h c s).2.AgreesLoosely loose := by
  obtain ⟨hseized, hfailed⟩ := hs.searched hw (i := c.passInput h true) rfl c.tried c
  unfold retrySearch
  split
  · exact hs.closed hw c .noRoute
  · dsimp only
    split
    · exact hseized _ ‹_›
    · exact hfailed ‹_› .noRoute

theorem callRetry_agrees (h : Nat) (cause : RetryCause) (expected : Option Nat) (hs : s.Agrees) :
    (callRetry h cause expected s).2.Agrees := by
  unfold callRetry
  split
  · exact hs
  · rename_i c hc
    obtain ⟨hbetween, hwatches⟩ := hs.crankback (State.namedCall_ok hc) cause
    split
    · exact hs
    · exact State.AgreesBut.completeWatch (retrySearch_agrees hbetween hwatches) .idle

theorem callRelease_agrees (h : Nat) (cause : CloseCause) (expected : Option Nat) (hs : s.Agrees) :
    (callRelease h cause expected s).2.Agrees := by
  unfold callRelease
  split
  · exact hs
  · exact ((hs.but _).closeCall (State.namedCall_ok ‹_›) rfl cause).completeWatch .idle

/-! ### The device restart -/

/-- The close of a call frees its handle (R67). -/
theorem State.heldBy_closeCall (s : State) (h : Nat) (c : Call) (cause : CloseCause) (holds : Bool) (k : Nat) :
    (s.closeCall h c cause holds).1.heldBy k = if k = h then none else s.heldBy k := by
  have hrated := congrFun (s.sameView_ratingClose h c cause).heldBy_eq k
  rw [State.heldBy, State.call]
  cases holds
  · show Option.map _ (Table.find (Table.erase (s.ratingClose h c cause).1.calls h) k) = _
    rw [Table.find_erase]
    split
    · rfl
    · exact hrated
  · show Option.map _ (Table.find (Table.erase ((s.ratingClose h c cause).1.makeIdle c.circuit).calls h) k) = _
    rw [Table.find_erase, State.makeIdle_calls]
    split
    · rfl
    · exact hrated

theorem restartCloses_agrees (hs : List Nat) (s : State) (tally : RestartTally)
    (h : s.AgreesLoosely fun _ => True) :
    (restartCloses hs s tally).1.AgreesLoosely (fun _ => True) ∧
      ∀ k, (restartCloses hs s tally).1.heldBy k = if k ∈ hs then none else s.heldBy k := by
  induction hs generalizing s tally with
  | nil => exact ⟨h, fun k => (if_neg List.not_mem_nil).symm⟩
  | cons n hs ih =>
    unfold restartCloses
    split
    · rename_i hn
      obtain ⟨hagrees, hheld⟩ := ih s tally h
      refine ⟨hagrees, fun k => (hheld k).trans ?_⟩
      by_cases hk : k = n
      · rw [hk, State.heldBy, hn]; simp
      · simp only [List.mem_cons, hk, false_or]
    · rename_i c hc
      obtain ⟨hagrees, hheld⟩ := ih (s.closeCall n c .restart true).1 _
        ⟨h.1.closeCall hc .restart, h.2.1.closeCall n c .restart true, h.2.2.closeCall n trivial .restart true⟩
      refine ⟨hagrees, fun k => (hheld k).trans ?_⟩
      rw [State.heldBy_closeCall]
      by_cases hk : k = n
      · simp [hk]
      · simp only [List.mem_cons, hk, false_or, if_false]

/-- Circuits that no call holds become IDLE (R3). -/
theorem foldl_makeIdle_agrees (ns : List Nat) (s : State) (h : s.AgreesLoosely fun _ => True)
    (hnone : ∀ k, s.heldBy k = none) :
    (ns.foldl State.makeIdle s).AgreesLoosely (fun _ => True) ∧ (∀ k, (ns.foldl State.makeIdle s).heldBy k = none) ∧
      ∀ n, ((ns.foldl State.makeIdle s).circuit n).usage = if n ∈ ns then .idle else (s.circuit n).usage := by
  induction ns generalizing s with
  | nil => exact ⟨h, hnone, fun n => (if_neg List.not_mem_nil).symm⟩
  | cons m ns ih =>
    have hheld := State.heldBy_congr (s.makeIdle_calls m)
    obtain ⟨hholds, hbound⟩ := (State.callsAgree_iff _).mp h.1
    have hfree : ∀ k, (s.circuit m).usage ≠ .outgoing k := fun k hu => by
      have := (hholds m k).mp hu
      rw [hnone] at this; cases this
    obtain ⟨hagrees, hnone', husage⟩ := ih (s.makeIdle m)
      ⟨(State.callsAgree_iff _).mpr (by rw [hheld]; exact ⟨hholds.makeIdle_free hfree, hbound⟩), h.2.1.makeIdle m,
        h.2.2.makeIdle trivial⟩ (by rw [hheld]; exact hnone)
    refine ⟨hagrees, hnone', fun n => (husage n).trans ?_⟩
    have hcirc : ((s.makeIdle m).circuit n).usage = if n = m then .idle else (s.circuit n).usage := by
      rw [State.makeIdle, State.circuit_congr (State.unwatch_sameCalls _ m).1, State.circuit_setUsage]
      split <;> rfl
    rw [hcirc]
    by_cases hn : n = m
    · simp [hn]
    · simp only [List.mem_cons, hn, false_or, if_false]

/-- Every circuit in use stands among those a restart idles (R3). -/
theorem State.mem_busyCircuits {n : Nat} (hn : (s.circuit n).usage ≠ .idle) : n ∈ s.busyCircuits := by
  unfold State.circuit at hn
  cases hf : Table.find s.circuits n with
  | none => rw [hf] at hn; exact absurd rfl hn
  | some c =>
    rw [hf] at hn
    refine List.mem_map.mpr ⟨(n, c), List.mem_filter.mpr ⟨Table.mem_of_find hf, ?_⟩, rfl⟩
    change c.usage ≠ .idle at hn
    show c.usage.busy = true
    cases hu : c.usage with
    | idle => exact absurd hu hn
    | outgoing h => rfl
    | incoming => rfl

/-- Every open watch stands among those a restart closes (R12). -/
theorem State.mem_openWatches {m : Nat} {w : DrainWatch} (hw : (s.span m).watch = some w) : m ∈ s.openWatches := by
  unfold State.span at hw
  cases hf : Table.find s.spans m with
  | none => rw [hf] at hw; cases hw
  | some r =>
    rw [hf] at hw
    refine List.mem_map.mpr ⟨(m, r), List.mem_filter.mpr ⟨Table.mem_of_find hf, ?_⟩, rfl⟩
    change r.watch = some w at hw
    show r.watch.isSome = true
    rw [hw]; rfl

/-- A restart closes the watch of a span and leaves the others (R12). -/
theorem State.watch_closeWatch (s : State) (sp m : Nat) :
    ((s.closeWatch sp).span m).watch = if m = sp then none else (s.span m).watch := by
  unfold State.closeWatch
  dsimp only
  generalize hr : ({ s.span sp with
    watch := (s.span sp).watch.map fun w => { w with positions := [] } } : Span) = r
  have hempty : ∀ w, r.watch = some w → w.positions = [] := by
    rw [← hr]
    intro w hw
    obtain ⟨w', -, rfl⟩ := Option.map_eq_some_iff.mp hw
    rfl
  rcases (s.setSpan sp r).completeWatch_spec sp .restart with ⟨h, hfull⟩ | ⟨w, -, -, h⟩ <;> rw [h]
  · rw [State.span_setSpan]
    split
    · cases hw : r.watch with
      | none => rfl
      | some w => exact absurd (hempty w hw) (hfull w (by rw [State.span_setSpan, if_pos rfl]; exact hw))
    · rfl
  · rw [State.span_setSpan]
    split
    · rfl
    · rename_i hm
      rw [(State.sameView_report _ _ _ _ _).watch, State.span_setSpan, if_neg hm]

theorem State.closeWatch_frame (s : State) (sp : Nat) :
    ∃ ss l, s.closeWatch sp = { s with spans := ss, link := l } := by
  obtain ⟨ss, l, h⟩ := (s.setSpan sp { s.span sp with
    watch := (s.span sp).watch.map fun w => { w with positions := [] } }).completeWatch_frame sp .restart
  exact ⟨ss, l, h⟩

theorem foldl_closeWatch_spec (sps : List Nat) (s : State) :
    (∃ ss l, sps.foldl State.closeWatch s = { s with spans := ss, link := l }) ∧
      ∀ m, ((sps.foldl State.closeWatch s).span m).watch = if m ∈ sps then none else (s.span m).watch := by
  induction sps generalizing s with
  | nil => exact ⟨⟨s.spans, s.link, rfl⟩, fun m => (if_neg List.not_mem_nil).symm⟩
  | cons sp sps ih =>
    obtain ⟨⟨ss, l, hf⟩, hwatch⟩ := ih (s.closeWatch sp)
    obtain ⟨ss', l', hf'⟩ := s.closeWatch_frame sp
    refine ⟨⟨ss, l, by rw [List.foldl_cons, hf, hf']⟩, fun m => (hwatch m).trans ?_⟩
    rw [State.watch_closeWatch]
    by_cases hm : m = sp
    · simp [hm]
    · simp only [List.mem_cons, hm, false_or, if_false]

/-- Groups whose members are all idle, restarted (R26). -/
theorem State.GroupsAgree.restarted (hs : s.GroupsAgree) (hidle : ∀ n, (s.circuit n).usage = .idle) :
    State.GroupsAgree { s with groups := Table.mapAll s.groups Group.restarted } := by
  obtain ⟨hmem, huse, hcount⟩ := hs
  refine ⟨fun n g => (hmem n g).trans ?_, huse, fun g grp hg => ?_⟩
  · show _ ↔ ∃ grp, Table.find (Table.mapAll s.groups Group.restarted) g = some grp ∧ n ∈ grp.members
    simp only [Table.find_mapAll, Option.map_eq_some_iff, exists_exists_and_eq_and]
    rfl
  · change Table.find (Table.mapAll s.groups Group.restarted) g = some grp at hg
    rw [Table.find_mapAll] at hg
    obtain ⟨old, hold, rfl⟩ := Option.map_eq_some_iff.mp hg
    obtain ⟨hnodup, hlt, -⟩ := hcount g old hold
    refine ⟨hnodup, hlt, (List.countP_eq_zero.mpr fun n _ => ?_).symm⟩
    rw [show (State.circuit { s with groups := Table.mapAll s.groups Group.restarted } n).usage = .idle from hidle n]
    decide

theorem deviceRestart_agrees (hs : s.Agrees) : (deviceRestart s).2.Agrees := by
  rw [deviceRestart_state]
  generalize 16384 = fuel
  have hswept := (s.sameView_finishSweep fuel).agrees hs
  generalize State.finishSweep fuel s = swept at hswept
  obtain ⟨hclosed, hheld⟩ := restartCloses_agrees (swept.calls.map fun e => e.1) swept { calls := 0, records := 0 }
    ⟨hswept.1, hswept.2.1, hswept.2.2.but _⟩
  dsimp only
  generalize (restartCloses (swept.calls.map fun e => e.1) swept { calls := 0, records := 0 }).1 = closed at hclosed hheld
  have hnone : ∀ k, closed.heldBy k = none := fun k => by
    rw [hheld]
    split
    · rfl
    · rename_i hk
      cases hc : swept.call k with
      | none => rw [State.heldBy, hc]; rfl
      | some c => exact absurd (List.mem_map.mpr ⟨(k, c), Table.mem_of_find hc, rfl⟩) hk
  obtain ⟨hidled, hnone', husage⟩ := foldl_makeIdle_agrees closed.busyCircuits closed hclosed hnone
  have hidle : ∀ n, (closed.idleAll.circuit n).usage = .idle := fun n => by
    refine (husage n).trans ?_
    split
    · rfl
    · by_contra hu; exact ‹n ∉ _› (State.mem_busyCircuits hu)
  change closed.idleAll.AgreesLoosely _ at hidled
  generalize closed.idleAll = idled at hidled hidle
  obtain ⟨⟨ss, l, hf⟩, hwatch⟩ := foldl_closeWatch_spec idled.openWatches idled
  have hclear : ∀ m, ((idled.openWatches.foldl State.closeWatch idled).span m).watch = none := fun m => by
    rw [hwatch]
    split
    · rfl
    · cases hw : (idled.span m).watch with
      | none => rfl
      | some w => exact absurd (State.mem_openWatches hw) ‹_›
  have hcircuits : (idled.openWatches.foldl State.closeWatch idled).circuits = idled.circuits := by rw [hf]
  have hgroups : (idled.openWatches.foldl State.closeWatch idled).groups = idled.groups := by rw [hf]
  have hcalls : (idled.openWatches.foldl State.closeWatch idled).calls = idled.calls := by rw [hf]
  generalize idled.openWatches.foldl State.closeWatch idled = done at *
  refine State.SameView.agrees (State.sameView_reportGuard _ _ _ _) ⟨?_, ?_, ?_⟩
  · exact hidled.1.of_frame hcircuits hcalls
  · exact ((hidled.2.1.of_frame hcircuits hgroups).restarted fun n => by
      rw [State.circuit_congr hcircuits]; exact hidle n).of_frame rfl rfl
  · intro m w hw
    change (done.span m).watch = some w at hw
    rw [hclear] at hw; cases hw

end Sys2Proof.Machine
end

section
/-! PROOFS. Every command keeps the agreement of circuits, calls, groups and watches: the statement
StepKeepsRatingsAndTablesSound. -/

namespace Sys2Proof.Machine

open Sys2Proof

variable {s t : State}

/-! ### Events and the receiver -/

/-- The receiver writes the link alone. -/
theorem State.sameView_acceptFrame (s : State) (type : Byte) (tag : Tag) (payload : List Byte) :
    s.SameView (s.acceptFrame type tag payload) := by
  have hfinish : ∀ (t : State) (r : Request), s.SameView t →
      s.SameView (if type.getLsbD 6 then t.setAssembly (some r) else (t.setAssembly none).arrive r) := by
    intro t r hv
    split
    · exact hv.trans (.of_frame rfl rfl rfl rfl)
    · refine State.SameView.trans (hv.trans ?_) (State.sameView_arrive (t.setAssembly none) r)
      exact .of_frame rfl rfl rfl rfl
  unfold State.acceptFrame
  dsimp only
  cases s.link.assembly with
  | none => exact hfinish s _ (.refl s)
  | some a =>
    dsimp only
    by_cases ha : a.type = type &&& 0xBF ∧ a.tag = tag
    · rw [if_pos ha]; exact hfinish s _ (.refl s)
    · rw [if_neg ha]; exact hfinish s.frameError _ (.of_frame rfl rfl rfl rfl)

theorem State.sameView_receive (fuel : Nat) (s : State) : s.SameView (State.receive fuel s) := by
  induction fuel generalizing s with
  | zero => exact .refl s
  | succ fuel ih =>
    unfold State.receive
    split
    · exact .of_frame rfl rfl rfl rfl
    · refine State.SameView.trans ?_ (ih _)
      exact .of_frame rfl rfl rfl rfl
    · refine State.SameView.trans ?_ (ih _)
      unfold State.acceptContent
      split
      · refine State.SameView.trans ?_ (State.sameView_acceptFrame _ _ _ _)
        exact .of_frame rfl rfl rfl rfl
      · exact .of_frame rfl rfl rfl rfl

theorem State.sameView_linkRestart (s : State) : s.SameView s.linkRestart := by
  unfold State.linkRestart
  dsimp only
  split
  · refine State.SameView.trans (t := State.loseHead _) ?_ (.of_frame rfl rfl rfl rfl)
    unfold State.loseHead
    split
    · exact .of_frame rfl rfl rfl rfl
    · refine State.SameView.trans ?_ (State.sameView_evaluateThresholds _ _)
      exact .of_frame rfl rfl rfl rfl
  · exact .of_frame rfl rfl rfl rfl

/-- Power-on leaves no circuit, call, group or watch (R193). -/
theorem State.agrees_poweredOn (s : State) (straps : BitVec 2) (low : Bool) : (s.poweredOn straps low).Agrees :=
  (State.SameView.of_frame rfl rfl rfl rfl : State.reset.SameView (s.poweredOn straps low)).agrees State.agrees_reset

theorem State.AgreesIn.refused (r : Refusal) : s.AgreesIn (.refused r) := by rintro _ ⟨⟩

/-- A choice between a refusal and a request. -/
theorem State.AgreesIn.ite {b : Bool} {o : Host.Outcome State Fault Refusal} {r : Refusal} (h : s.AgreesIn o) :
    s.AgreesIn (if b then .refused r else o) := by
  split
  · exact .refused r
  · exact h

theorem execPowerOn_agrees (cause : PowerCause) (straps : BitVec 2) (s : State) :
    s.AgreesIn (execPowerOn cause straps s) := by
  unfold execPowerOn
  cases cause with
  | powerApplied => exact .next fun _ => s.agrees_poweredOn _ _
  | resetPinLow us =>
    dsimp only
    split
    · exact .next id
    · exact .next fun _ => s.agrees_poweredOn _ _

theorem execFrameReceived_agrees (bytes : List Byte) (s : State) : s.AgreesIn (execFrameReceived bytes s) := by
  unfold execFrameReceived
  split
  · exact .next id
  · unfold State.takeBytes
    refine .same (State.SameView.trans ?_ (State.sameView_receive _ _))
    exact .of_frame rfl rfl rfl rfl

theorem execLinkBreak_agrees (ms : Nat) (s : State) : s.AgreesIn (execLinkBreak ms s) := by
  unfold execLinkBreak
  split_ifs
  · exact .next id
  · exact .same (.of_frame rfl rfl rfl rfl)
  · exact .same s.sameView_linkRestart

theorem execMessageBegin_agrees (s : State) : s.AgreesIn (execMessageBegin s) := by
  unfold execMessageBegin
  split
  · split
    · exact .next id
    · exact .same (.of_frame rfl rfl rfl rfl)
  · exact .next id

theorem execMessageEnd_agrees (s : State) : s.AgreesIn (execMessageEnd s) := by
  unfold execMessageEnd
  split
  · exact .next id
  · exact .same (.of_frame rfl rfl rfl rfl)

theorem execRecordNoticeBegin_agrees (s : State) : s.AgreesIn (execRecordNoticeBegin s) := by
  unfold execRecordNoticeBegin
  split
  · split
    · exact .next id
    · exact .same (.of_frame rfl rfl rfl rfl)
  · exact .next id

theorem execRecordNoticeEnd_agrees (s : State) : s.AgreesIn (execRecordNoticeEnd s) := by
  unfold execRecordNoticeEnd
  split
  · exact .next id
  · refine .same (State.SameView.trans ?_ (State.sameView_evaluateThresholds _ _))
    exact .of_frame rfl rfl rfl rfl

theorem execUnknownRequest_agrees (type : Byte) (tag : Tag) (payload : List Byte) (s : State) :
    s.AgreesIn (execUnknownRequest type tag payload s) := by
  unfold execUnknownRequest
  split
  · exact .refused _
  · exact .next (State.agrees_serveWith fun _ => State.agrees_carryOut _ fun _ _ h => h)

theorem execIncrement_agrees (h : Nat) (s : State) : s.AgreesIn (execIncrement h s) := by
  unfold execIncrement
  split
  · exact .next id
  · split
    · exact .next id
    · split
      · exact .next id
      · exact .same (s.sameView_incrementCall _ _ _)

theorem execPeriodBoundary_agrees (s : State) : s.AgreesIn (execPeriodBoundary s) := by
  unfold execPeriodBoundary
  split
  · exact .next id
  · dsimp only
    split
    · refine .same (State.SameView.trans ?_ (State.sameView_closeStart _ _))
      exact .of_frame rfl rfl rfl rfl
    · exact .same (.of_frame rfl rfl rfl rfl)

theorem execSampleInstant_agrees (s : State) : s.AgreesIn (execSampleInstant s) := by
  unfold execSampleInstant
  split
  · exact .next id
  · split
    · exact .same s.sameView_sample
    · exact .same (.of_frame rfl rfl rfl rfl)
    · exact .next id

theorem execLineReturnsToMark_agrees (s : State) : s.AgreesIn (execLineReturnsToMark s) := by
  unfold execLineReturnsToMark
  split
  · exact .next id
  · exact .same (.of_frame rfl rfl rfl rfl)

theorem execResetPinReturnsHigh_agrees (s : State) : s.AgreesIn (execResetPinReturnsHigh s) := by
  unfold execResetPinReturnsHigh
  split
  · exact .same (.of_frame rfl rfl rfl rfl)
  · exact .next id

/-- A choice between two next states. -/
theorem State.AgreesIn.next_ite {b : Bool} {u : State} (ht : s.SameView t) (hu : s.SameView u) :
    s.AgreesIn (if b then .next t else .next u) := by
  split
  · exact .same ht
  · exact .same hu

/-! ### Every command -/

/-- The members of a group that is defined are distinct circuits (R27). -/
theorem parseGroupDefine_members {p : List Byte} {o : Nat × GroupDefn × List Nat} (h : parseGroupDefine p = .ok o) :
    membersValid o.2.2 = true := by
  obtain ⟨⟨g, raw, ms⟩, -, h⟩ := whole_bind_ok h
  obtain ⟨-, h⟩ := valid_bind_ok h
  cases hd : raw.check with
  | error r => rw [hd] at h; cases h
  | ok defn =>
    rw [hd] at h
    obtain ⟨hm, h⟩ := valid_bind_ok h
    cases h
    exact hm

theorem parseGroupMembers_members {p : List Byte} {o : Nat × List Nat} (h : parseGroupMembers p = .ok o) :
    membersValid o.2 = true := by
  obtain ⟨_, -, h⟩ := whole_bind_ok h
  obtain ⟨-, h⟩ := valid_bind_ok h
  obtain ⟨hm, h⟩ := valid_bind_ok h
  cases h
  exact hm

theorem State.SameView.of_eq (h : t = s) : s.SameView t := by rw [h]; exact .refl s

theorem State.sameView_setRemote (b : Bool) (sc : Scope) (s : State) : s.SameView (setRemote b sc s).2 :=
  State.sameView_foldl (fun s n => s.sameView_setRemoteBlock n b) sc.circuits s

/-- Every command keeps the agreement of circuits, calls, groups and watches. -/
theorem exec_agrees (i : Instr) (s : State) : s.AgreesIn (exec i s) := by
  cases i with
  | powerOn cause straps => exact execPowerOn_agrees cause straps s
  | frameReceived bytes => exact execFrameReceived_agrees bytes s
  | linkBreak spaceMs => exact execLinkBreak_agrees spaceMs s
  | messageBegin => exact execMessageBegin_agrees s
  | messageEnd => exact execMessageEnd_agrees s
  | recordNoticeBegin => exact execRecordNoticeBegin_agrees s
  | recordNoticeEnd => exact execRecordNoticeEnd_agrees s
  | unknownRequest type tag payload => exact execUnknownRequest_agrees type tag payload s
  | linkEcho tag payload => exact .next (State.agrees_serveWith fun _ => State.agrees_carryOut _ fun _ _ h => h)
  | statusRead tag payload => exact request_operands_same _ _ _ s fun _ _ => .of_frame rfl rfl rfl rfl
  | noticeEnable tag payload => exact request_operands_same _ _ _ s fun _ _ => .of_frame rfl rfl rfl rfl
  | deviceRestart tag payload => exact request_operands_agrees _ _ _ s fun _ _ _ _ => deviceRestart_agrees
  | circuitBlockPlain tag payload => exact .ite (request_operands_same _ _ _ s fun o s => s.sameView_blockAll o.1.circuits)
  | circuitBlockDrain tag payload => exact .ite (request_operands_agrees _ _ _ s fun _ o _ _ => blockDrain_agrees tag o.1)
  | circuitBlockForced tag payload => exact .ite (request_operands_agrees _ _ _ s fun _ o _ _ => blockForced_agrees o.1)
  | circuitUnblock tag payload => exact request_operands_agrees _ _ _ s fun _ sc _ _ => unblock_agrees sc
  | remoteBlock tag payload => exact request_operands_same _ _ _ s fun sc s => s.sameView_setRemote true sc
  | remoteUnblock tag payload => exact request_operands_same _ _ _ s fun sc s => s.sameView_setRemote false sc
  | incomingSeize tag payload => exact request_operands_agrees _ _ _ s fun _ n _ _ => incomingSeize_agrees n
  | incomingRelease tag payload => exact request_operands_agrees _ _ _ s fun _ n _ _ => incomingRelease_agrees n
  | circuitAudit tag payload => exact request_operands_agrees _ _ _ s fun _ _ _ hp => circuitAudit_agrees (parseAudit_fits hp)
  | spanReport tag payload => exact request_operands_same _ _ _ s fun _ s => .refl s
  | groupDefine tag payload => exact request_operands_agrees _ _ _ s fun _ _ _ hp => groupDefine_agrees (parseGroupDefine_members hp)
  | groupChange tag payload => exact request_operands_same _ _ _ s fun _ s => groupChange_sameView _ _ s
  | groupMembers tag payload => exact request_operands_agrees _ _ _ s fun _ _ _ hp => groupMembers_agrees (parseGroupMembers_members hp)
  | groupDelete tag payload => exact request_operands_agrees _ _ _ s fun _ g _ _ => groupDelete_agrees g
  | groupRead tag payload => exact request_operands_same _ _ _ s fun _ s => .of_eq (groupRead_state _ s)
  | prefixWrite tag payload => exact request_operands_same _ _ _ s fun _ s => prefixWrite_sameView _ _ s
  | prefixDelete tag payload => exact request_operands_same _ _ _ s fun _ s => prefixDelete_sameView _ s
  | prefixLookup tag payload => exact request_operands_same _ _ _ s fun _ s => .of_eq (prefixLookup_state _ s)
  | planWrite tag payload => exact request_operands_same _ _ _ s fun _ s => planWrite_sameView _ _ _ s
  | planDelete tag payload => exact request_operands_same _ _ _ s fun _ s => planDelete_sameView _ s
  | planRead tag payload => exact request_operands_same _ _ _ s fun _ s => .of_eq (planRead_state _ s)
  | callSetup tag payload => exact request_operands_agrees _ _ _ s fun _ o _ _ => callSetup_agrees o
  | callRetry tag payload => exact request_operands_agrees _ _ _ s fun _ _ _ _ => callRetry_agrees _ _ _
  | callAnswer tag payload => exact request_operands_same _ _ _ s fun _ s => callAnswer_sameView _ _ s
  | callRelease tag payload => exact request_operands_agrees _ _ _ s fun _ _ _ _ => callRelease_agrees _ _ _
  | callRead tag payload => exact request_operands_same _ _ _ s fun _ s => .of_eq (callRead_state _ s)
  | groupReport tag payload => exact request_operands_same _ _ _ s fun _ s => groupReport_sameView _ _ s
  | monitorSet tag payload => exact request_operands_same _ _ _ s fun _ _ => .of_frame rfl rfl rfl rfl
  | monitorHold tag payload => exact request_operands_same _ _ _ s fun _ s => monitorHold_sameView s
  | monitorResume tag payload => exact request_operands_same _ _ _ s fun _ s => monitorResume_sameView s
  | monitorRead tag payload => exact request_operands_same _ _ _ s fun _ s => .refl s
  | guardSet tag payload => exact request_operands_same _ _ _ s fun _ s => guardSet_sameView _ s
  | guardParameters tag payload => exact request_operands_same _ _ _ s fun _ _ => .of_frame rfl rfl rfl rfl
  | guardRead tag payload => exact request_operands_same _ _ _ s fun _ s => .refl s
  | clockSet tag payload => exact request_operands_same _ _ _ s fun _ s => clockSet_sameView _ s
  | clockRead tag payload => exact request_operands_same _ _ _ s fun _ s => .refl s
  | bandMapWrite tag payload => exact request_operands_same _ _ _ s fun _ _ => .of_frame rfl rfl rfl rfl
  | bandMapRead tag payload => exact request_operands_same _ _ _ s fun _ s => .refl s
  | tariffWrite tag payload => exact request_operands_same _ _ _ s fun _ s => tariffWrite_sameView _ _ _ s
  | tariffCancel tag payload => exact request_operands_same _ _ _ s fun _ s => tariffCancel_sameView _ s
  | tariffDelete tag payload => exact request_operands_same _ _ _ s fun _ s => tariffDelete_sameView _ s
  | tariffRead tag payload => exact request_operands_same _ _ _ s fun _ s => .of_eq (tariffRead_state _ s)
  | carrierWrite tag payload => exact request_operands_same _ _ _ s fun _ s => carrierWrite_sameView _ s
  | carrierDelete tag payload => exact request_operands_same _ _ _ s fun _ s => carrierDelete_sameView _ s
  | carrierReport tag payload => exact request_operands_same _ _ _ s fun _ s => .of_eq (carrierReport_state _ s)
  | periodLength tag payload => exact request_operands_same _ _ _ s fun _ _ => .of_frame rfl rfl rfl rfl
  | periodClose tag payload => exact request_operands_same _ _ _ s fun _ s => periodClose_sameView s
  | periodReport tag payload => exact request_operands_same _ _ _ s fun _ _ => .of_frame rfl rfl rfl rfl
  | recordFetch tag payload => exact request_operands_same _ _ _ s fun _ s => recordFetch_sameView _ s
  | queueThresholds tag payload => exact request_operands_same _ _ _ s fun _ s => queueThresholds_sameView _ _ s
  | drainMode tag payload => exact request_operands_same _ _ _ s fun _ _ => .of_frame rfl rfl rfl rfl
  | queueRead tag payload => exact request_operands_same _ _ _ s fun _ s => .refl s
  | oneSecondAdvance => exact .next_ite (.refl s) (.of_frame rfl rfl rfl rfl)
  | pendingTariffSwitch => exact .next_ite (.refl s) (State.sameView_foldl (State.sameView_activateTariff _) _ s)
  | periodBoundary => exact execPeriodBoundary_agrees s
  | increment handle => exact execIncrement_agrees handle s
  | sweepVisit => exact .next_ite (.refl s) s.sameView_sweepVisit
  | sampleInstant => exact execSampleInstant_agrees s
  | lineReturnsToMark => exact execLineReturnsToMark_agrees s
  | resetPinReturnsHigh => exact execResetPinReturnsHigh_agrees s

theorem step_agrees (h : step s = .next t) (hs : s.Agrees) : t.Agrees := by
  unfold step at h
  split at h
  · cases h; exact hs
  · refine exec_agrees _ _ t h ?_
    exact (State.SameView.of_frame rfl rfl rfl rfl : s.SameView _).agrees hs

/-- Settles O60: a circuit goes OUTGOING and idle again together with the call that names it, a busy count moves with its
members, and an emptied watch is completed in the same command. -/
theorem stepKeepsRatingsAndTablesSound : Obligations.StepKeepsRatingsAndTablesSound := by
  unfold Obligations.StepKeepsRatingsAndTablesSound
  exact ⟨fun s t hr ht h => ⟨(step_keeps h).ratings hr, (step_keeps h).tables ht⟩, fun s t hs h => step_agrees h hs⟩

end Sys2Proof.Machine
end

section
/-! PROOFS. Commands that are requests, as a whole: what they do while the pin is low, waiting or overlong (R184, R185,
R193), and what a request taken at once makes of the answer. With them the statements of the step, the pins, the
transmitter and the wire. -/

namespace Sys2Proof.Machine

open Sys2Proof

variable {s t : State} {type : Byte} {tag : Tag} {p : List Byte}

/-! ### Every command that is a request -/

/-- A request of a known code is served with an effect of its own; the other requests are of unknown code (R184). -/
theorem exec_request_known {i : Instr} (hw : i.wellFormed = true) (hr : i.request? = some (type, tag, p)) :
    (∃ run, ∀ s, exec i s = request type tag p s run) ∨
      (isUnknownType type = true ∧ ∀ s, exec i s =
        .next (s.serveWith (Request.ofPayload type tag p) State.carryOutUnknown)) := by
  cases i
  case powerOn | frameReceived | linkBreak | messageBegin | messageEnd | recordNoticeBegin | recordNoticeEnd
      | oneSecondAdvance | pendingTariffSwitch | periodBoundary | increment | sweepVisit | sampleInstant
      | lineReturnsToMark | resetPinReturnsHigh => cases hr
  case unknownRequest =>
    cases hr
    refine .inr ⟨(Bool.and_eq_true_iff.mp hw).2, fun s => ?_⟩
    show (if !(isMessageType type && isUnknownType type) then _ else _) = _
    rw [show (isMessageType type && isUnknownType type) = true from hw]
    rfl
  case circuitBlockPlain | circuitBlockDrain | circuitBlockForced =>
    cases hr
    exact .inl ⟨_, fun s => if_neg fun h => absurd hw (by rw [Instr.wellFormed, h]; decide)⟩
  all_goals
    cases hr
    exact .inl ⟨_, fun s => rfl⟩

/-- Every command that is a request waits, arrives or is taken in the one way (log 2). -/
theorem exec_request {i : Instr} (hw : i.wellFormed = true) (hr : i.request? = some (type, tag, p)) :
    ∃ take, ∀ s, exec i s = .next (s.serveWith (Request.ofPayload type tag p) take) := by
  rcases exec_request_known hw hr with ⟨run, h⟩ | ⟨-, h⟩
  · exact ⟨_, h⟩
  · exact ⟨_, h⟩

theorem State.canTake_eq_false (h : 64 ≤ s.link.sendList.length ∨ s.visitOwedToRequests = true) :
    s.canTake = false := by
  unfold State.canTake
  rcases h with h | h
  · rw [decide_eq_false (Nat.not_lt.mpr h)]; rfl
  · rw [h, Bool.not_true, Bool.and_false]

/-- Settles O4: a request is not served, and each event asks for the pin first. -/
theorem resetPinLowHoldsThePart : Obligations.ResetPinLowHoldsThePart := by
  unfold Obligations.ResetPinLowHoldsThePart
  intro s i hw hlow hpower hpin
  cases hr : i.request? with
  | some r =>
    obtain ⟨type, tag, p⟩ := r
    obtain ⟨take, h⟩ := exec_request hw hr
    rw [h, State.serveWith_of_resetLow hlow]
  | none =>
    cases i
    case powerOn cause straps => exact absurd rfl (hpower cause straps)
    case resetPinReturnsHigh => exact absurd rfl hpin
    case frameReceived => exact if_pos (by rw [hlow]; rfl)
    case linkBreak => exact if_pos (by rw [hlow]; rfl)
    case messageEnd => exact if_pos (by rw [hlow]; rfl)
    case lineReturnsToMark => exact if_pos hlow
    case oneSecondAdvance | pendingTariffSwitch | sweepVisit =>
      simp [exec, execOneSecondAdvance, execPendingTariffSwitch, execSweepVisit, hlow]
    case periodBoundary => simp [exec, execPeriodBoundary, hlow]
    case increment h =>
      show execIncrement h s = _
      unfold execIncrement
      split
      · rfl
      · split
        · rfl
        · exact if_pos (by rw [hlow]; rfl)
    case sampleInstant => simp [exec, execSampleInstant, hlow]
    case recordNoticeEnd => simp [exec, execRecordNoticeEnd, hlow]
    case messageBegin =>
      show execMessageBegin s = _
      unfold execMessageBegin
      split
      · rw [if_pos hlow]
      · rfl
    case recordNoticeBegin =>
      show execRecordNoticeBegin s = _
      unfold execRecordNoticeBegin
      split
      · rw [if_pos (by simp [hlow])]
      · rfl
    all_goals cases hr

/-- Settles O5: a request that may not be taken is left as its arrival leaves it. -/
theorem requestsWaitOrOverload : Obligations.RequestsWaitOrOverload := by
  unfold Obligations.RequestsWaitOrOverload
  intro s i type tag p hw hr hrun
  obtain ⟨take, hexec⟩ := exec_request hw hr
  refine ⟨fun hhead hwait => ?waits, fun hline hempty hwait => ?first, fun hline hhead hpos hlt => ?behind,
    fun hline hhead hfull => ?overload⟩
  case waits => rw [hexec, State.serveWith_waits hhead (State.canTake_eq_false hwait)]
  case first =>
    have harrive := State.arrive_of_empty hempty (Request.ofPayload type tag p)
    have htake : (s.arrive (Request.ofPayload type tag p)).canTake = false := by
      rw [harrive]; exact State.canTake_eq_false (s := s) hwait
    rw [hexec, State.serveWith_arrives hrun hline (by rw [hempty]; rintro ⟨⟩) (.inr htake), harrive]
  case behind =>
    have harrive : s.arrive (Request.ofPayload type tag p) =
        { s with link := { s.link with requests := s.link.requests ++ [Request.ofPayload type tag p] } } := if_pos hlt
    have hsame : (s.arrive (Request.ofPayload type tag p)).link.requests.head? ≠ some (Request.ofPayload type tag p) := by
      rw [harrive]
      show (s.link.requests ++ _).head? ≠ _
      rw [List.head?_append_of_ne_nil _ (List.length_pos_iff.mp hpos)]
      exact hhead
    rw [hexec, State.serveWith_arrives hrun hline hhead (.inl hsame), harrive]
  case overload =>
    rcases s.arrive_spec (Request.ofPayload type tag p) with ⟨hlt, -⟩ | ⟨-, harrive⟩
    · omega
    have hsame : (s.arrive (Request.ofPayload type tag p)).link.requests.head? ≠ some (Request.ofPayload type tag p) := by
      rw [harrive]
      split <;> exact hhead
    rw [hexec, State.serveWith_arrives hrun hline hhead (.inl hsame), harrive]
    rfl

/-! ### A request taken at once -/

/-- What a taken request makes of the state its effect leaves: the reply stands before the messages of the effect, and
a sweep in flight is owed a visit (R162, R185). -/
def State.replied (s : State) (messages : List Message) : State := (s.sendFirst messages).oweVisitToRequests

/-- A request whose effect is an operation that a reply does not touch: the operation, carried out on the answer. -/
theorem State.serve_effect {run : List Byte → State → Body × State} {body : Body} {op : State → State}
    (h : s.takesNow type tag p) (hop : ∀ (t : State) m, (op t).replied m = op (t.replied m))
    (hrun : run p s.dropHeadRequest.withoutMessages = (body, op s.dropHeadRequest.withoutMessages)) :
    s.serve type tag p run = op (s.answer (type &&& 0x3F).toNat tag body) := by
  rw [State.serve_of_takesNow h, hrun]
  refine (hop _ _).trans (congrArg op ?_)
  simp [State.replied, State.sendFirst, State.oweVisitToRequests, State.answer, State.dropHeadRequest,
    State.withoutMessages]

/-- A request whose operands read, as its effect on the answer. -/
theorem request_effect {α : Type} {parse : List Byte → Except Result α} {a : α} {f : α → State → Body × State}
    {body : Body} {op : State → State} (h : s.takesNow type tag p) (hp : parse p = .ok a)
    (hop : ∀ (t : State) m, (op t).replied m = op (t.replied m))
    (hrun : f a s.dropHeadRequest.withoutMessages = (body, op s.dropHeadRequest.withoutMessages)) :
    request type tag p s (fun p s => withOperands (parse p) s fun a => f a s) =
      .next (op (s.answer (type &&& 0x3F).toNat tag body)) := by
  refine congrArg _ ((State.serve_operands h hp fun s a => f a s).trans ?_)
  exact State.serve_effect h hop hrun

/-- A request whose operands read, and that replies and does nothing more. -/
theorem request_reply {α : Type} {parse : List Byte → Except Result α} {a : α} {f : α → State → Body × State}
    {body : Body} (h : s.takesNow type tag p) (hp : parse p = .ok a)
    (hrun : f a s.dropHeadRequest.withoutMessages = (body, s.dropHeadRequest.withoutMessages)) :
    request type tag p s (fun p s => withOperands (parse p) s fun a => f a s) =
      .next (s.answer (type &&& 0x3F).toNat tag body) :=
  request_effect (op := id) h hp (fun _ _ => rfl) hrun

/-- A request whose operands do not read (R194). -/
theorem request_refused {α : Type} {parse : List Byte → Except Result α} {r : Result} {f : α → State → Body × State}
    (h : s.takesNow type tag p) (hp : parse p = .error r) :
    request type tag p s (fun p s => withOperands (parse p) s fun a => f a s) =
      .next (s.answer (type &&& 0x3F).toNat tag (.result r)) :=
  congrArg _ (State.serve_refused h hp fun s a => f a s)

/-! ### Wrong lengths -/

/-- An overlong request of a known code that completes at an empty queue is replied BAD_LENGTH and does nothing
(R184). -/
theorem State.serve_overlong (hlong : 4096 < p.length) (hrun : s.resetLow = false) (hline : s.link.lineBroken = false)
    (hempty : s.link.requests = []) (hroom : s.link.sendList.length < 64) (hvisit : s.visitOwedToRequests = false)
    (run : List Byte → State → Body × State) :
    s.serve type tag p run = s.answer (type &&& 0x3F).toNat tag (.result .badLength) := by
  have harrive := State.arrive_of_empty hempty (Request.ofPayload type tag p)
  have htake : (s.arrive (Request.ofPayload type tag p)).canTake = true := by
    rw [harrive]
    show (decide (s.link.sendList.length < 64) && !s.visitOwedToRequests) = true
    rw [decide_eq_true hroom, hvisit]; rfl
  unfold State.serve State.serveWith
  rw [if_neg (by rw [hrun]; decide), if_neg (by rw [hempty]; rintro ⟨⟩), if_neg (by rw [hline]; decide)]
  dsimp only
  rw [if_pos ⟨by rw [harrive]; rfl, htake⟩, harrive]
  have hover : (Request.ofPayload type tag p).overlong = true := decide_eq_true hlong
  unfold State.carryOut
  rw [if_pos hover]
  simp [State.sendFirst, State.oweVisitToRequests, State.answer, State.dropHeadRequest, State.withoutMessages,
    hempty, Request.ofPayload]

theorem parseEmpty_of_ne (hp : p ≠ []) : parseEmpty p = .error .badLength := by
  cases p with
  | nil => exact absurd rfl hp
  | cons b p => rfl

/-- Settles O6: a length is judged before any effect. -/
theorem wrongLengthsAreBadLength : Obligations.WrongLengthsAreBadLength := by
  unfold Obligations.WrongLengthsAreBadLength
  refine ⟨fun s i type tag p hw hr hknown hlong hrun hline hempty hroom hvisit => ?_, fun s tag p hp => ?_⟩
  · rcases exec_request_known hw hr with ⟨run, h⟩ | ⟨hunknown, -⟩
    · rw [h]
      exact congrArg _ (State.serve_overlong hlong hrun hline hempty hroom hvisit run)
    · rw [hknown] at hunknown; cases hunknown
  · have hparse := parseEmpty_of_ne hp
    exact ⟨fun h => request_refused h hparse, fun h => request_refused h hparse, fun h => request_refused h hparse,
      fun h => request_refused h hparse, fun h => request_refused h hparse, fun h => request_refused h hparse,
      fun h => request_refused h hparse, fun h => request_refused h hparse, fun h => request_refused h hparse,
      fun h => request_refused h hparse, fun h => request_refused h hparse⟩

/-! ### The step, the pins, the transmitter and the wire -/

/-- Settles O1. -/
theorem stepRunsTheQueue : Obligations.StepRunsTheQueue := by
  unfold Obligations.StepRunsTheQueue
  refine ⟨fun s i rest h => ?_, fun s h => ?_⟩
  all_goals unfold step; rw [h]

/-- Settles O3: each row of the pins' commands, read off their definitions. -/
theorem powerOnAndResetPin : Obligations.PowerOnAndResetPin := by
  unfold Obligations.PowerOnAndResetPin
  intro s straps us
  refine ⟨rfl, fun h => ?_, fun h => ?_, fun h => ?_, fun h => ?_⟩
  · exact if_neg (Nat.not_lt.mpr h)
  · exact if_pos h
  · exact if_pos h
  · exact if_neg (by rw [h]; decide)

/-- Settles O50. -/
theorem messagesBeginAndEnd : Obligations.MessagesBeginAndEnd := by
  unfold Obligations.MessagesBeginAndEnd
  intro s hrun
  refine ⟨fun m rest hidle hlist => ?_, fun hrecord => ?_⟩
  · show execMessageBegin s = _
    unfold execMessageBegin
    rw [hidle, hlist]
    exact if_neg (by rw [hrun]; decide)
  · exact if_neg (by rw [hrun, hrecord]; decide)

theorem Record.bytes_length (r : Record) : r.bytes.length = 41 := by
  have hflag : (flagByte r.saturated).length = 1 := by cases r.saturated <;> rfl
  unfold Record.bytes
  cases r.final <;> simp only [List.length_append, be_length, code, List.length_singleton, hflag]

/-- The type byte that the part sends (R183). -/
theorem frameType_reply {n : Nat} (hn : n < 64) :
    frameType (0x80 ||| BitVec.ofNat 8 n) false = BitVec.ofNat 8 (128 + n) := by
  interval_cases n <;> rfl

/-- A short message is one frame (R183). -/
theorem frames_of_short (hp : p.length ≤ 1024) : frames type tag p = frame type false tag p := by
  unfold frames
  cases p.length / 1024 with
  | zero => rfl
  | succ n => exact if_pos hp

theorem frame_length (more : Bool) : (frame type more tag p).length = 8 + p.length := by
  simp only [frame, frameCovered, List.length_cons, List.length_append, be_length]
  omega

/-- Settles O53. -/
theorem wireLayouts : Obligations.WireLayouts := by
  unfold Obligations.WireLayouts
  refine ⟨by decide +kernel, Record.bytes_length, fun m hcode hlen => ?_⟩
  unfold Message.wire
  rw [frames_of_short hlen]
  refine ⟨rfl, frame_length false, ?_⟩
  rw [← frameType_reply hcode]
  simp only [frame, frameCovered, be, List.cons_append, List.nil_append, List.getElem?_cons_succ,
    List.getElem?_cons_zero]

end Sys2Proof.Machine
end

section
/-! PROOFS. Chapters 6 to 8: the monitor's hold, clamped parameters, the guard's setting and evaluation, the one-second
advance, the band map, the drain mode and the tariffs. -/

namespace Sys2Proof.Machine

open Sys2Proof

variable {s t : State} {type : Byte} {tag : Tag} {p : List Byte}

/-! ### Counts and comparisons as the statements spell them -/

theorem bne_eq_decide_ne {α : Type} [DecidableEq α] (a b : α) : (a != b) = decide (a ≠ b) := by
  by_cases h : a = b <;> simp [h]

theorem State.groupsOnTariff_eq (s : State) (tf : Nat) :
    s.groupsOnTariff tf = s.groups.countP fun e => e.2.defn.tariff == some tf :=
  (List.countP_eq_length_filter ..).symm

theorem State.ratingsOnTariff_eq (s : State) (tf : Nat) :
    s.ratingsOnTariff tf = s.calls.countP fun e => e.2.rating.any fun r => r.tariff == tf := by
  rw [List.countP_eq_length_filter]
  unfold State.ratingsOnTariff State.countCalls
  congr 2
  funext e
  obtain ⟨k, c⟩ := e
  dsimp only
  cases c.rating <;> rfl

/-! ### The monitor -/

/-- Settles O33: each hold state has its own branch of each request. -/
theorem monitorHoldAndResumeTaken : Obligations.MonitorHoldAndResumeTaken := by
  unfold Obligations.MonitorHoldAndResumeTaken
  refine ⟨fun s hrun hhold hnext => ?instant, fun s tag =>
    ⟨fun h => ⟨fun n hhold hnext => ?hold, fun hhold => ?holdRefused⟩,
      fun h => ⟨fun hhold => ?resume, fun n hhold hnext => ?withdraw, fun hhold => ?resumeRefused⟩⟩⟩
  case instant =>
    show execSampleInstant s = _
    unfold execSampleInstant
    rw [if_neg (by simp [hrun, State.sampleDue, hnext]), hhold]
  case hold =>
    refine request_effect (op := fun t => { t with monitor := { t.monitor with hold := .holdPending } }) h
      (parse := parseEmpty) rfl (fun _ _ => rfl) ?_
    show monitorHold _ = _
    unfold monitorHold
    simp only [State.withoutMessages_monitor, State.dropHeadRequest_monitor, hhold, hnext]
  case holdRefused =>
    refine request_reply h (parse := parseEmpty) rfl ?_
    show monitorHold _ = _
    unfold monitorHold
    split
    · exact absurd ‹_› hhold
    · rfl
  case resume =>
    refine request_effect (op := fun t => { t with
      groups := Table.mapAll t.groups Group.resumed
      monitor := { t.monitor with hold := .running, nextSample := some (wrap32 (t.time.seconds + t.monitor.sampleInterval)) } })
      h (parse := parseEmpty) rfl (fun _ _ => rfl) ?_
    show monitorResume _ = _
    unfold monitorResume
    simp only [State.withoutMessages_monitor, State.dropHeadRequest_monitor, hhold]
    rfl
  case withdraw =>
    refine request_effect (op := fun t => { t with monitor := { t.monitor with hold := .running } }) h
      (parse := parseEmpty) rfl (fun _ _ => rfl) ?_
    show monitorResume _ = _
    unfold monitorResume
    simp only [State.withoutMessages_monitor, State.dropHeadRequest_monitor, hhold, hnext]
  case resumeRefused =>
    refine request_reply h (parse := parseEmpty) rfl ?_
    show monitorResume _ = _
    unfold monitorResume
    simp only [State.withoutMessages_monitor, State.dropHeadRequest_monitor, hhold]
    rfl

/-! ### Clamped parameters -/

/-- The parse of the three 16-bit numbers of GUARD PARAMETERS (R119). -/
theorem parseGuardParameters_be {g q d : Nat} (hg : g < 65536) (hq : q < 65536) (hd : d < 65536) :
    parseGuardParameters (be 2 g ++ be 2 q ++ be 2 d) =
      if g ≤ 256 ∧ q ≤ 64 then .ok (g, q, d) else .error .badValue := by
  unfold parseGuardParameters
  rw [List.append_assoc, readNum_be (n := 2) (by simpa using hg)]
  simp only [Option.bind_eq_bind, Option.bind_some]
  rw [readNum_be (n := 2) (by simpa using hq)]
  simp only [Option.bind_some]
  rw [readNum_be_end (n := 2) (by simpa using hd)]
  by_cases h : g ≤ 256 ∧ q ≤ 64
  · rw [if_pos h]
    show (valid (decide (g ≤ 256 ∧ q ≤ 64)) >>= fun _ => Except.ok (g, q, d)) = _
    rw [decide_eq_true h]; rfl
  · rw [if_neg h]
    show (valid (decide (g ≤ 256 ∧ q ≤ 64)) >>= fun _ => Except.ok (g, q, d)) = _
    rw [decide_eq_false h]; rfl

/-- The clamped length is the greatest listed one that the value reaches, or the least (R158). -/
theorem clampLength_eq {n l : Nat} (hl : l ∈ periodLengths)
    (h : (l ≤ n ∧ ∀ m ∈ periodLengths, m ≤ n → m ≤ l) ∨ (n < 15 ∧ l = 15)) : clampLength n = l := by
  have hlist : periodLengths = [15, 30, 60, 120, 180, 240, 360, 480, 720, 1440] := rfl
  have hsorted : periodLengths.Pairwise (· ≤ ·) := by rw [hlist]; decide
  have hleast : ∀ m ∈ periodLengths, 15 ≤ m := by rw [hlist]; decide
  unfold clampLength
  rcases h with ⟨hln, hmax⟩ | ⟨hn, rfl⟩
  · have hmem : l ∈ periodLengths.filter fun m => decide (m ≤ n) := List.mem_filter.mpr ⟨hl, decide_eq_true hln⟩
    have hne := List.ne_nil_of_mem hmem
    rw [List.getLast?_eq_getLast_of_ne_nil hne]
    have hlast := List.mem_filter.mp (List.getLast_mem hne)
    refine Nat.le_antisymm (hmax _ hlast.1 (of_decide_eq_true hlast.2)) ?_
    exact (hsorted.filter _).rel_getLast hmem
  · rw [List.filter_eq_nil_iff.mpr fun m hm => by
      have := hleast m hm
      simpa using Nat.lt_of_lt_of_le hn this]
    rfl

/-- Settles O34: the values are clamped where they are written. -/
theorem parametersAreClamped : Obligations.ParametersAreClamped := by
  unfold Obligations.ParametersAreClamped
  refine ⟨fun s tag p a b hp h => ?monitor, fun s tag g q d hg hq hd => ?guard,
    fun s tag n l hn h hl hclamp => ?period⟩
  case monitor =>
    refine request_effect (parse := parseTwo) (op := fun t => { t with monitor := { t.monitor with
      sampleInterval := max 1 (min a 60), statsInterval := max 1 (min b 720) } }) h hp (fun _ _ => rfl) ?_
    show monitorSet a b _ = _
    unfold monitorSet
    rw [clamp_eq (by decide), clamp_eq (by decide)]
    dsimp only
    rw [bne_eq_decide_ne, bne_eq_decide_ne]
    rfl
  case guard =>
    intro p h
    have hparse := parseGuardParameters_be hg hq hd
    refine ⟨fun hg' hq' => ?_, fun hout => ?_⟩
    · rw [if_pos ⟨hg', hq'⟩] at hparse
      refine request_effect (op := fun t => { t with guard := { t.guard with
        gGroups := g, qGuard := q, depth := max 1 (min d 8) } }) h hparse (fun _ _ => rfl) ?_
      show guardParameters g q d _ = _
      unfold guardParameters
      rw [clamp_eq (by decide)]
      dsimp only
      rw [bne_eq_decide_ne]
    · rw [if_neg (by omega)] at hparse
      exact request_refused h hparse
  case period =>
    refine request_effect (op := fun t => { t with periods := { t.periods with length := l } }) h (parseOne_be hn)
      (fun _ _ => rfl) ?_
    show periodLength n _ = _
    unfold periodLength
    rw [clampLength_eq hl hclamp]
    dsimp only
    rw [bne_eq_decide_ne]
    rfl

/-! ### The guard -/

/-- A report of a change, raised after the reply. -/
theorem State.replied_report (s : State) (m : List Message) (f : Flag) (on : Bool) (k : Nat) (b : Body) :
    ((s.setFlag f).raiseIf on k b).replied m = ((s.replied m).setFlag f).raiseIf on k b := by
  cases on
  · rfl
  · simp [State.replied, State.sendFirst, State.oweVisitToRequests, State.setFlag, State.raiseIf, State.raise,
      List.append_assoc]

theorem State.replied_reportGuard (s : State) (m : List Message) (old : GuardState) (cause : GuardCause)
    (measures : Option (Nat × Nat)) :
    (s.reportGuard old cause measures).replied m = (s.replied m).reportGuard old cause measures := by
  unfold State.reportGuard
  show State.replied (if s.guard.state = old then _ else _) m = if s.guard.state = old then _ else _
  split
  · rfl
  · exact s.replied_report m _ _ _ _

/-- Settles O35: the written guard is reported where its state is another. -/
theorem guardSetForcesTheState : Obligations.GuardSetForcesTheState := by
  unfold Obligations.GuardSetForcesTheState
  intro s tag p setting hp h state written
  have hset : s.guard.set setting = { s.guard with setting := setting, state := state, clearCount := 0 } := by
    cases setting <;> rfl
  refine (request_effect (body := .guardSet s.guard.setting s.guard.state setting state 0)
    (op := fun t => State.reportGuard { t with
      guard := { s.guard with setting := setting, state := state, clearCount := 0 } } s.guard.state .setting none)
    h hp (fun t m => State.replied_reportGuard _ m _ _ _) ?_).trans ?_
  · show guardSet setting _ = _
    unfold guardSet
    simp only [State.withoutMessages_guard, State.dropHeadRequest_guard, hset]
  · rfl

/-- What an evaluation makes of the guard in AUTO (R115). -/
theorem Guard.evaluated_auto {g : Guard} (h : g.setting = .auto) (seconds congested depth : Nat) :
    g.evaluated seconds congested depth =
      Guard.autoStep { g with lastEval := some ⟨seconds, congested, depth, g.condition congested depth⟩ }
        (g.condition congested depth) := if_pos h

theorem Guard.evaluated_forced {g : Guard} (h : g.setting ≠ .auto) (seconds congested depth : Nat) :
    g.evaluated seconds congested depth =
      { g with lastEval := some ⟨seconds, congested, depth, g.condition congested depth⟩ } := if_neg h

/-- A report leaves the record of the guard, and every other block but the link (R117). -/
theorem State.reportGuard_frame (s : State) (old : GuardState) (cause : GuardCause) (m : Option (Nat × Nat)) :
    ∃ l, s.reportGuard old cause m = { s with link := l } := by
  unfold State.reportGuard
  split
  · exact ⟨s.link, rfl⟩
  · cases s.enabled .guard <;> exact ⟨_, rfl⟩

theorem Guard.autoStep_lastEval (g : Guard) (c : Bool) : (g.autoStep c).lastEval = g.lastEval := by
  unfold Guard.autoStep
  split <;> try rfl
  split <;> rfl

/-- An evaluation writes the guard and reports (R114 to R117). -/
theorem State.evaluateGuard_frame (s : State) (congested depth : Nat) : ∃ l, s.evaluateGuard congested depth =
    { s with guard := s.guard.evaluated s.time.seconds congested depth, link := l } :=
  State.reportGuard_frame _ _ _ _

/-- Settles O36: the rows of the evaluation, by setting, condition and state. -/
theorem guardEvaluationTable : Obligations.GuardEvaluationTable := by
  unfold Obligations.GuardEvaluationTable
  intro s congested depth condition t
  have hcondition : s.guard.condition congested depth = condition := by
    unfold Guard.condition
    exact (Bool.decide_or _ _).symm
  obtain ⟨l, hframe⟩ := s.evaluateGuard_frame congested depth
  have hguard : t.guard = s.guard.evaluated s.time.seconds congested depth := congrArg State.guard hframe
  have hquiet : t.guard.state = s.guard.state → t.link = s.link := fun h => by
    rw [hguard] at h
    show (State.reportGuard _ _ _ _).link = _
    unfold State.reportGuard
    rw [if_pos h]
  refine ⟨?eval, ?frame, fun hforced => ?forced, fun hauto => ⟨?entered, ?stays, ?counts, ?leaves, hquiet, ?told⟩⟩
  case eval =>
    rw [hguard, ← hcondition]
    by_cases hauto : s.guard.setting = .auto
    · rw [Guard.evaluated_auto hauto, Guard.autoStep_lastEval]
    · rw [Guard.evaluated_forced hauto]
  case frame =>
    exact congrArg (fun t : State => { t with guard := s.guard, link := s.link }) hframe
  case forced =>
    have hstate : t.guard.state = s.guard.state := by rw [hguard, Guard.evaluated_forced hforced]
    exact ⟨hstate, by rw [hguard, Guard.evaluated_forced hforced], hquiet hstate⟩
  case entered =>
    intro hc
    rw [hguard, Guard.evaluated_auto hauto, hcondition, hc]
    cases s.guard.state <;> simp [Guard.autoStep]
  case stays =>
    intro hc hs
    rw [hguard, Guard.evaluated_auto hauto, hcondition, hc]
    simp [Guard.autoStep, hs]
  case counts =>
    intro hc hs hlt
    rw [hguard, Guard.evaluated_auto hauto, hcondition, hc]
    simp [Guard.autoStep, hs, Nat.succ_lt_succ hlt]
  case leaves =>
    intro hc hs htwo
    rw [hguard, Guard.evaluated_auto hauto, hcondition, hc]
    simp [Guard.autoStep, hs, htwo]
  case told =>
    intro hne
    have hsetting : (s.guard.evaluated s.time.seconds congested depth).setting = .auto := by
      rw [Guard.evaluated_auto hauto]
      unfold Guard.autoStep
      split <;> try exact hauto
      split <;> exact hauto
    rw [hguard] at hne ⊢
    show (State.reportGuard _ _ _ _).link = _
    unfold State.reportGuard
    rw [if_neg hne]
    dsimp only
    rw [hsetting]
    change ((State.setFlag { s with guard := s.guard.evaluated s.time.seconds congested depth } .guard).raiseIf
      (s.enabled .guard) codeGuard _).link = _
    cases (s.guard.evaluated s.time.seconds congested depth).state <;> cases s.enabled .guard <;> rfl

/-! ### The clock -/

/-- Settles O37: the advance waits exactly while the second is unfinished. -/
theorem advanceMovesTheClockInOrder : Obligations.AdvanceMovesTheClockInOrder := by
  unfold Obligations.AdvanceMovesTheClockInOrder
  refine ⟨fun s hrun hdone htime => ⟨s.advance, ?taken, ?_⟩, fun s hwait => ?waits⟩
  case taken => exact if_neg (by rw [hrun, hdone]; decide)
  case waits =>
    have hunfinished : s.secondUnfinished = true := by
      unfold State.secondUnfinished
      simp only [Bool.or_eq_true]
      rcases hwait with h | h | ⟨h, c, r, hmem, hans, hr, hdue⟩ | ⟨tf, e, v, hmem, hv, hreached⟩ | ⟨sw, hsw, hvisit⟩
      · exact .inl (.inl (.inl (.inl (by rw [State.sampleDue, h]; exact beq_self_eq_true _))))
      · exact .inl (.inl (.inl (.inr h)))
      · refine .inl (.inl (.inr (List.any_eq_true.mpr ⟨(h, c), hmem, ?_⟩)))
        rw [State.incrementDue, hans, hr]
        exact beq_iff_eq.mpr hdue
      · refine .inl (.inr ?_)
        have hin : tf ∈ s.reachedTariffs := by
          refine List.mem_map.mpr ⟨(tf, e), List.mem_filter.mpr ⟨hmem, ?_⟩, rfl⟩
          show e.staged.any _ = true
          rw [hv]; exact hreached
        cases hr : s.reachedTariffs with
        | nil => rw [hr] at hin; cases hin
        | cons a l => rfl
      · exact .inr (by rw [hsw]; exact hvisit)
    exact if_pos (by rw [hunfinished, Bool.or_true])
  have htaken : s.advance.time = s.time.advance := rfl
  refine ⟨?_, fun hlt => ?_, fun hend => ?_, ?_, rfl⟩
  · rw [htaken]
    unfold TimeBase.advance
    split <;> rfl
  · rw [htaken, TimeBase.advance, if_neg (by omega)]
    exact ⟨rfl, rfl⟩
  · rw [htaken, TimeBase.advance, if_pos (by omega)]
    exact ⟨rfl, rfl⟩
  · show ({ s.periods with boundaryWaiting := s.periods.onBoundary s.advance.time.timeOfDay, sweep := _ } : Periods) = _
    unfold Periods.onBoundary
    rw [beq_eq_decide]

/-! ### The band map and the drain mode -/

/-- The bytes of a band map read back (R129). -/
theorem readNums_be (bands : List Nat) (h : ∀ b ∈ bands, b ≤ 3) :
    readNums 1 bands.length (bands.flatMap (be 1)) = some (bands, []) := by
  induction bands with
  | nil => rfl
  | cons b bands ih =>
    have hb : b < 256 ^ 1 := Nat.lt_of_le_of_lt (h b (List.mem_cons_self ..)) (by decide)
    rw [List.flatMap_cons, List.length_cons, readNums, readNum_be hb]
    dsimp only
    rw [ih fun x hx => h x (List.mem_cons_of_mem _ hx)]
    rfl

theorem parseBandMap_be {bands : List Nat} (hlen : bands.length = 48) (h : ∀ b ∈ bands, b ≤ 3) :
    parseBandMap (bands.flatMap (be 1)) = .ok bands := by
  unfold parseBandMap
  rw [← hlen, readNums_be bands h]
  show (valid (bands.all fun b => decide (b ≤ 3)) >>= fun _ => Except.ok bands) = _
  rw [List.all_eq_true.mpr fun b hb => decide_eq_true (h b hb)]
  rfl

theorem changedSlots_eq (old new : List Nat) :
    changedSlots old new = (List.range 48).countP fun i => old.getD i 0 != new.getD i 0 :=
  (List.countP_eq_length_filter ..).symm

theorem parseDrainMode_code (m : DrainMode) : parseDrainMode [BitVec.ofNat 8 m.code] = .ok m := by
  cases m <;> rfl

/-- Settles O39. -/
theorem bandMapAndDrainModeWritten : Obligations.BandMapAndDrainModeWritten := by
  unfold Obligations.BandMapAndDrainModeWritten
  refine ⟨fun s tag bands hlen hbands h => ?_, fun s tag m h => ?_⟩
  · refine request_effect (op := fun t => { t with bandMap := bands }) h (parseBandMap_be hlen hbands) (fun _ _ => rfl) ?_
    show bandMapWrite bands _ = _
    unfold bandMapWrite
    rw [changedSlots_eq]
    rfl
  · exact request_effect (op := fun t => { t with records := { t.records with mode := m } }) h (parseDrainMode_code m)
      (fun _ _ => rfl) rfl

/-! ### Tariffs -/

/-- An effective instant that the clock has reached, or none, is no later one (R131). -/
theorem filter_later_none {effective : Option Instant} {clock : Instant}
    (h : ∀ i, effective = some i → i.reachedBy clock = true) : (effective.filter fun i => !i.reachedBy clock) = none := by
  cases effective with
  | none => rfl
  | some i => rw [Option.filter_some, h i rfl]; rfl

/-- A taken TARIFF WRITE that writes: its entry, and the rest of the answer (R131). -/
theorem tariffWrite_taken {tf : Nat} {v : Version} {effective : Option Instant} {e : Tariff} {d : TariffDisposition}
    (h : s.takesNow 0x28 tag p) (hp : parseTariffWrite p = .ok (tf, v, effective))
    (hafter : tariffAfterWrite (Table.find s.tariffs tf) v (effective.filter fun i => !i.reachedBy s.clock) = .ok (e, d)) :
    runsTo (exec (.tariffWrite tag p) s) fun t =>
      Table.find t.tariffs tf = some e ∧ (∀ k, k ≠ tf → Table.find t.tariffs k = Table.find s.tariffs k) ∧
      { t with tariffs := s.tariffs } =
        s.answer 0x28 tag (.tariffWritten d (e.staged.map fun x => x.effective)
          (s.groups.countP fun e => e.2.defn.tariff == some tf)
          (s.calls.countP fun e => e.2.rating.any fun r => r.tariff == tf)) := by
  refine ⟨_, request_effect (op := fun t => { t with tariffs := Table.put t.tariffs tf e }) h hp (fun _ _ => rfl) ?_,
    Table.find_put_self _ _ _, fun k hk => Table.find_put_ne _ _ hk, rfl⟩
  show tariffWrite tf v effective _ = _
  have hstart : tariffAfterWrite (Table.find s.dropHeadRequest.withoutMessages.tariffs tf) v
      (effective.filter fun i => !i.reachedBy s.dropHeadRequest.withoutMessages.clock) = .ok (e, d) := hafter
  unfold tariffWrite
  dsimp only
  rw [hstart, ← State.groupsOnTariff_eq, ← State.ratingsOnTariff_eq]
  rfl

/-- Settles O40: the disposition is decided by the entry and by a later effective instant. -/
theorem tariffWriteDispositions : Obligations.TariffWriteDispositions := by
  unfold Obligations.TariffWriteDispositions
  intro s tag p tf v effective hp h groups ratings writes
  refine ⟨fun hreached => ?_, fun i hi hlater => ?_⟩
  · have hnone := filter_later_none hreached
    exact ⟨fun hf => tariffWrite_taken h hp (by rw [hf, hnone]; rfl),
      fun e hf => tariffWrite_taken h hp (by rw [hf, hnone]; rfl)⟩
  · have hsome : (effective.filter fun i => !i.reachedBy s.clock) = some i := by
      rw [hi, Option.filter_some, hlater]; rfl
    refine ⟨fun hf => ?_, fun e hf hs => ?_, fun e old hf hs => ?_⟩
    · refine request_reply h hp ?_
      show tariffWrite tf v effective _ = _
      have hstart : tariffAfterWrite (Table.find s.dropHeadRequest.withoutMessages.tariffs tf) v
          (effective.filter fun i => !i.reachedBy s.dropHeadRequest.withoutMessages.clock) = .error .noSuchObject := by
        show tariffAfterWrite (Table.find s.tariffs tf) v (effective.filter fun i => !i.reachedBy s.clock) = _
        rw [hf, hsome]; rfl
      unfold tariffWrite
      dsimp only
      rw [hstart]
      rfl
    · exact tariffWrite_taken h hp (by rw [hf, hsome]; simp [tariffAfterWrite, hs])
    · exact tariffWrite_taken h hp (by rw [hf, hsome]; simp [tariffAfterWrite, hs])

/-- Settles O41. -/
theorem tariffCancelAndDelete : Obligations.TariffCancelAndDelete := by
  unfold Obligations.TariffCancelAndDelete
  intro s tag p tf e hp hf
  have hstart : Table.find s.dropHeadRequest.withoutMessages.tariffs tf = some e := hf
  have hgroups : s.dropHeadRequest.withoutMessages.groupsOnTariff tf =
      s.groups.countP fun e => e.2.defn.tariff == some tf := State.groupsOnTariff_eq _ tf
  have hratings : s.dropHeadRequest.withoutMessages.ratingsOnTariff tf =
      s.calls.countP fun e => e.2.rating.any fun r => r.tariff == tf := State.ratingsOnTariff_eq _ tf
  refine ⟨fun h => ⟨fun hs => ?_, fun v hs => ?_⟩, fun h => ⟨fun hnamed => ?_, fun hg hr => ?_⟩⟩
  · refine request_reply h hp ?_
    show tariffCancel tf _ = _
    unfold tariffCancel
    rw [hstart]
    dsimp only
    rw [hs]
    rfl
  · refine ⟨_, request_effect (op := fun t => { t with tariffs := Table.put t.tariffs tf { e with staged := none } })
      h hp (fun _ _ => rfl) ?_, Table.find_put_self _ _ _, fun k hk => Table.find_put_ne _ _ hk, rfl⟩
    show tariffCancel tf _ = _
    unfold tariffCancel
    rw [hstart]
    dsimp only
    rw [hs]
  · refine request_reply h hp ?_
    show tariffDelete tf _ = _
    unfold tariffDelete
    rw [hstart]
    dsimp only
    rw [hgroups, hratings]
    by_cases hzero : 0 < s.groups.countP fun e => e.2.defn.tariff == some tf
    · rw [if_pos hzero]; rfl
    · rw [if_neg hzero, if_pos]
      · rfl
      · rcases hnamed with ⟨x, hx, hd⟩ | ⟨x, hx, r, hr, hd⟩
        · exact absurd (List.countP_pos_iff.mpr ⟨x, hx, by rw [hd]; exact beq_self_eq_true _⟩) hzero
        · exact List.countP_pos_iff.mpr ⟨x, hx, by rw [hr]; exact beq_iff_eq.mpr hd⟩
  · refine ⟨_, request_effect (op := fun t => { t with tariffs := Table.erase t.tariffs tf }) h hp (fun _ _ => rfl) ?_,
      Table.find_erase_self _ _, fun k hk => by rw [Table.find_erase, if_neg hk]; rfl, rfl⟩
    show tariffDelete tf _ = _
    unfold tariffDelete
    rw [hstart]
    dsimp only
    rw [hgroups, hratings, if_neg, if_neg]
    · rw [List.countP_pos_iff]
      rintro ⟨x, hx, hd⟩
      cases hr' : x.2.rating with
      | none => rw [hr'] at hd; cases hd
      | some r => rw [hr'] at hd; exact hr x hx r hr' (beq_iff_eq.mp hd)
    · rw [List.countP_pos_iff]
      rintro ⟨x, hx, hd⟩
      exact hg x hx (beq_iff_eq.mp hd)

end Sys2Proof.Machine
end

section
/-! PROOFS. Chapters 2 and 3: trunk groups defined and changed, the table of digit strings, the lookup, route plans, and the
sticky alternate. -/

namespace Sys2Proof.Machine

open Sys2Proof

variable {s t : State} {type : Byte} {tag : Tag} {p : List Byte}

/-! ### Trunk groups -/

theorem State.definitionNamed_iff {d : GroupDefn} (h : s.definitionNamed d) :
    s.carrierNamed d = true ∧ s.tariffNamed d = true := by
  obtain ⟨hcarrier, htariff⟩ := h
  refine ⟨hcarrier, ?_⟩
  unfold State.tariffNamed
  rcases htariff with hhome | ⟨tf, hd, htf⟩
  · rw [hhome]; rfl
  · rw [hd]
    exact Bool.or_eq_true_iff.mpr (.inr htf)

/-- Group fields written after a reply. -/
theorem State.replied_setGroupOf (ns : List Nat) (g : Option Nat) (s : State) (m : List Message) :
    (s.setGroupOf ns g).replied m = (s.replied m).setGroupOf ns g := by
  induction ns generalizing s with
  | nil => rfl
  | cons n ns ih => exact ih (s.setCircuit n { s.circuit n with group := g })

/-- A group put in the table after the group fields of circuits are written. -/
theorem State.replied_setGroupOf_groups (ns : List Nat) (g : Option Nat) (f : Table Group → Table Group) (s : State)
    (m : List Message) :
    State.replied { s.setGroupOf ns g with groups := f (s.setGroupOf ns g).groups } m =
      { (s.replied m).setGroupOf ns g with groups := f ((s.replied m).setGroupOf ns g).groups } := by
  rw [← State.replied_setGroupOf]; rfl

theorem State.setGroupOf_setGroupOf_frame (s : State) (ns ns' : List Nat) (g g' : Option Nat) :
    ∃ cs, (s.setGroupOf ns g).setGroupOf ns' g' = { s with circuits := cs } := by
  obtain ⟨cs, hf⟩ := s.setGroupOf_frame ns g
  rw [hf]
  exact State.setGroupOf_frame _ ns' g'

/-- Settles O16. -/
theorem groupsDefinedAndDeleted : Obligations.GroupsDefinedAndDeleted := by
  unfold Obligations.GroupsDefinedAndDeleted
  refine ⟨fun s tag p g d ms hp h hundef hnamed hfree => ?define,
    fun s tag p g grp hp h hgrp hbusy hplans hcalls => ?delete⟩
  case define =>
    obtain ⟨hcarrier, htariff⟩ := State.definitionNamed_iff hnamed
    have hrun : groupDefine g d ms s.dropHeadRequest.withoutMessages = (.result .ok,
        { s.dropHeadRequest.withoutMessages.setGroupOf ms (some g) with
          groups := Table.put (s.dropHeadRequest.withoutMessages.setGroupOf ms (some g)).groups g (Group.fresh d ms) }) := by
      unfold groupDefine
      rw [if_neg, if_neg, if_neg, if_neg]
      · simpa using hfree
      · rw [show s.dropHeadRequest.withoutMessages.tariffNamed d = true from htariff]; decide
      · rw [show s.dropHeadRequest.withoutMessages.carrierNamed d = true from hcarrier]; decide
      · rw [show s.dropHeadRequest.withoutMessages.groupDefined g = false from Option.isSome_eq_false_iff.mpr
          (Option.isNone_iff_eq_none.mpr hundef)]; decide
    refine ⟨_, request_effect (op := fun t => { t.setGroupOf ms (some g) with
      groups := Table.put (t.setGroupOf ms (some g)).groups g (Group.fresh d ms) }) h hp
      (fun t m => t.replied_setGroupOf_groups ms (some g) (fun gs => Table.put gs g (Group.fresh d ms)) m) hrun,
      fun n => ?_, ?_, fun k hk => ?_, ?_⟩
    · exact State.circuit_setGroupOf _ ms (some g) n
    · exact Table.find_put_self _ _ _
    · refine (Table.find_put_ne _ _ hk).trans ?_
      obtain ⟨cs, hf⟩ := (s.answer 0x0C tag (.result .ok)).setGroupOf_frame ms (some g)
      have hkept := congrArg (fun t : State => Table.find t.groups k) hf
      exact hkept
    · obtain ⟨cs, hf⟩ := (s.answer 0x0C tag (.result .ok)).setGroupOf_frame ms (some g)
      have hkept := congrArg (fun t : State => { t with circuits := s.circuits, groups := s.groups }) hf
      exact hkept
  case delete =>
    have hrun : groupDelete g s.dropHeadRequest.withoutMessages = (.result .ok,
        { s.dropHeadRequest.withoutMessages.setGroupOf grp.members none with
          groups := Table.erase (s.dropHeadRequest.withoutMessages.setGroupOf grp.members none).groups g }) := by
      unfold groupDelete
      rw [show Table.find s.dropHeadRequest.withoutMessages.groups g = some grp from hgrp]
      dsimp only
      rw [if_neg (by omega), if_neg, if_neg]
      · refine Bool.eq_false_iff.mp (List.any_eq_false.mpr fun e he => ?_)
        simpa using hcalls e he
      · refine Bool.eq_false_iff.mp (List.any_eq_false.mpr fun e he => Bool.eq_false_iff.mp (List.any_eq_false.mpr fun x hx => ?_))
        simpa using hplans e he x hx
    refine ⟨_, request_effect (op := fun t => { t.setGroupOf grp.members none with
      groups := Table.erase (t.setGroupOf grp.members none).groups g }) h hp
      (fun t m => t.replied_setGroupOf_groups grp.members none (fun gs => Table.erase gs g) m) hrun,
      fun n => ?_, ?_, fun k hk => ?_, ?_⟩
    · exact State.circuit_setGroupOf _ grp.members none n
    · exact Table.find_erase_self _ _
    · refine (Table.find_erase _ _ _).trans ((if_neg hk).trans ?_)
      obtain ⟨cs, hf⟩ := (s.answer 0x0F tag (.result .ok)).setGroupOf_frame grp.members none
      have hkept := congrArg (fun t : State => Table.find t.groups k) hf
      exact hkept
    · obtain ⟨cs, hf⟩ := (s.answer 0x0F tag (.result .ok)).setGroupOf_frame grp.members none
      have hkept := congrArg (fun t : State => { t with circuits := s.circuits, groups := s.groups }) hf
      exact hkept

theorem Usage.isOutgoing_iff (u : Usage) : u.isOutgoing = true ↔ ∃ h, u = .outgoing h := by
  cases u with
  | outgoing h => exact iff_of_true rfl ⟨h, rfl⟩
  | idle => exact iff_of_false (by rintro ⟨⟩) (by rintro ⟨_, ⟨⟩⟩)
  | incoming => exact iff_of_false (by rintro ⟨⟩) (by rintro ⟨_, ⟨⟩⟩)

/-- The new members less those added are those kept (R29). -/
theorem length_sub_filter {ms : List Nat} {f : Nat → Bool} :
    ms.length - (ms.filter fun n => !f n).length = ms.countP f := by
  have hnot : ms.countP (fun n => decide ¬f n = true) = ms.countP fun n => !f n :=
    List.countP_congr fun n _ => by cases f n <;> decide
  rw [← List.countP_eq_length_filter, List.length_eq_countP_add_countP f, hnot]
  exact Nat.add_sub_cancel ..

/-- Settles O17. -/
theorem groupsChanged : Obligations.GroupsChanged := by
  unfold Obligations.GroupsChanged
  refine ⟨fun s tag p g d grp hp h hgrp hnamed => ?change, fun s tag p g ms grp hp h hgrp hfree hgone => ?members⟩
  case change =>
    obtain ⟨hcarrier, htariff⟩ := State.definitionNamed_iff hnamed
    have hrun : groupChange g d s.dropHeadRequest.withoutMessages =
        if d.carrier ≠ grp.defn.carrier ∧ grp.members.any (fun n => (s.circuit n).usage.isOutgoing) then
          refuse .objectInUse s.dropHeadRequest.withoutMessages
        else (.result .ok, s.dropHeadRequest.withoutMessages.modifyGroup g fun grp => { grp with defn := d }) := by
      unfold groupChange
      rw [show Table.find s.dropHeadRequest.withoutMessages.groups g = some grp from hgrp]
      dsimp only
      rw [show s.dropHeadRequest.withoutMessages.carrierNamed d = true from hcarrier,
        show s.dropHeadRequest.withoutMessages.tariffNamed d = true from htariff]
      rfl
    refine ⟨fun hfine => ?_, fun hcarrier' ⟨n, hn, k, hk⟩ => ?_⟩
    · refine request_effect (op := fun t => t.modifyGroup g fun x => { x with defn := d }) h hp (fun _ _ => rfl)
        (hrun.trans (if_neg ?_))
      rintro ⟨hne, hany⟩
      obtain ⟨n, hn, hout⟩ := List.any_eq_true.mp hany
      obtain ⟨k, hk⟩ := (Usage.isOutgoing_iff _).mp hout
      exact hfine.elim hne fun hnot => hnot n hn k hk
    · refine request_reply h hp (hrun.trans (if_pos ⟨hcarrier', List.any_eq_true.mpr ⟨n, hn, ?_⟩⟩))
      exact (Usage.isOutgoing_iff _).mpr ⟨k, hk⟩
  case members =>
    have hrun : groupMembers g ms s.dropHeadRequest.withoutMessages =
        (.membersReplaced (ms.countP fun n => !grp.members.contains n) (ms.countP fun n => grp.members.contains n)
          (grp.members.countP fun n => !ms.contains n),
        ((s.dropHeadRequest.withoutMessages.setGroupOf (grp.members.filter fun n => !ms.contains n) none).setGroupOf
          (ms.filter fun n => !grp.members.contains n) (some g)).modifyGroup g fun x =>
            { x with members := ms, rotary := ms.length - 1 }) := by
      unfold groupMembers
      rw [show Table.find s.dropHeadRequest.withoutMessages.groups g = some grp from hgrp]
      dsimp only
      rw [if_neg, if_neg, length_sub_filter, ← List.countP_eq_length_filter, ← List.countP_eq_length_filter]
      · refine Bool.eq_false_iff.mp (List.any_eq_false.mpr fun n hn => ?_)
        obtain ⟨hn, hnot⟩ := List.mem_filter.mp hn
        rw [show (s.dropHeadRequest.withoutMessages.circuit n).usage = .idle from hgone n hn (by simpa using hnot)]
        decide
      · refine Bool.eq_false_iff.mp (List.any_eq_false.mpr fun n hn => ?_)
        rcases hfree n hn with hg | hg <;> simp [hg]
    refine ⟨_, request_effect (op := fun t => State.modifyGroup ((t.setGroupOf
      (grp.members.filter fun n => !ms.contains n) none).setGroupOf (ms.filter fun n => !grp.members.contains n) (some g))
      g fun x => { x with members := ms, rotary := ms.length - 1 }) h hp (fun t m => ?_) hrun, ?_⟩
    · rw [← State.replied_setGroupOf, ← State.replied_setGroupOf]; rfl
    generalize ha : s.answer (0x0E &&& 0x3F : Byte).toNat tag (.membersReplaced _ _ _) = a
    have hcirc : ∀ n, a.circuit n = s.circuit n := fun n => by rw [← ha]; rfl
    have hgroups : a.groups = s.groups := by rw [← ha]; rfl
    obtain ⟨cs, hf⟩ := a.setGroupOf_setGroupOf_frame (grp.members.filter fun n => !ms.contains n)
      (ms.filter fun n => !grp.members.contains n) none (some g)
    refine ⟨fun n => ?_, ?_, ?_⟩
    · rw [State.circuit_modifyGroup, State.circuit_setGroupOf, State.circuit_setGroupOf, hcirc]
      simp only [List.mem_filter, Bool.not_eq_true', List.contains_eq_mem, decide_eq_false_iff_not]
      by_cases h1 : n ∈ ms <;> by_cases h2 : n ∈ grp.members <;> simp [h1, h2]
    · have hkept := congrArg (fun t : State => Table.modify t.groups g fun x =>
        { x with members := ms, rotary := ms.length - 1 }) hf
      rw [← hgroups]
      exact hkept
    · have hkept := congrArg (fun t : State => { t with circuits := s.circuits, groups := s.groups }) hf
      refine hkept.trans ?_
      rw [← ha]; rfl

/-! ### The table of digit strings -/

theorem State.prefixOf_none {d : List Nat} (h : ∀ e ∈ s.prefixes, e.digits ≠ d) : s.prefixOf d = none :=
  List.find?_eq_none.mpr fun e he => by simpa using h e he

theorem State.prefixOf_some {d : List Nat} {e : PrefixEntry} (he : e ∈ s.prefixes) (hd : e.digits = d)
    (h : ∀ x ∈ s.prefixes, x.digits = d → x = e) : s.prefixOf d = some e := by
  cases hf : s.prefixOf d with
  | none => exact absurd (beq_iff_eq.mpr hd) (List.find?_eq_none.mp hf e he)
  | some x =>
    have hx := List.find?_some (p := fun e : PrefixEntry => e.digits == d) hf
    rw [h x (List.mem_of_find?_eq_some hf) (beq_iff_eq.mp hx)]

/-- Settles O20. -/
theorem prefixTableWritten : Obligations.PrefixTableWritten := by
  unfold Obligations.PrefixTableWritten
  refine ⟨fun s tag p d plan hp h => ⟨fun hnew hroom => ?add, fun hnew hfull => ?full, fun e he hd honly => ?replace⟩,
    fun s tag p d hp h => ⟨fun hnone => ?missing, fun before after e hsplit hd hothers => ?delete⟩⟩
  case add =>
    refine request_effect (op := fun t => { t with prefixes := t.prefixes ++ [{ digits := d, plan := plan }] }) h hp
      (fun _ _ => rfl) ?_
    show prefixWrite d plan _ = _
    unfold prefixWrite
    rw [State.prefixOf_none (s := s.dropHeadRequest.withoutMessages) hnew]
    dsimp only
    rw [if_neg (show ¬prefixCapacity ≤ s.dropHeadRequest.withoutMessages.prefixes.length from Nat.not_le.mpr hroom), List.length_append]
    rfl
  case full =>
    refine request_reply h hp ?_
    show prefixWrite d plan _ = _
    unfold prefixWrite
    rw [State.prefixOf_none (s := s.dropHeadRequest.withoutMessages) hnew]
    exact if_pos hfull
  case replace =>
    refine request_effect (op := fun t => { t with prefixes := t.prefixes.map fun x =>
      if x.digits = d then { x with plan := plan } else x }) h hp (fun _ _ => rfl) ?_
    show prefixWrite d plan _ = _
    unfold prefixWrite
    rw [State.prefixOf_some (s := s.dropHeadRequest.withoutMessages) he hd honly]
    dsimp only
    rw [List.length_map]
    rfl
  case missing =>
    refine request_reply h hp ?_
    unfold prefixDelete
    rw [State.prefixOf_none (s := s.dropHeadRequest.withoutMessages) hnone]
    rfl
  case delete =>
    have he : e ∈ s.prefixes := by rw [hsplit]; simp
    have honly : ∀ x ∈ s.prefixes, x.digits = d → x = e := fun x hx hxd => by
      rw [hsplit, List.mem_append, List.mem_cons] at hx
      rcases hx with hx | rfl | hx
      · exact absurd hxd (hothers x (List.mem_append_left _ hx))
      · rfl
      · exact absurd hxd (hothers x (List.mem_append_right _ hx))
    have hleft : s.prefixes.filter (fun x => x.digits != d) = before ++ after := by
      have hkeep : ∀ l : List PrefixEntry, (∀ x ∈ l, x.digits ≠ d) → l.filter (fun x => x.digits != d) = l :=
        fun l hl => List.filter_eq_self.mpr fun x hx => by simpa using hl x hx
      rw [hsplit, List.filter_append, List.filter_cons_of_neg (by simpa using hd),
        hkeep before fun x hx => hothers x (List.mem_append_left _ hx),
        hkeep after fun x hx => hothers x (List.mem_append_right _ hx)]
    refine request_effect (op := fun t => { t with prefixes := before ++ after }) h hp (fun _ _ => rfl) ?_
    unfold prefixDelete
    rw [State.prefixOf_some (s := s.dropHeadRequest.withoutMessages) he hd honly]
    dsimp only
    rw [show s.dropHeadRequest.withoutMessages.prefixes = s.prefixes from rfl, hleft]

/-! ### The lookup -/

theorem longestMatch_none_iff {ps : List PrefixEntry} {dest : List Nat} :
    longestMatch ps dest = none ↔ ∀ e ∈ ps, ¬e.digits <+: dest := by
  induction ps with
  | nil => exact iff_of_true rfl (by rintro e ⟨⟩)
  | cons e ps ih =>
    unfold longestMatch
    split
    · rename_i he
      exact iff_of_false (by rintro ⟨⟩) fun h => h e (List.mem_cons_self ..) (List.isPrefixOf_iff_prefix.mp he)
    · rename_i he
      rw [ih, List.forall_mem_cons]
      exact (and_iff_right fun h => he (List.isPrefixOf_iff_prefix.mpr h)).symm

/-- Settles O21: the entry that the lookup names is the longest match, whatever stands of its plan. -/
theorem lookupSelectsTheLongest : Obligations.LookupSelectsTheLongest := by
  unfold Obligations.LookupSelectsTheLongest
  intro s dest
  cases hm : longestMatch s.prefixes dest with
  | none =>
    have hlookup : s.lookup dest = .noMatch := by unfold State.lookup; rw [hm]
    refine ⟨iff_of_true hlookup (longestMatch_none_iff.mp hm), fun d plan h => ?_⟩
    rw [hlookup] at h
    rcases h with h | h <;> cases h
  | some e =>
    have hlookup : s.lookup dest = if s.planDefined e.plan then .routed e.digits e.plan
        else .planUndefined e.digits e.plan := by unfold State.lookup; rw [hm]
    obtain ⟨hmem, hprefix, hlongest⟩ := longestMatch_some hm
    refine ⟨iff_of_false ?_ ?_, fun d plan h => ?_⟩
    · rw [hlookup]; split <;> rintro ⟨⟩
    · exact fun hall => hall e hmem hprefix
    · have hdefined : (Table.find s.plans e.plan).isSome = s.planDefined e.plan := rfl
      rw [hlookup] at h ⊢
      cases hp : s.planDefined e.plan with
      | true =>
        rw [hp] at h hdefined
        rcases h with h | h <;> cases h
        exact ⟨⟨e, hmem, rfl, rfl⟩, hprefix, hlongest, iff_of_true rfl hdefined⟩
      | false =>
        rw [hp] at h hdefined
        rcases h with h | h <;> cases h
        exact ⟨⟨e, hmem, rfl, rfl⟩, hprefix, hlongest, iff_of_false (by rintro ⟨⟩) (by rw [hdefined]; decide)⟩

/-! ### Route plans -/

theorem State.prefixesOnPlan_eq (s : State) (plan : Nat) :
    s.prefixesOnPlan plan = s.prefixes.countP fun e => e.plan == plan := (List.countP_eq_length_filter ..).symm

theorem State.seizedOnPlan_eq (s : State) (plan : Nat) :
    s.seizedOnPlan plan = s.calls.countP fun e => !e.2.answered && e.2.plan == plan :=
  (List.countP_eq_length_filter ..).symm

/-- Settles O22. -/
theorem planWriteAndDelete : Obligations.PlanWriteAndDelete := by
  unfold Obligations.PlanWriteAndDelete
  intro s tag p plan
  refine ⟨fun entries ceiling hp h hgroups => ?write, fun hp h hdef hfree => ?delete, fun hp h hdef hused => ?refused⟩
  case write =>
    refine ⟨_, request_effect (op := fun t => { t with plans := Table.put t.plans plan (Plan.fresh entries ceiling) })
      h hp (fun _ _ => rfl) ?_, Table.find_put_self _ _ _, fun k hk => Table.find_put_ne _ _ hk, rfl⟩
    show planWrite plan entries ceiling _ = _
    unfold planWrite
    rw [if_neg]
    · rw [← List.countP_eq_length_filter, ← List.countP_eq_length_filter, State.prefixesOnPlan_eq,
        State.seizedOnPlan_eq]
      rfl
    · refine Bool.eq_false_iff.mp (List.any_eq_false.mpr fun e he => ?_)
      rw [show s.dropHeadRequest.withoutMessages.groupDefined e.group = true from hgroups e he]
      decide
  all_goals
    have hseized : s.dropHeadRequest.withoutMessages.seizedOnPlan plan =
      s.calls.countP fun e => !e.2.answered && e.2.plan == plan := State.seizedOnPlan_eq _ _
    have hdefined : s.dropHeadRequest.withoutMessages.planDefined plan = true := hdef
  case delete =>
    refine ⟨_, request_effect (op := fun t => { t with plans := Table.erase t.plans plan }) h hp (fun _ _ => rfl) ?_,
      Table.find_erase_self _ _, fun k hk => (Table.find_erase _ _ _).trans (if_neg hk), rfl⟩
    unfold planDelete
    rw [if_neg (by rw [hdefined]; decide), if_neg]
    · rw [State.prefixesOnPlan_eq]; rfl
    · rw [hseized, List.countP_pos_iff]
      rintro ⟨e, he, hx⟩
      rw [Bool.and_eq_true, Bool.not_eq_true'] at hx
      rcases hfree e he with ha | hpl
      · rw [ha] at hx; cases hx.1
      · exact hpl (beq_iff_eq.mp hx.2)
  case refused =>
    refine request_reply h hp ?_
    unfold planDelete
    rw [if_neg (by rw [hdefined]; decide), if_pos]
    · rfl
    · obtain ⟨e, he, ha, hpl⟩ := hused
      rw [hseized, List.countP_pos_iff]
      exact ⟨e, he, by rw [ha, hpl]; simp⟩

/-! ### The sticky alternate -/

/-- A candidate as the plan lists it. -/
def Candidate.entry (c : Candidate) : PlanEntry := { group := c.group, role := c.role }

theorem numberEntries_entry (es : List PlanEntry) (n : Nat) : (numberEntries es n).map Candidate.entry = es := by
  induction es generalizing n with
  | nil => rfl
  | cons e es ih =>
    obtain ⟨g, r⟩ := e
    cases r
    · exact congrArg _ (ih n)
    · exact congrArg _ (ih (n + 1))

/-- The candidates of a role are the entries of that role, in list order (R48, R52). -/
theorem Plan.candidates_entry (p : Plan) (r : Role) :
    ((numberEntries p.entries 0).filter fun c => c.role == r).map Candidate.entry = p.entries.filter fun e => e.role == r := by
  conv_rhs => rw [← numberEntries_entry p.entries 0, List.filter_map]
  rfl

theorem Plan.alternates_length (p : Plan) : p.alternates.length = p.entries.countP fun e => e.role == .alternate := by
  rw [List.countP_eq_length_filter, ← p.candidates_entry .alternate, List.length_map]
  rfl

/-- A turn to the left of no more than the list's length (R52). -/
theorem rotateLeft_of_le {α : Type} {l : List α} {n : Nat} (h : n ≤ l.length) :
    l.rotateLeft n = l.drop n ++ l.take n := by
  unfold List.rotateLeft
  dsimp only
  split
  · rename_i hone
    match l, n, h, hone with
    | [], 0, _, _ => rfl
    | [a], 0, _, _ => rfl
    | [a], 1, _, _ => rfl
  · rcases Nat.lt_or_eq_of_le h with hlt | heq
    · rw [Nat.mod_eq_of_lt hlt]
    · rw [heq, Nat.mod_self, List.drop_zero, List.take_zero, List.drop_length, List.take_length, List.append_nil,
        List.nil_append]

theorem State.find_moveSticky (s : State) {i : PassInput} {p : Plan} (hp : Table.find s.plans i.plan = some p)
    (hc : i.cls = .ordinary) (hm : i.movesSticky = true) (c : Candidate) (seized : Bool) :
    Table.find (s.moveSticky i c seized).plans i.plan =
      some (if seized then p.setSticky c.number else p.advanceSticky c.number) := by
  unfold State.moveSticky
  rw [hc, hm]
  show Table.find (s.modifyPlan i.plan _).plans i.plan = _
  rw [State.find_modifyPlan, if_pos rfl, hp]
  rfl

/-- Settles O23. -/
theorem stickyAlternateOrdersAndMoves : Obligations.StickyAlternateOrdersAndMoves := by
  unfold Obligations.StickyAlternateOrdersAndMoves
  refine ⟨fun p hle => ?order, fun s i c p hp => ⟨fun hkeep seized => ?kept, fun hc hm =>
    ⟨fun k hk hs => ?advance, fun hne => ?other, fun hnone seized => ?first, fun k hk => ?set⟩⟩⟩
  case order =>
    show p.candidateOrder.map Candidate.entry = _
    have halt := p.candidates_entry .alternate
    change p.alternates.map Candidate.entry = _ at halt
    have hlen : p.sticky.getD 0 ≤ p.alternates.length := by
      rw [← halt, List.length_map] at hle; exact hle
    rw [Plan.candidateOrder, List.map_append, rotateLeft_of_le hlen, List.map_append, List.map_drop, List.map_take, halt]
    exact congrArg (· ++ _) (p.candidates_entry .first)
  case kept =>
    unfold State.moveSticky
    rw [if_neg]
    rcases hkeep with hcls | hmove
    · rw [hcls]; simp
    · rw [hmove]; simp
  case advance =>
    rw [s.find_moveSticky hp hc hm, if_neg (by decide)]
    unfold Plan.advanceSticky
    rw [hk, hs]
    dsimp only
    rw [if_pos rfl, Plan.alternates_length]
  case other =>
    rw [s.find_moveSticky hp hc hm, if_neg (by decide)]
    unfold Plan.advanceSticky
    split
    · rename_i n k hn hs
      rw [if_neg fun he => hne (by rw [hn, hs, he])]
    · rfl
  case first =>
    rw [s.find_moveSticky hp hc hm, hnone]
    cases seized <;> rfl
  case set =>
    rw [s.find_moveSticky hp hc hm, if_pos rfl, hk]
    rfl

end Sys2Proof.Machine
end

section
/-! PROOFS. Chapters 2 and 5: the four hunt orders, the outcome of a hunt, and the checks of route selection. -/

namespace Sys2Proof.Machine

open Sys2Proof

variable {s t : State}

/-! ### Reversed bits -/

/-- The top bit of a number becomes the lowest of its reverse (R35). -/
theorem reverseBits_add (k : Nat) : ∀ b m, b < 2 → m < 2 ^ k →
    reverseBits (k + 1) (b * 2 ^ k + m) = 2 * reverseBits k m + b := by
  induction k with
  | zero =>
    intro b m hb hm
    have : m = 0 := by simpa using hm
    subst this
    simp only [reverseBits]
    omega
  | succ k ih =>
    intro b m hb hm
    rw [Nat.pow_succ] at hm
    have hdouble : b * 2 ^ (k + 1) = 2 * (b * 2 ^ k) := by ring
    have hmod : (b * 2 ^ (k + 1) + m) % 2 = m % 2 := by rw [hdouble]; omega
    have hdiv : (b * 2 ^ (k + 1) + m) / 2 = b * 2 ^ k + m / 2 := by rw [hdouble]; omega
    rw [reverseBits, hmod, hdiv, ih b (m / 2) hb (by omega), reverseBits]
    rw [Nat.pow_succ]
    ring

/-- Bits reversed twice stand as they were (R35). -/
theorem reverseBits_reverseBits (k : Nat) : ∀ i, i < 2 ^ k → reverseBits k (reverseBits k i) = i := by
  induction k with
  | zero =>
    intro i hi
    have : i = 0 := by simpa using hi
    subst this; rfl
  | succ k ih =>
    intro i hi
    rw [Nat.pow_succ] at hi
    have hhalf : i / 2 < 2 ^ k := by omega
    conv_lhs => rw [reverseBits.eq_2 i k]
    rw [reverseBits_add k (i % 2) _ (Nat.mod_lt _ (by decide)) (reverseBits_lt k _), ih _ hhalf]
    omega

/-! ### The order of a hunt -/

/-- The place of a member position in the order of a hunt mode (R33 to R35). -/
def huntRank (mode : HuntMode) (size rotary q : Nat) : Nat :=
  match mode with
  | .lowFirst => q
  | .highFirst => size - 1 - q
  | .rotary => (q + size - (rotary + 1)) % size
  | .spread => reverseBits (spreadBits size) q

/-- The rotary place of the position that stands `i` after the pointer (R34). -/
theorem huntRank_rotary {size rotary i : Nat} (hr : rotary < size) (hi : i < size) :
    huntRank .rotary size rotary ((rotary + 1 + i) % size) = i := by
  show ((rotary + 1 + i) % size + size - (rotary + 1)) % size = i
  by_cases hlt : rotary + 1 + i < size
  · rw [Nat.mod_eq_of_lt hlt, show rotary + 1 + i + size - (rotary + 1) = i + size from by omega, Nat.add_mod_right,
      Nat.mod_eq_of_lt hi]
  · have hmod : (rotary + 1 + i) % size = rotary + 1 + i - size := by
      rw [Nat.mod_eq_sub_mod (by omega), Nat.mod_eq_of_lt (by omega)]
    rw [hmod, show rotary + 1 + i - size + size - (rotary + 1) = i from by omega, Nat.mod_eq_of_lt hi]

/-- A hunt visits the positions by their rank (R33 to R35). -/
theorem huntOrder_ranked (mode : HuntMode) {size rotary : Nat} (hr : mode = .rotary → rotary < size) :
    (huntOrder mode size rotary).Pairwise fun a b => huntRank mode size rotary a ≤ huntRank mode size rotary b := by
  have hrange : ∀ n, (List.range n).Pairwise fun a b => a ≤ b := fun n => List.pairwise_lt_range.imp Nat.le_of_lt
  cases mode with
  | lowFirst => exact hrange size
  | highFirst =>
    refine List.pairwise_reverse.mpr ((hrange size).imp fun {a b} hab => ?_)
    show size - 1 - b ≤ size - 1 - a
    omega
  | rotary =>
    refine List.pairwise_map.mpr ((hrange size).imp_of_mem fun {a b} ha hb hab => ?_)
    rw [huntRank_rotary (hr rfl) (List.mem_range.mp ha), huntRank_rotary (hr rfl) (List.mem_range.mp hb)]
    exact hab
  | spread =>
    refine List.Pairwise.filter _ (List.pairwise_map.mpr ((hrange _).imp_of_mem fun {a b} ha hb hab => ?_))
    show reverseBits _ _ ≤ reverseBits _ _
    rw [reverseBits_reverseBits _ _ (List.mem_range.mp ha), reverseBits_reverseBits _ _ (List.mem_range.mp hb)]
    exact hab

/-- The first element of a list that passes a test stands before every other that passes it. -/
theorem rel_of_find?_eq_some {α : Type} {R : α → α → Prop} {l : List α} {f : α → Bool} {a b : α}
    (hrefl : ∀ x, R x x) (hl : l.Pairwise R) (ha : l.find? f = some a) (hb : b ∈ l) (hf : f b = true) : R a b := by
  obtain ⟨-, as, bs, rfl, hnot⟩ := List.find?_eq_some_iff_append.mp ha
  rw [List.pairwise_append, List.pairwise_cons] at hl
  rcases List.mem_append.mp hb with hb | hb
  · have := hnot b hb
    rw [hf] at this; cases this
  · rcases List.mem_cons.mp hb with rfl | hb
    · exact hrefl _
    · exact hl.2.1.1 b hb

/-- A position whose member is available (R32). -/
def State.availableAt (s : State) (grp : Group) (q : Nat) : Bool := (grp.members[q]?).any s.available

theorem State.availableAt_iff {grp : Group} {q : Nat} :
    s.availableAt grp q = true ↔ ∃ n, grp.members[q]? = some n ∧ s.available n = true := by
  unfold State.availableAt
  cases grp.members[q]? <;> simp

/-- A hunt that is not barred takes the first available position of its order (R32). -/
theorem State.find_huntOrder (s : State) (grp : Group) (order : List Nat) :
    ((order.filterMap fun p => grp.members[p]?.map fun n => (n, p)).find? fun e => s.available e.1) =
      (order.find? (s.availableAt grp)).bind fun p => grp.members[p]?.map fun n => (n, p) := by
  rw [List.find?_filterMap]
  congr 2
  funext q
  unfold State.availableAt
  cases grp.members[q]? <;> rfl

/-! ### The outcome of a hunt -/

theorem State.available_iff (s : State) (n : Nat) :
    s.available n = true ↔ (s.circuit n).group ≠ none ∧ (s.circuit n).usage = .idle ∧
      (s.circuit n).localBlock = false ∧ (s.circuit n).remoteBlock = false := by
  have hidle : (s.circuit n).usage.busy = false ↔ (s.circuit n).usage = .idle := by
    cases (s.circuit n).usage <;> simp [Usage.busy]
  simp only [State.available, Circuit.available, Bool.and_eq_true, Bool.not_eq_true', Option.isSome_iff_ne_none, hidle,
    and_assoc]

theorem State.availableCount_eq (s : State) (grp : Group) : s.availableCount grp = grp.members.countP s.available :=
  (List.countP_eq_length_filter ..).symm

theorem State.reservationFails_iff (s : State) (grp : Group) (cls : CallClass) (role : Role) :
    s.reservationFails grp cls role = true ↔ cls = .ordinary ∧ role = .alternate ∧
      s.availableCount grp ≤ s.reservationInForce grp := by
  simp only [State.reservationFails, Bool.and_eq_true, beq_iff_eq, Bool.not_eq_true', decide_eq_false_iff_not,
    Nat.not_lt, and_assoc]

theorem State.reservationInForce_eq (s : State) (grp : Group) :
    s.reservationInForce grp = if s.guard.state = .guarded then max grp.defn.reservation grp.defn.guardReservation
      else grp.defn.reservation := by
  unfold State.reservationInForce
  cases s.guard.state <;> rfl

/-- The bits of SPREAD are the only ones that fit (R35). -/
theorem spreadBits_eq {size k : Nat} (h : size ≤ 512) (hk : size ≤ 2 ^ k) (hleast : ∀ j, j < k → 2 ^ j < size) :
    spreadBits size = k := by
  have hle := le_two_pow_spreadBits h
  refine Nat.le_antisymm ?_ (Nat.le_of_not_lt fun hlt => absurd (hleast _ hlt) (Nat.not_lt.mpr hle))
  refine Nat.le_of_not_lt fun hlt => ?_
  unfold spreadBits at hlt hle
  cases hf : (List.range 10).find? fun k => decide (size ≤ 2 ^ k) with
  | none =>
    rw [hf] at hlt
    have hmem : k ∈ List.range 10 := List.mem_range.mpr (Nat.lt_trans hlt (by decide))
    exact absurd (decide_eq_true hk) (List.find?_eq_none.mp hf k hmem)
  | some b =>
    rw [hf] at hlt
    change k < b at hlt
    have hb : b < 10 := List.mem_range.mp (List.mem_of_find?_eq_some hf)
    have := rel_of_find?_eq_some (R := (· ≤ ·)) (fun _ => Nat.le_refl _) (List.pairwise_lt_range.imp Nat.le_of_lt) hf
      (List.mem_range.mpr (Nat.lt_trans hlt hb)) (decide_eq_true hk)
    omega

/-- A hunt that finds something available and is not barred seizes the available position of least rank
(R32 to R35). -/
theorem State.huntOutcome_seizes {grp : Group} {cls : CallClass} {role : Role} (hsize : grp.members.length ≤ 512)
    (ha : s.availableCount grp ≠ 0) (hr : s.reservationFails grp cls role = false) :
    ∃ n q, s.huntOutcome grp cls role = .seized n q ∧ grp.members[q]? = some n ∧ s.available n = true ∧
      ∀ q', s.availableAt grp q' = true → (grp.defn.huntMode = .rotary → grp.rotary < grp.members.length) →
        huntRank grp.defn.huntMode grp.members.length grp.rotary q ≤
          huntRank grp.defn.huntMode grp.members.length grp.rotary q' := by
  rcases s.huntOutcome_spec grp cls role with ⟨h0, -⟩ | ⟨-, hfails, -⟩ | ⟨-, -, hout⟩
  · exact absurd h0 ha
  · rw [hr] at hfails; cases hfails
  have hin : ∀ q', s.availableAt grp q' = true →
      q' ∈ huntOrder grp.defn.huntMode grp.members.length grp.rotary := fun q' hq' => by
    obtain ⟨n, hn, -⟩ := State.availableAt_iff.mp hq'
    exact (mem_huntOrder hsize).mpr (List.getElem?_eq_some_iff.mp hn).1
  rw [State.find_huntOrder] at hout
  cases hf : (huntOrder grp.defn.huntMode grp.members.length grp.rotary).find? (s.availableAt grp) with
  | none =>
    rw [s.availableCount_eq] at ha
    obtain ⟨n, hn, havail⟩ := List.countP_pos_iff.mp (Nat.pos_of_ne_zero ha)
    obtain ⟨q', hq'⟩ := List.mem_iff_getElem?.mp hn
    have hat := State.availableAt_iff.mpr ⟨n, hq', havail⟩
    exact absurd hat (List.find?_eq_none.mp hf q' (hin q' hat))
  | some q =>
    obtain ⟨n, hn, havail⟩ := State.availableAt_iff.mp (List.find?_some hf)
    rw [hf, Option.bind_some, hn] at hout
    refine ⟨n, q, hout, hn, havail, fun q' hq' hrot => ?_⟩
    exact rel_of_find?_eq_some (R := fun a b => huntRank _ _ _ a ≤ huntRank _ _ _ b) (fun _ => Nat.le_refl _)
      (huntOrder_ranked _ hrot) hf (hin q' hq') hq'

/-- Settles O18: a hunt takes the available position of least rank, and the rank of each mode is what its rule says. -/
theorem huntOutcomeByItsThreeSteps : Obligations.HuntOutcomeByItsThreeSteps := by
  unfold Obligations.HuntOutcomeByItsThreeSteps
  refine ⟨fun s n => s.available_iff n, fun s grp => s.availableCount_eq grp, fun s grp cls role hsize => ?_⟩
  intro reserve barred
  have hbarred : s.reservationFails grp cls role = true ↔ barred := by
    rw [s.reservationFails_iff, s.reservationInForce_eq]
  refine ⟨fun h0 => ?none, fun ha hb => ?reserved, fun ha hb => ?seized⟩
  case none =>
    unfold State.huntOutcome
    exact if_pos h0
  case reserved =>
    unfold State.huntOutcome
    rw [if_neg ha, if_pos (hbarred.mpr hb)]
  case seized =>
    obtain ⟨n, q, hout, hn, havail, hfirst⟩ :=
      State.huntOutcome_seizes hsize ha (Bool.eq_false_iff.mpr fun h => hb (hbarred.mp h))
    refine ⟨n, q, hout, hn, havail, fun q' n' hn' havail' => ?_⟩
    have hrank := hfirst q' (State.availableAt_iff.mpr ⟨n', hn', havail'⟩)
    have hlt := (List.getElem?_eq_some_iff.mp hn').1
    refine ⟨fun hmode => ?_, fun hmode => ?_, fun hmode hrot => ?_, fun hmode k hk hleast => ?_⟩
    · rw [hmode] at hrank
      exact hrank (by rintro ⟨⟩)
    · rw [hmode] at hrank
      have := hrank (by rintro ⟨⟩)
      simp only [huntRank] at this
      have hq := (List.getElem?_eq_some_iff.mp hn).1
      omega
    · rw [hmode] at hrank
      exact hrank fun _ => hrot
    · rw [hmode] at hrank
      rw [← spreadBits_eq hsize hk hleast]
      exact hrank (by rintro ⟨⟩)

end Sys2Proof.Machine
end

section
/-! PROOFS. Route selection: what the checks read, the rows of an evaluation pass, and the statement
SeizuresObeyTheChecks. -/

namespace Sys2Proof.Machine

open Sys2Proof

variable {s t u : State}

/-! ### What the checks read -/

/-- The two states show the same to the checks of route selection: definitions, levels, carriers, the guard, the tariffs,
the clock and the bands (R76 to R83, R148). -/
structure State.SameRouting (s t : State) : Prop where
  defn : ∀ g, (t.group g).defn = (s.group g).defn
  level : ∀ g, (t.group g).level = (s.group g).level
  carriers : t.carriers = s.carriers
  guard : t.guard = s.guard
  tariffs : t.tariffs = s.tariffs
  time : t.time = s.time
  bandMap : t.bandMap = s.bandMap

theorem State.SameRouting.refl (s : State) : s.SameRouting s :=
  ⟨fun _ => rfl, fun _ => rfl, rfl, rfl, rfl, rfl, rfl⟩

theorem State.SameRouting.trans (h : s.SameRouting t) (h' : t.SameRouting u) : s.SameRouting u :=
  ⟨fun g => (h'.defn g).trans (h.defn g), fun g => (h'.level g).trans (h.level g), h'.carriers.trans h.carriers,
    h'.guard.trans h.guard, h'.tariffs.trans h.tariffs, h'.time.trans h.time, h'.bandMap.trans h.bandMap⟩

/-- A group rewritten in what the checks do not read. -/
theorem State.sameRouting_modifyGroup (s : State) (g : Nat) {f : Group → Group}
    (hf : ∀ grp, (f grp).defn = grp.defn ∧ (f grp).level = grp.level) : s.SameRouting (s.modifyGroup g f) := by
  have hgroup : ∀ k, (s.modifyGroup g f).group k = s.group k ∨ (s.modifyGroup g f).group k = f (s.group k) := by
    intro k
    unfold State.group
    rw [State.find_modifyGroup]
    split
    · rename_i hk
      rw [hk]
      cases Table.find s.groups g with
      | none => exact .inl rfl
      | some grp => exact .inr rfl
    · exact .inl rfl
  refine ⟨fun k => ?_, fun k => ?_, rfl, rfl, rfl, rfl, rfl⟩
  · rcases hgroup k with h | h <;> rw [h]
    exact (hf _).1
  · rcases hgroup k with h | h <;> rw [h]
    exact (hf _).2

/-- A state with the same groups, and the same of what else the checks read. -/
theorem State.SameRouting.of_frame (hg : t.groups = s.groups) (hc : t.carriers = s.carriers) (hu : t.guard = s.guard)
    (ht : t.tariffs = s.tariffs) (hm : t.time = s.time) (hb : t.bandMap = s.bandMap) : s.SameRouting t :=
  ⟨fun g => by rw [State.group, hg]; rfl, fun g => by rw [State.group, hg]; rfl, hc, hu, ht, hm, hb⟩

theorem State.sameRouting_moveSticky (s : State) (i : PassInput) (c : Candidate) (seized : Bool) :
    s.SameRouting (s.moveSticky i c seized) := by
  obtain ⟨ps, h⟩ := s.moveSticky_frame i c seized
  rw [h]; exact .of_frame rfl rfl rfl rfl rfl rfl

theorem State.SameRouting.quote (h : s.SameRouting t) (g : Nat) : t.quote g = s.quote g := by
  have hversion : ∀ tf, t.activeVersion tf = s.activeVersion tf := fun tf => by
    unfold State.activeVersion; rw [h.tariffs]
  have hband : t.band = s.band := by unfold State.band State.slot; rw [h.bandMap, h.time]
  unfold State.quote Group.tariffIndex
  dsimp only
  rw [h.defn, h.level, hversion, hband]

theorem State.SameRouting.groupCheck (h : s.SameRouting t) (cls : CallClass) (ceiling : Option Nat) (g : Nat)
    (role : Role) : t.groupCheck cls ceiling g role = s.groupCheck cls ceiling g role := by
  have hcarrier : ∀ c, t.carrier c = s.carrier c := fun c => by unfold State.carrier; rw [h.carriers]
  unfold State.groupCheck
  dsimp only
  rw [h.defn, h.level, hcarrier, h.quote]

theorem State.SameRouting.depthFails (h : s.SameRouting t) (cls : CallClass) (tried : List Nat) :
    t.depthFails cls tried = s.depthFails cls tried := by unfold State.depthFails; rw [h.guard]

theorem State.SameRouting.check (h : s.SameRouting t) (i : PassInput) (tried : List Nat) (c : Candidate) :
    t.check i tried c = s.check i tried c := by
  unfold State.check; rw [h.groupCheck, h.depthFails]

theorem State.SameRouting.seizureOf (h : s.SameRouting t) (g : Nat) (role : Role) (n q : Nat) :
    t.seizureOf g role n q = s.seizureOf g role n q := by
  unfold State.seizureOf; rw [h.defn, h.quote]

/-- An overflow leaves what the checks read (R38, R54). -/
theorem State.sameRouting_overflow (s : State) (i : PassInput) (c : Candidate) (g : Nat) (seized : Bool) :
    s.SameRouting ((s.modifyGroup g Group.afterOverflow).moveSticky i c seized) :=
  (s.sameRouting_modifyGroup g (f := Group.afterOverflow) fun _ => ⟨rfl, rfl⟩).trans (State.sameRouting_moveSticky _ _ _ _)

/-! ### The checks -/

theorem State.groupCheck_ne_depth {cls : CallClass} {ceiling : Option Nat} {g : Nat} {role : Role} {v : Verdict}
    (h : s.groupCheck cls ceiling g role = some v) : v ≠ .depth ∧ v ≠ .tried ∧ v ≠ .backward := by
  unfold State.groupCheck at h
  dsimp only at h
  split_ifs at h
  · cases h; exact ⟨by rintro ⟨⟩, by rintro ⟨⟩, by rintro ⟨⟩⟩
  · cases h; exact ⟨by rintro ⟨⟩, by rintro ⟨⟩, by rintro ⟨⟩⟩
  · cases h; exact ⟨by rintro ⟨⟩, by rintro ⟨⟩, by rintro ⟨⟩⟩
  · split at h
    · split_ifs at h
      cases h; exact ⟨by rintro ⟨⟩, by rintro ⟨⟩, by rintro ⟨⟩⟩
    · cases h

theorem State.depthFails_iff (s : State) (cls : CallClass) (tried : List Nat) :
    s.depthFails cls tried = true ↔ s.guard.state = .guarded ∧ cls = .ordinary ∧ s.guard.depth ≤ tried.length := by
  simp only [State.depthFails, Bool.and_eq_true, beq_iff_eq, decide_eq_true_eq, and_assoc]

/-- The checks in their order, on a candidate that is not TRIED and not BACKWARD (R76). -/
theorem State.check_of_judged {i : PassInput} {tried : List Nat} {c : Candidate} (ht : c.group ∉ tried)
    (hb : i.incoming ≠ some c.group) : s.check i tried c = match s.groupCheck i.cls i.ceiling c.group c.role with
      | some v => some v
      | none => if s.depthFails i.cls tried then some .depth else none :=
  (if_neg (by simpa using ht)).trans (if_neg hb)

theorem State.check_tried {i : PassInput} {tried : List Nat} {c : Candidate} (ht : c.group ∈ tried) :
    s.check i tried c = some .tried := if_pos (by simpa using ht)

theorem State.check_backward {i : PassInput} {tried : List Nat} {c : Candidate} (ht : c.group ∉ tried)
    (hb : i.incoming = some c.group) : s.check i tried c = some .backward := by
  unfold State.check
  rw [if_neg (by simpa using ht), if_pos hb]

theorem State.check_failed {i : PassInput} {tried : List Nat} {c : Candidate} {v : Verdict} (ht : c.group ∉ tried)
    (hb : i.incoming ≠ some c.group) (hg : s.groupCheck i.cls i.ceiling c.group c.role = some v) :
    s.check i tried c = some v := by rw [State.check_of_judged ht hb, hg]

theorem State.check_passed {i : PassInput} {tried : List Nat} {c : Candidate} (ht : c.group ∉ tried)
    (hb : i.incoming ≠ some c.group) (hg : s.groupCheck i.cls i.ceiling c.group c.role = none)
    (hd : s.depthFails i.cls tried = false) : s.check i tried c = none := by
  rw [State.check_of_judged ht hb, hg, hd]; rfl

/-- A candidate that passes its checks (R76 to R83). -/
theorem State.check_none {i : PassInput} {tried : List Nat} {c : Candidate} (h : s.check i tried c = none) :
    c.group ∉ tried ∧ i.incoming ≠ some c.group ∧ s.groupCheck i.cls i.ceiling c.group c.role = none ∧
      s.depthFails i.cls tried = false := by
  have ht : c.group ∉ tried := fun ht => by rw [State.check_tried ht] at h; cases h
  have hb : i.incoming ≠ some c.group := fun hb => by rw [State.check_backward ht hb] at h; cases h
  rw [State.check_of_judged ht hb] at h
  cases hg : s.groupCheck i.cls i.ceiling c.group c.role with
  | some v => rw [hg] at h; cases h
  | none =>
    rw [hg] at h
    dsimp only at h
    split_ifs at h with hd
    exact ⟨ht, hb, rfl, Bool.eq_false_iff.mpr hd⟩

theorem addTried_of_not_mem {tried : List Nat} {g : Nat} (h : g ∉ tried) : addTried tried g = tried ++ [g] :=
  if_neg (by simpa using h)

/-! ### The rows of an evaluation pass -/

/-- A candidate that fails a check other than DEPTH is passed by (R76). -/
theorem passFrom_failed {i : PassInput} {c : Candidate} {v : Verdict} {tried : List Nat}
    (h : s.check i tried c = some v) (hv : v ≠ .depth) (rest : List Candidate) (trace : List (Nat × Verdict)) :
    passFrom i (c :: rest) s tried trace = passFrom i rest s tried (trace ++ [(c.group, v)]) := by
  rw [passFrom, h]
  exact if_neg hv

/-- Candidates that fail their checks are passed by, each with its verdict (R76). -/
theorem passFrom_all_failed {i : PassInput} {verdict : Candidate → Verdict} {tried : List Nat} (failed : List Candidate)
    (h : ∀ x ∈ failed, s.check i tried x = some (verdict x) ∧ verdict x ≠ .depth) (rest : List Candidate)
    (trace : List (Nat × Verdict)) :
    passFrom i (failed ++ rest) s tried trace =
      passFrom i rest s tried (trace ++ failed.map fun x => (x.group, verdict x)) := by
  induction failed generalizing trace with
  | nil => rw [List.nil_append, List.map_nil, List.append_nil]
  | cons x failed ih =>
    obtain ⟨hx, hv⟩ := h x (List.mem_cons_self ..)
    rw [List.cons_append, passFrom_failed hx hv, ih fun y hy => h y (List.mem_cons_of_mem _ hy), List.append_assoc]
    rfl

/-- A candidate that passes its checks and is seized ends the pass (R85). -/
theorem passFrom_seized {i : PassInput} {c : Candidate} {tried : List Nat} {n q : Nat}
    (h : s.check i tried c = none) (ho : s.huntOutcome (s.group c.group) i.cls c.role = .seized n q)
    (rest : List Candidate) (trace : List (Nat × Verdict)) :
    passFrom i (c :: rest) s tried trace =
      { state := State.moveSticky ((s.modifyGroup c.group fun grp => grp.afterSeizure q).setUsage n
          (.outgoing (s.huntHandle i))) i c true
        seizure := some (s.seizureOf c.group c.role n q)
        tried := tried ++ [c.group]
        trace := trace ++ [(c.group, .seized)] } := by
  have hunt : s.hunt c.group i.cls c.role (s.huntHandle i) = (.seized n q,
      (s.modifyGroup c.group fun grp => grp.afterSeizure q).setUsage n (.outgoing (s.huntHandle i))) := by
    unfold State.hunt; rw [ho]
  rw [passFrom, h]
  dsimp only
  rw [hunt, addTried_of_not_mem (State.check_none h).1]

/-- A candidate that passes its checks and overflows: the pass goes on, or ends with 8 groups tried (R84). -/
theorem passFrom_overflow {i : PassInput} {c : Candidate} {tried : List Nat} {v : Verdict}
    (h : s.check i tried c = none) (ho : s.huntOutcome (s.group c.group) i.cls c.role = .overflow v)
    (rest : List Candidate) (trace : List (Nat × Verdict)) :
    passFrom i (c :: rest) s tried trace =
      if 8 ≤ (tried ++ [c.group]).length then
        { state := (s.modifyGroup c.group Group.afterOverflow).moveSticky i c false, seizure := none,
          tried := tried ++ [c.group], trace := trace ++ [(c.group, v)] }
      else passFrom i rest ((s.modifyGroup c.group Group.afterOverflow).moveSticky i c false) (tried ++ [c.group])
        (trace ++ [(c.group, v)]) := by
  have hunt : s.hunt c.group i.cls c.role (s.huntHandle i) = (.overflow v, s.modifyGroup c.group Group.afterOverflow) := by
    unfold State.hunt; rw [ho]
  rw [passFrom, h]
  dsimp only
  rw [hunt, addTried_of_not_mem (State.check_none h).1]

/-! ### Seizures obey the checks -/

/-- What a pass that seizes says of its seizure: the candidate it was made from passed every check at its turn (R76). -/
def PassResult.Obeys (r : PassResult) (s : State) (i : PassInput) (tried : List Nat) : Prop :=
  ∀ z, r.seizure = some z → ∃ before role n q, z = s.seizureOf z.group role n q ∧ r.tried = before ++ [z.group] ∧
    tried <+: before ∧ before.length < 8 ∧ z.group ∉ before ∧ i.incoming ≠ some z.group ∧
    s.groupCheck i.cls i.ceiling z.group role = none ∧ s.depthFails i.cls before = false

theorem passFrom_obeys (i : PassInput) (cs : List Candidate) :
    ∀ (s : State) (tried : List Nat) (trace : List (Nat × Verdict)), tried.length < 8 →
      (passFrom i cs s tried trace).Obeys s i tried := by
  induction cs with
  | nil => rintro s tried trace - z ⟨⟩
  | cons c cs ih =>
    intro s tried trace hlt
    cases hcheck : s.check i tried c with
    | some v =>
      by_cases hv : v = .depth
      · rw [passFrom, hcheck]
        dsimp only
        rw [if_pos hv]
        rintro z ⟨⟩
      · rw [passFrom_failed hcheck hv]
        exact ih s tried _ hlt
    | none =>
      obtain ⟨ht, hb, hg, hd⟩ := State.check_none hcheck
      cases ho : s.huntOutcome (s.group c.group) i.cls c.role with
      | seized n q =>
        rw [passFrom_seized hcheck ho]
        rintro z ⟨⟩
        exact ⟨tried, c.role, n, q, rfl, rfl, List.prefix_rfl, hlt, ht, hb, hg, hd⟩
      | overflow v =>
        rw [passFrom_overflow hcheck ho]
        split
        · rintro z ⟨⟩
        · rename_i hmore
          intro z hz
          have hsame := s.sameRouting_overflow i c c.group false
          obtain ⟨before, role, n, q, hz', htried, hpre, hlen, hnot, hin, hg', hd'⟩ :=
            ih _ (tried ++ [c.group]) _ (Nat.lt_of_not_le hmore) z hz
          exact ⟨before, role, n, q, hz'.trans (hsame.seizureOf _ _ _ _), htried,
            (List.prefix_append ..).trans hpre, hlen, hnot, hin, (hsame.groupCheck _ _ _ _).symm.trans hg',
            (hsame.depthFails _ _).symm.trans hd'⟩

theorem State.pass_obeys (s : State) (i : PassInput) (tried : List Nat) : (s.pass i tried).Obeys s i tried := by
  unfold State.pass
  split
  · rintro z ⟨⟩
  · exact passFrom_obeys i _ s tried [] (Nat.lt_of_not_le ‹_›)

/-- The quote of a foreign group under a defined tariff (R148). -/
theorem State.quote_foreign {g tf : Nat} {e : Tariff} (hc : (s.group g).defn.carrier ≠ 0)
    (ht : (s.group g).defn.tariff = some tf) (he : Table.find s.tariffs tf = some e) :
    s.quote g = e.active.rate s.band * e.active.factor (s.group g).level / 64 := by
  have hversion : s.activeVersion tf = e.active := by unfold State.activeVersion; rw [he]
  unfold State.quote Group.tariffIndex
  dsimp only
  rw [if_neg hc, ht, Option.getD_some, hversion]

theorem Version.rate_eq (v : Version) (band : Nat) : v.rate band = if band = 0 then v.rate0
    else if band = 1 then v.rate1 else if band = 2 then v.rate2 else v.rate3 := by
  unfold Version.rate
  split
  · rfl
  · rfl
  · rfl
  · rename_i h0 h1 h2
    rw [if_neg h0, if_neg h1, if_neg h2]

theorem Version.factor_eq (v : Version) (l : Level) : v.factor l = if l = .clear then v.factorClear
    else if l = .busy then v.factorBusy else v.factorCongested := by
  cases l <;> rfl

/-- The checks on a group, one by one (R78 to R82). -/
theorem State.groupCheck_eq (s : State) (cls : CallClass) (ceiling : Option Nat) (g : Nat) (role : Role) :
    s.groupCheck cls ceiling g role =
      if (s.group g).defn.kind = .inward ∨ (s.group g).defn.admin = .outOfService then some .outOfService
      else if (s.carrier (s.group g).defn.carrier).admin = .suspended ∨
        (cls = .ordinary ∧ (s.carrier (s.group g).defn.carrier).capReached = true) then some .carrier
      else if cls = .ordinary ∧ role = .alternate ∧ (s.group g).level = .congested then some .congested
      else if (ceiling.any fun limit => decide (limit < s.quote g)) = true then some .price else none := by
  unfold State.groupCheck
  dsimp only
  cases ceiling with
  | none => rfl
  | some limit => simp only [Option.any_some, decide_eq_true_eq]

/-- Settles O25: the checks are one chain of conditions, and a pass seizes what has come through the whole of it. -/
theorem seizuresObeyTheChecks : Obligations.SeizuresObeyTheChecks := by
  unfold Obligations.SeizuresObeyTheChecks
  refine ⟨fun s i tried c => ?checks, fun s i tried z hz => ?seizure⟩
  case checks =>
    intro grp carrier was back out barred congested dear deep judged
    have hdear : ((i.ceiling.any fun limit => decide (limit < s.quote c.group)) = true) ↔ dear := by
      cases hc : i.ceiling <;> simp [dear, hc]
    have hjudged : judged = if out then some .outOfService else if barred then some .carrier
        else if congested then some .congested else if dear then some .price else none := by
      refine (s.groupCheck_eq _ _ _ _).trans ?_
      simp only [hdear]
      rfl
    have hdeep : s.depthFails i.cls tried = true ↔ deep := s.depthFails_iff i.cls tried
    have hcheck : s.check i tried c = if was then some .tried else if back then some .backward else
        match judged with
        | some v => some v
        | none => if deep then some .depth else none := by
      by_cases hw : was
      · rw [if_pos hw, State.check_tried hw]
      · by_cases hb : back
        · rw [if_neg hw, if_pos hb, State.check_backward hw hb]
        · rw [if_neg hw, if_neg hb, State.check_of_judged hw hb]
          simp only [hdeep]
          rfl
    have hrange : judged ≠ some .depth ∧ judged ≠ some .tried ∧ judged ≠ some .backward :=
      ⟨fun h => (State.groupCheck_ne_depth h).1 rfl, fun h => (State.groupCheck_ne_depth h).2.1 rfl,
        fun h => (State.groupCheck_ne_depth h).2.2 rfl⟩
    refine ⟨?_, ?_, ?_, ?_, ?_, hdeep, ?_, ?_, ?_, ?_, ?_⟩
    · rw [hjudged]; split_ifs <;> simp [*]
    · rw [hjudged]; split_ifs <;> simp [*]
    · rw [hjudged]; split_ifs <;> simp [*]
    · rw [hjudged]; split_ifs <;> simp [*]
    · rw [hjudged]; split_ifs <;> simp [*]
    all_goals
      rw [hcheck]
      clear hcheck hjudged hdear
      generalize judged = j at hrange
      cases j <;> split_ifs <;> simp_all
  case seizure =>
    intro grp carrier
    obtain ⟨before, role, n, q, hz', htried, hpre, hlen, hnot, hin, hg, hd⟩ := s.pass_obeys i tried z hz
    obtain ⟨hkind, hadmin, hsusp, hcap, hcong, hprice⟩ := State.groupCheck_none s hg
    have hrole : z.role = role := congrArg Seizure.role hz'
    have hquote : z.quote = s.quote z.group := congrArg Seizure.quote hz'
    have hcarrier : z.carrier = grp.defn.carrier := congrArg Seizure.carrier hz'
    refine ⟨hkind, hadmin, hsusp, hcap, fun hc hr => hcong hc (hrole ▸ hr), hquote,
      fun limit hl => hquote ▸ hprice limit hl, fun h => hnot (hpre.subset h), hin, hcarrier,
      ⟨before, htried, hpre, hnot, hlen, fun hguard hc => ?_⟩, fun hhome => ?_, fun tf e hforeign ht he => ?_⟩
    · by_contra hle
      rw [(s.depthFails_iff i.cls before).mpr ⟨hguard, hc, Nat.le_of_not_lt hle⟩] at hd
      cases hd
    · rw [hquote]
      exact if_pos hhome
    · rw [hquote, State.quote_foreign hforeign ht he, Version.rate_eq, Version.factor_eq]
      rfl

end Sys2Proof.Machine
end

section
/-! PROOFS. CALL SETUP: the states that a seizure and an overflow leave, written out, and the statement
SetupSeizesOrIsUnroutable. -/

namespace Sys2Proof.Machine

open Sys2Proof

variable {s t : State} {type : Byte} {tag : Tag} {p : List Byte}

/-! ### Seizures and overflows written out -/

/-- The circuits after one member becomes OUTGOING (R36). -/
def State.circuitsSeized (s : State) (n h : Nat) : List (Nat × Circuit) :=
  (s.setCircuit n { s.circuit n with usage := .outgoing h }).circuits

theorem State.circuit_circuitsSeized (s : State) (n h m : Nat) :
    State.circuit { s with circuits := s.circuitsSeized n h } m =
      if m = n then { s.circuit n with usage := .outgoing h } else s.circuit m :=
  s.circuit_setCircuit n m _

/-- A group after one of its idle members is seized (R34, R36). -/
def Group.seizedAt (grp : Group) (q : Nat) : Group := { grp.afterSeizure q with busyCount := grp.busyCount + 1 }

/-- The seizure of an available member of a group (R36). -/
theorem State.seized_eq {g n q h : Nat} (hg : (s.circuit n).group = some g) (hu : (s.circuit n).usage = .idle) :
    (s.modifyGroup g fun grp => grp.afterSeizure q).setUsage n (.outgoing h) =
      { s with circuits := s.circuitsSeized n h, groups := Table.modify s.groups g fun grp => grp.seizedAt q } := by
  have hg' : ((s.modifyGroup g fun grp => grp.afterSeizure q).circuit n).group = some g := hg
  have hwritten : (s.modifyGroup g fun grp => grp.afterSeizure q).setUsage n (.outgoing h) =
      { s with
        circuits := s.circuitsSeized n h
        groups := Table.modify (Table.modify s.groups g fun grp => grp.afterSeizure q) g fun grp =>
          { grp with busyCount := busyAfter grp.busyCount (s.circuit n).usage (.outgoing h) } } :=
    State.setUsage_of_some _ hg' _
  rw [hwritten, Table.modify_modify, hu]
  rfl

/-- The plans after the sticky alternate has moved (R54, R55). -/
def stickyMoved (plans : Table Plan) (i : PassInput) (f : Plan → Plan) : Table Plan :=
  if i.movesSticky && i.cls == .ordinary then Table.modify plans i.plan f else plans

theorem stickyMoved_of_moves {plans : Table Plan} {i : PassInput} (h : i.movesSticky = true) (f : Plan → Plan) :
    stickyMoved plans i f = if i.cls = .ordinary then Table.modify plans i.plan f else plans := by
  unfold stickyMoved
  rw [h, Bool.true_and]
  by_cases hc : i.cls = .ordinary
  · rw [if_pos hc, if_pos (beq_iff_eq.mpr hc)]
  · rw [if_neg hc, if_neg (mt beq_iff_eq.mp hc)]

theorem stickyMoved_stickyMoved (plans : Table Plan) (i : PassInput) (f g : Plan → Plan) :
    stickyMoved (stickyMoved plans i f) i g = stickyMoved plans i fun p => g (f p) := by
  unfold stickyMoved
  split
  · exact Table.modify_modify ..
  · rfl

theorem State.moveSticky_seized (s : State) (i : PassInput) (c : Candidate) :
    s.moveSticky i c true = { s with plans := stickyMoved s.plans i fun p => p.setSticky c.number } := by
  unfold State.moveSticky stickyMoved
  split <;> rfl

theorem State.moveSticky_overflowed (s : State) (i : PassInput) (c : Candidate) :
    s.moveSticky i c false = { s with plans := stickyMoved s.plans i fun p => p.advanceSticky c.number } := by
  unfold State.moveSticky stickyMoved
  split <;> rfl

/-- The state after a pass has seized an available member of the group of a candidate (R55, R85). -/
def State.afterSeizing (s : State) (i : PassInput) (c : Candidate) (n q h : Nat) : State :=
  { s with circuits := s.circuitsSeized n h
           groups := Table.modify s.groups c.group fun grp => grp.seizedAt q
           plans := stickyMoved s.plans i fun p => p.setSticky c.number }

/-- The state after the hunt of a candidate's group has overflowed (R38, R54). -/
def State.afterOverflowing (s : State) (i : PassInput) (c : Candidate) : State :=
  { s with groups := Table.modify s.groups c.group Group.afterOverflow
           plans := stickyMoved s.plans i fun p => p.advanceSticky c.number }

theorem State.afterOverflowing_eq (s : State) (i : PassInput) (c : Candidate) :
    (s.modifyGroup c.group Group.afterOverflow).moveSticky i c false = s.afterOverflowing i c :=
  State.moveSticky_overflowed _ _ _

theorem State.afterSeizing_eq {i : PassInput} {c : Candidate} {n q h : Nat} (hg : (s.circuit n).group = some c.group)
    (ha : s.available n = true) :
    State.moveSticky ((s.modifyGroup c.group fun grp => grp.afterSeizure q).setUsage n (.outgoing h)) i c true =
      s.afterSeizing i c n q h := by
  rw [State.seized_eq hg (State.usage_of_available ha)]
  exact State.moveSticky_seized _ _ _

/-- A hunt is decided by its group, the circuits and the guard (R32). -/
theorem State.huntOutcome_congr (hc : t.circuits = s.circuits) (hg : t.guard = s.guard) (grp : Group) (cls : CallClass)
    (role : Role) : t.huntOutcome grp cls role = s.huntOutcome grp cls role := by
  have havail : ∀ n, t.available n = s.available n := fun n => by
    unfold State.available; rw [State.circuit_congr hc]
  have hcount : t.availableCount grp = s.availableCount grp := by
    unfold State.availableCount; simp only [havail]
  unfold State.huntOutcome State.reservationFails State.reservationInForce
  simp only [havail, hcount, hg]

/-- Another group is hunted as if a group had not overflowed. -/
theorem State.huntOutcome_afterOverflowing {i : PassInput} {c : Candidate} {g : Nat} (hg : g ≠ c.group) (cls : CallClass)
    (role : Role) :
    (s.afterOverflowing i c).huntOutcome ((s.afterOverflowing i c).group g) cls role = s.huntOutcome (s.group g) cls role := by
  have hgroup : (s.afterOverflowing i c).group g = s.group g := by
    unfold State.group
    show (Table.find (Table.modify s.groups c.group _) g).getD _ = _
    rw [Table.find_modify_ne _ _ hg]
  rw [hgroup]
  exact State.huntOutcome_congr rfl rfl _ _ _

/-! ### The ceiling and the trace -/

theorem effectiveCeiling_none_iff (a b : Option Nat) : effectiveCeiling a b = none ↔ a = none ∧ b = none := by
  cases a <;> cases b <;> simp [effectiveCeiling]

theorem effectiveCeiling_some_iff (a b : Option Nat) (limit : Nat) : effectiveCeiling a b = some limit ↔
    (a = some limit ∨ b = some limit) ∧ (∀ x, a = some x → limit ≤ x) ∧ ∀ x, b = some x → limit ≤ x := by
  cases a with
  | none =>
    cases b with
    | none => simp [effectiveCeiling]
    | some y =>
      simp only [effectiveCeiling, Option.some.injEq, reduceCtorEq, false_or, false_implies, implies_true, true_and,
        forall_eq']
      exact ⟨fun h => ⟨h, h.ge⟩, fun h => h.1⟩
  | some x =>
    cases b with
    | none =>
      simp only [effectiveCeiling, Option.some.injEq, reduceCtorEq, or_false, false_implies, implies_true, and_true,
        forall_eq']
      exact ⟨fun h => ⟨h, h.ge⟩, fun h => h.1⟩
    | some y =>
      simp only [effectiveCeiling, Option.some.injEq, forall_eq']
      omega

/-- The reason of a failed pass is the verdict of its last candidate (R76). -/
theorem getLast_verdict (failed : List Candidate) (verdict : Candidate → Verdict) :
    (match (failed.map fun x => (x.group, verdict x)).getLast? with
      | some e => e.2
      | none => .tried) = (failed.getLast?.map verdict).getD .tried := by
  rw [List.getLast?_map]
  cases failed.getLast? <;> rfl

/-! ### CALL SETUP -/

/-- What the pass of a setup is made with (R75, R76). -/
def State.setupInput (s : State) (o : SetupOperands) (plan : Nat) : PassInput :=
  { plan := plan, cls := o.cls, incoming := o.incoming
    ceiling := effectiveCeiling o.ceiling (s.plan plan).ceiling, handle := none, movesSticky := true }

/-- A setup whose destination leads to a plan is the pass over it (R75). -/
theorem callSetup_routed {o : SetupOperands} {digits : List Nat} {plan : Nat}
    (hin : ∀ g, o.incoming = some g → (Table.find s.groups g).isSome = true)
    (hl : s.lookup o.destination = .routed digits plan) : callSetup o s = setupPass plan o s := by
  unfold callSetup
  rw [if_neg, hl]
  cases hi : o.incoming with
  | none => exact Bool.false_ne_true
  | some g => rw [Option.any_some, show s.groupDefined g = true from hin g hi]; decide

theorem setupPass_seized {o : SetupOperands} {plan : Nat} {z : Seizure}
    (h : (s.pass (s.setupInput o plan) []).seizure = some z) : setupPass plan o s =
      (.setupDone s.lowestFree s.serialCounter plan z (s.pass (s.setupInput o plan) []).trace,
        (s.pass (s.setupInput o plan) []).state.createCall s.lowestFree (s.setupInput o plan) z
          (s.pass (s.setupInput o plan) []).tried) := by
  show (match (s.pass (s.setupInput o plan) []).seizure with | some z => _ | none => _) = _
  rw [h]
  rfl

theorem setupPass_failed {o : SetupOperands} {plan : Nat} (h : (s.pass (s.setupInput o plan) []).seizure = none) :
    setupPass plan o s = (.setupNoRoute plan (s.pass (s.setupInput o plan) []).reason
      (s.pass (s.setupInput o plan) []).trace, (s.pass (s.setupInput o plan) []).state) := by
  show (match (s.pass (s.setupInput o plan) []).seizure with | some z => _ | none => _) = _
  rw [h]
  rfl

theorem State.depthFails_of_lt {cls : CallClass} {tried : List Nat}
    (h : s.guard.state = .normal ∨ cls = .priority ∨ tried.length < s.guard.depth) : s.depthFails cls tried = false := by
  refine Bool.eq_false_iff.mpr fun hd => ?_
  obtain ⟨hg, hc, hle⟩ := (s.depthFails_iff cls tried).mp hd
  rcases h with h | h | h
  · rw [h] at hg; cases hg
  · rw [h] at hc; cases hc
  · omega

/-- The state after a setup has seized a candidate at its turn and created its call (R63, R85). -/
def State.afterSetup (s : State) (i : PassInput) (c : Candidate) (n q h : Nat) (z : Seizure) (tried : List Nat) : State :=
  (s.afterSeizing i c n q h).createCall h i z tried

theorem State.replied_afterSetup (s : State) (m : List Message) (i : PassInput) (c : Candidate) (n q h : Nat)
    (z : Seizure) (tried : List Nat) :
    (s.afterSetup i c n q h z tried).replied m = (s.replied m).afterSetup i c n q h z tried := rfl

theorem State.sameRouting_afterOverflowing (s : State) (i : PassInput) (c : Candidate) :
    s.SameRouting (s.afterOverflowing i c) := by
  rw [← State.afterOverflowing_eq]
  exact s.sameRouting_overflow i c c.group false

/-- A setup whose first candidate is seized. -/
theorem setupPass_first {o : SetupOperands} {plan n q : Nat} {c : Candidate} {rest : List Candidate}
    (ho : (s.plan plan).candidateOrder = c :: rest) (hin : o.incoming ≠ some c.group)
    (hg : s.groupCheck o.cls (effectiveCeiling o.ceiling (s.plan plan).ceiling) c.group c.role = none)
    (hd : 1 ≤ s.guard.depth) (hunt : s.huntOutcome (s.group c.group) o.cls c.role = .seized n q)
    (hn : (s.circuit n).group = some c.group) :
    setupPass plan o s = (.setupDone s.lowestFree s.serialCounter plan (s.seizureOf c.group c.role n q)
        [(c.group, .seized)],
      s.afterSetup (s.setupInput o plan) c n q s.lowestFree (s.seizureOf c.group c.role n q) [c.group]) := by
  have hcheck : s.check (s.setupInput o plan) [] c = none :=
    State.check_passed List.not_mem_nil hin hg (State.depthFails_of_lt (.inr (.inr hd)))
  have hpass : s.pass (s.setupInput o plan) [] =
      { state := s.afterSeizing (s.setupInput o plan) c n q s.lowestFree
        seizure := some (s.seizureOf c.group c.role n q), tried := [c.group], trace := [(c.group, .seized)] } := by
    show passFrom _ (s.plan plan).candidateOrder s [] [] = _
    rw [ho, passFrom_seized hcheck hunt, State.afterSeizing_eq hn (s.huntOutcome_seized hunt).1]
    rfl
  rw [setupPass_seized (congrArg PassResult.seizure hpass), hpass]
  rfl

/-- A setup whose first candidate overflows and whose second is seized. -/
theorem setupPass_second {o : SetupOperands} {plan n q : Nat} {c d : Candidate} {rest : List Candidate} {v : Verdict}
    (ho : (s.plan plan).candidateOrder = c :: d :: rest) (hin : o.incoming ≠ some c.group)
    (hin' : o.incoming ≠ some d.group) (hne : c.group ≠ d.group)
    (hg : s.groupCheck o.cls (effectiveCeiling o.ceiling (s.plan plan).ceiling) c.group c.role = none)
    (hg' : s.groupCheck o.cls (effectiveCeiling o.ceiling (s.plan plan).ceiling) d.group d.role = none)
    (hd : s.guard.state = .normal ∨ o.cls = .priority ∨ 2 ≤ s.guard.depth)
    (hunt : s.huntOutcome (s.group c.group) o.cls c.role = .overflow v)
    (hunt' : s.huntOutcome (s.group d.group) o.cls d.role = .seized n q) (hn : (s.circuit n).group = some d.group) :
    setupPass plan o s = (.setupDone s.lowestFree s.serialCounter plan (s.seizureOf d.group d.role n q)
        [(c.group, v), (d.group, .seized)],
      (s.afterOverflowing (s.setupInput o plan) c).afterSetup (s.setupInput o plan) d n q s.lowestFree
        (s.seizureOf d.group d.role n q) [c.group, d.group]) := by
  have hsame := s.sameRouting_afterOverflowing (s.setupInput o plan) c
  have hcheck : s.check (s.setupInput o plan) [] c = none :=
    State.check_passed List.not_mem_nil hin hg
      (State.depthFails_of_lt (hd.imp_right (Or.imp_right fun h => Nat.lt_of_lt_of_le Nat.zero_lt_two h)))
  have hcheck' : (s.afterOverflowing (s.setupInput o plan) c).check (s.setupInput o plan) [c.group] d = none := by
    rw [hsame.check]
    exact State.check_passed (fun h => hne (List.mem_singleton.mp h).symm) hin' hg' (State.depthFails_of_lt hd)
  have hunt'' : (s.afterOverflowing (s.setupInput o plan) c).huntOutcome
      ((s.afterOverflowing (s.setupInput o plan) c).group d.group) o.cls d.role = .seized n q := by
    rw [State.huntOutcome_afterOverflowing hne.symm]; exact hunt'
  have hpass : s.pass (s.setupInput o plan) [] =
      { state := (s.afterOverflowing (s.setupInput o plan) c).afterSeizing (s.setupInput o plan) d n q s.lowestFree
        seizure := some (s.seizureOf d.group d.role n q), tried := [c.group, d.group]
        trace := [(c.group, v), (d.group, .seized)] } := by
    show passFrom _ (s.plan plan).candidateOrder s [] [] = _
    rw [ho, passFrom_overflow hcheck hunt, if_neg (by simp), State.afterOverflowing_eq, List.nil_append,
      passFrom_seized hcheck' hunt'', hsame.seizureOf,
      State.afterSeizing_eq (s := s.afterOverflowing (s.setupInput o plan) c) hn (s.huntOutcome_seized hunt').1]
    rfl
  rw [setupPass_seized (congrArg PassResult.seizure hpass), hpass]
  rfl

/-- Candidates that fail at setup, before any group is tried (R77 to R82). -/
theorem State.check_setup_failed {o : SetupOperands} {plan : Nat} {x : Candidate} {v : Verdict}
    (h : (o.incoming = some x.group ∧ v = .backward) ∨ (o.incoming ≠ some x.group ∧
      s.groupCheck o.cls (effectiveCeiling o.ceiling (s.plan plan).ceiling) x.group x.role = some v)) :
    s.check (s.setupInput o plan) [] x = some v ∧ v ≠ .depth := by
  rcases h with ⟨hin, rfl⟩ | ⟨hin, hg⟩
  · exact ⟨State.check_backward List.not_mem_nil hin, by rintro ⟨⟩⟩
  · exact ⟨State.check_failed List.not_mem_nil hin hg, (State.groupCheck_ne_depth hg).1⟩

theorem getLast?_append_singleton {α : Type} (l : List α) (a : α) : (l ++ [a]).getLast? = some a := by simp

/-- Settles O24: a pass goes through its candidates one by one, and each ending writes its own reply and effects. -/
theorem setupSeizesOrIsUnroutable : Obligations.SetupSeizesOrIsUnroutable := by
  unfold Obligations.SetupSeizesOrIsUnroutable
  refine ⟨fun a b => ⟨effectiveCeiling_none_iff a b, effectiveCeiling_some_iff a b⟩,
    fun s tag p o digits plan c rest n q hp h hdef hl ho hin => ?first,
    fun s tag p o digits plan c d rest n q v hp h hdef hl ho hin hin' hne => ?second,
    fun s tag p o digits plan failed verdict hp h hdef hl hfailed => ?failed,
    fun s tag p o hp h hdef => ?unroutable, fun s hfree => ?handle⟩
  case first =>
    intro ceiling hg hd hunt hn
    have hidle := State.usage_of_available (s.huntOutcome_seized hunt).1
    refine ⟨_, request_effect (op := fun t => t.afterSetup (s.setupInput o plan) c n q s.lowestFree
      (s.seizureOf c.group c.role n q) [c.group]) h hp (fun t m => t.replied_afterSetup m _ _ _ _ _ _ _)
      ((callSetup_routed (s := s.dropHeadRequest.withoutMessages) hdef hl).trans
        (setupPass_first (s := s.dropHeadRequest.withoutMessages) ho hin hg hd hunt hn)), ?_⟩
    refine ⟨Table.find_put_self _ _ _, fun k hk => Table.find_put_ne _ _ hk, rfl, ?_, fun m hm => ?_, rfl, rfl, ?_, rfl⟩
    · exact (s.circuit_circuitsSeized n s.lowestFree n).trans (if_pos rfl)
    · exact (s.circuit_circuitsSeized n s.lowestFree m).trans (if_neg hm)
    · exact stickyMoved_of_moves rfl _
  case second =>
    intro ceiling hg hg' hd hunt hunt' hn
    refine ⟨_, request_effect (op := fun t => (t.afterOverflowing (s.setupInput o plan) c).afterSetup
      (s.setupInput o plan) d n q s.lowestFree (s.seizureOf d.group d.role n q) [c.group, d.group]) h hp
      (fun t m => rfl) ((callSetup_routed (s := s.dropHeadRequest.withoutMessages) hdef hl).trans
        (setupPass_second (s := s.dropHeadRequest.withoutMessages) ho hin hin' hne hg hg' hd hunt hunt' hn)), ?_⟩
    have hgroups : ∀ k, Table.find (Table.modify (Table.modify s.groups c.group Group.afterOverflow) d.group
        fun grp => grp.seizedAt q) k = if k = d.group then (Table.find s.groups d.group).map fun grp => grp.seizedAt q
          else if k = c.group then (Table.find s.groups c.group).map Group.afterOverflow else Table.find s.groups k := by
      intro k
      rw [Table.find_modify, Table.find_modify, Table.find_modify, if_neg hne.symm]
    refine ⟨Table.find_put_self _ _ _, fun k hk => Table.find_put_ne _ _ hk, ?_, fun m hm => ?_, fun grp hgrp => ?_,
      fun grp hgrp => ?_, fun k hkc hkd => ?_, ?_, rfl, rfl⟩
    · exact (s.circuit_circuitsSeized n s.lowestFree n).trans (if_pos rfl)
    · exact (s.circuit_circuitsSeized n s.lowestFree m).trans (if_neg hm)
    · refine (hgroups _).trans ?_
      rw [if_neg hne, if_pos rfl, hgrp]
      rfl
    · refine (hgroups _).trans ?_
      rw [if_pos rfl, hgrp]
      rfl
    · exact (hgroups _).trans ((if_neg hkd).trans (if_neg hkc))
    · exact (stickyMoved_stickyMoved _ _ _ _).trans (stickyMoved_of_moves rfl _)
  case failed =>
    have hchecks : ∀ x ∈ failed, s.dropHeadRequest.withoutMessages.check
        (s.dropHeadRequest.withoutMessages.setupInput o plan) [] x = some (verdict x) ∧ verdict x ≠ .depth :=
      fun x hx => State.check_setup_failed (s := s.dropHeadRequest.withoutMessages) (hfailed x hx)
    intro trace
    refine ⟨fun ho => ?_, fun c v ho hin hg hd hunt => ?_⟩
    · have hpass : s.dropHeadRequest.withoutMessages.pass (s.dropHeadRequest.withoutMessages.setupInput o plan) [] =
          { state := s.dropHeadRequest.withoutMessages, seizure := none, tried := [], trace := trace } := by
        show passFrom _ (s.plan plan).candidateOrder _ [] [] = _
        rw [ho, ← List.append_nil failed, passFrom_all_failed failed hchecks]
        rfl
      refine request_reply h hp ((callSetup_routed (s := s.dropHeadRequest.withoutMessages) hdef hl).trans
        ((setupPass_failed (congrArg PassResult.seizure hpass)).trans ?_))
      rw [hpass, ← getLast_verdict]
      rfl
    · have hcheck : s.dropHeadRequest.withoutMessages.check (s.dropHeadRequest.withoutMessages.setupInput o plan) [] c =
          none := State.check_passed List.not_mem_nil hin hg (State.depthFails_of_lt (.inr (.inr hd)))
      have hpass : s.dropHeadRequest.withoutMessages.pass (s.dropHeadRequest.withoutMessages.setupInput o plan) [] =
          { state := s.dropHeadRequest.withoutMessages.afterOverflowing (s.setupInput o plan) c, seizure := none
            tried := [c.group], trace := trace ++ [(c.group, v)] } := by
        show passFrom _ (s.plan plan).candidateOrder _ [] [] = _
        rw [ho, passFrom_all_failed failed hchecks, passFrom_overflow hcheck hunt, if_neg (by simp),
          State.afterOverflowing_eq]
        rfl
      have heffect := request_effect (op := fun t => t.afterOverflowing (s.setupInput o plan) c)
        (body := .setupNoRoute plan v (trace ++ [(c.group, v)])) h hp (fun _ _ => rfl)
        ((callSetup_routed (s := s.dropHeadRequest.withoutMessages) hdef hl).trans
          ((setupPass_failed (congrArg PassResult.seizure hpass)).trans (by
            rw [hpass, PassResult.reason, getLast?_append_singleton])))
      refine heffect.trans (congrArg _ ?_)
      have hplans := stickyMoved_of_moves (plans := s.plans) (i := s.setupInput o plan) rfl
        (fun x => x.advanceSticky c.number)
      unfold State.afterOverflowing
      exact congrArg (fun ps => ({ s.answer 0x17 tag (.setupNoRoute plan v (trace ++ [(c.group, v)])) with
        groups := Table.modify s.groups c.group Group.afterOverflow, plans := ps } : State)) hplans
  case unroutable =>
    have hdefined : ¬ (o.incoming.any fun g => !s.dropHeadRequest.withoutMessages.groupDefined g) = true := by
      cases hi : o.incoming with
      | none => exact Bool.false_ne_true
      | some g =>
        rw [Option.any_some, show s.dropHeadRequest.withoutMessages.groupDefined g = true from hdef g hi]; decide
    refine ⟨fun hl => request_reply h hp ?_, fun d plan hl => request_reply h hp ?_⟩
    all_goals
      unfold callSetup
      rw [if_neg hdefined, show s.dropHeadRequest.withoutMessages.lookup o.destination = _ from hl]
  case handle =>
    obtain ⟨h, hlt, hnone⟩ := hfree
    obtain ⟨hfound, -, hbound, hleast⟩ := lowestFreeFrom_spec s.calls 8192 0 ⟨h, Nat.zero_le _, by omega, hnone⟩
    refine ⟨hfound, ?_, fun k hk => hleast k (Nat.zero_le _) hk⟩
    unfold State.lowestFree
    omega

end Sys2Proof.Machine
end

section
/-! PROOFS. CALL RETRY, and the answers and releases that are not rated: a change of usage written out, the crankback and
the reseizure as changes of tables, and the statements RetryReseizesOrCloses and UnratedCallsCostNothing. -/

namespace Sys2Proof.Machine

open Sys2Proof

variable {s t : State} {type : Byte} {tag : Tag} {p : List Byte}

/-! ### A change of usage, the crankback and the reseizure written out -/

/-- The circuits with one of them rewritten (R1). -/
def State.circuitsWith (s : State) (n : Nat) (c : Circuit) : List (Nat × Circuit) := (s.setCircuit n c).circuits

theorem State.circuit_circuitsWith (s : State) (n m : Nat) (c : Circuit) :
    State.circuit { s with circuits := s.circuitsWith n c } m = if m = n then c else s.circuit m :=
  s.circuit_setCircuit n m c

/-- The groups with the busy count of one circuit's group moved by its change of usage (R2). -/
def State.groupsWith (s : State) (n : Nat) (u : Usage) : Table Group :=
  match (s.circuit n).group with
  | none => s.groups
  | some g => Table.modify s.groups g fun grp => { grp with busyCount := busyAfter grp.busyCount (s.circuit n).usage u }

theorem State.setUsage_eq (s : State) (n : Nat) (u : Usage) :
    s.setUsage n u =
      { s with circuits := s.circuitsWith n { s.circuit n with usage := u }, groups := s.groupsWith n u } := by
  unfold State.groupsWith
  cases h : (s.circuit n).group with
  | none => rw [s.setUsage_of_none h]; rfl
  | some g => rw [s.setUsage_of_some h]; rfl

theorem State.circuitsWith_congr (h : t.circuits = s.circuits) (n : Nat) (c : Circuit) :
    t.circuitsWith n c = s.circuitsWith n c := by
  unfold State.circuitsWith State.setCircuit
  dsimp only
  rw [h]

theorem State.groupsWith_congr (h : t.circuits = s.circuits) (hg : t.groups = s.groups) (n : Nat) (u : Usage) :
    t.groupsWith n u = s.groupsWith n u := by
  unfold State.groupsWith
  rw [State.circuit_congr h, hg]

/-- An OUTGOING circuit of a group that falls idle (R2). -/
theorem State.groupsWith_idle {n g h : Nat} (hu : (s.circuit n).usage = .outgoing h)
    (hg : (s.circuit n).group = some g) :
    s.groupsWith n .idle = Table.modify s.groups g fun grp => { grp with busyCount := grp.busyCount - 1 } := by
  unfold State.groupsWith
  rw [hg, hu]
  rfl

theorem State.makeIdle_of_closed {n : Nat} (hw : (s.span (spanOf n)).watch = none) :
    s.makeIdle n = s.setUsage n .idle := by
  unfold State.makeIdle
  refine State.unwatch_of_closed _ ?_
  rw [State.span_congr (s.setUsage_spans n .idle)]
  exact hw

/-- The circuits after a crankback: the call's circuit is IDLE, and blocked for FAULT (R88). -/
def State.circuitsCranked (s : State) (n : Nat) (cause : RetryCause) : List (Nat × Circuit) :=
  let idled : State := { s with circuits := s.circuitsWith n { s.circuit n with usage := .idle } }
  match cause with
  | .fault => idled.circuitsWith n { idled.circuit n with localBlock := true }
  | .downstream => idled.circuits

theorem State.circuit_circuitsCranked (s : State) (n m : Nat) (cause : RetryCause) :
    State.circuit { s with circuits := s.circuitsCranked n cause } m =
      if m = n then { s.circuit n with
        usage := .idle, localBlock := (s.circuit n).localBlock || cause == .fault } else s.circuit m := by
  cases cause with
  | fault =>
    refine (State.circuit_circuitsWith { s with circuits := s.circuitsWith n { s.circuit n with usage := .idle } } n m
      _).trans ?_
    rw [s.circuit_circuitsWith, s.circuit_circuitsWith, if_pos rfl]
    split
    · rw [show (RetryCause.fault == RetryCause.fault) = true from rfl, Bool.or_true]
    · rfl
  | downstream =>
    refine (s.circuit_circuitsWith n m _).trans ?_
    rw [show (RetryCause.downstream == RetryCause.fault) = false from rfl, Bool.or_false]

/-- The groups after a crankback (R2, R88). -/
def State.groupsCranked (s : State) (c : Call) : Table Group :=
  Table.modify (s.groupsWith c.circuit .idle) c.group fun grp => { grp with current := grp.current.addCrankback }

/-- A crankback on a circuit that is in no open watch (R88). -/
theorem State.crankback_eq {c : Call} (hw : (s.span (spanOf c.circuit)).watch = none) (cause : RetryCause) :
    s.crankback c cause =
      { s with circuits := s.circuitsCranked c.circuit cause, groups := s.groupsCranked c } := by
  unfold State.crankback
  rw [State.makeIdle_of_closed hw, State.setUsage_eq]
  cases cause <;> rfl

/-- A reseizure writes the call, and moves the open-call counts between two carriers (R64). -/
theorem State.reseize_eq (s : State) (h : Nat) (c : Call) (z : Seizure) (tried : List Nat) :
    s.reseize h c z tried =
      { s with
        calls := Table.modify s.calls h fun c =>
          { c with group := z.group, circuit := z.circuit, role := z.role, carrier := z.carrier, quote := z.quote
                   tried := tried }
        carriers := if c.carrier = z.carrier then s.carriers else
          Table.modify (Table.modify s.carriers c.carrier fun k => { k with openCalls := k.openCalls - 1 }) z.carrier
            fun k => { k with openCalls := k.openCalls + 1 } } := by
  unfold State.reseize State.moveOpenCall
  dsimp only
  split <;> rfl

/-- The checks of route selection do not read usages and crankbacks. -/
theorem State.sameRouting_setUsage (s : State) (n : Nat) (u : Usage) : s.SameRouting (s.setUsage n u) := by
  cases h : (s.circuit n).group with
  | none => rw [s.setUsage_of_none h]; exact .of_frame rfl rfl rfl rfl rfl rfl
  | some g =>
    rw [s.setUsage_of_some h]
    have hwritten : s.SameRouting (s.setCircuit n { s.circuit n with usage := u }) := .of_frame rfl rfl rfl rfl rfl rfl
    exact hwritten.trans (State.sameRouting_modifyGroup _ _ fun _ => ⟨rfl, rfl⟩)

theorem State.sameRouting_crankback {c : Call} (hw : (s.span (spanOf c.circuit)).watch = none) (cause : RetryCause) :
    s.SameRouting (s.crankback c cause) := by
  unfold State.crankback
  rw [State.makeIdle_of_closed hw]
  dsimp only
  refine State.SameRouting.trans ?_ (State.sameRouting_modifyGroup _ _ fun _ => ⟨rfl, rfl⟩)
  have hidle := s.sameRouting_setUsage c.circuit .idle
  cases cause
  · exact hidle
  · exact hidle.trans (.of_frame rfl rfl rfl rfl rfl rfl)

/-! ### The calls that requests name -/

theorem State.namedCall_of_namesCall {h : Nat} {expected : Option Nat} {c : Call} (hn : s.namesCall h expected c) :
    s.namedCall h expected = .ok c := by
  obtain ⟨hc, he⟩ := hn
  unfold State.namedCall
  rw [hc]
  rcases he with rfl | rfl
  · rfl
  · exact if_neg (by rw [Option.any_some, bne_self_eq_false]; decide)

theorem Call.answered_eq_false {c : Call} (h : c.answeredAt = none) : c.answered = false := by
  unfold Call.answered; rw [h]; rfl

theorem State.allRoutesTried_iff (s : State) (c : Call) : s.allRoutesTried c = true ↔
    (∀ e ∈ (s.plan c.plan).entries, e.group ∈ c.tried) ∨ 8 ≤ c.tried.length := by
  unfold State.allRoutesTried
  rw [Bool.or_eq_true, List.all_eq_true, decide_eq_true_eq]
  simp only [List.contains_iff_mem]

theorem State.allRoutesTried_congr (h : t.plans = s.plans) (c : Call) : t.allRoutesTried c = s.allRoutesTried c := by
  unfold State.allRoutesTried State.plan
  rw [h]

/-- The state after a call between two circuits, not rated, has been closed (R67, R90). -/
def State.afterClosing (s : State) (h : Nat) (c : Call) : State :=
  { s with calls := Table.erase s.calls h
           carriers := Table.modify s.carriers c.carrier fun k => { k with openCalls := k.openCalls - 1 } }

theorem State.closeCall_between {h : Nat} {c : Call} (hc : c.answeredAt = none) (cause : CloseCause) :
    (s.closeCall h c cause false).1 = s.afterClosing h c := by
  rw [s.closeCall_unrated (.inl hc)]
  rfl

/-- A retry by its search: the crankback leaves the watch of the span closed (R88). -/
theorem callRetry_searched {h : Nat} {cause : RetryCause} {expected : Option Nat} {c : Call} {body : Body}
    (hn : s.namesCall h expected c) (hc : c.answeredAt = none)
    (hsearch : retrySearch h c (s.crankback c cause) = (body, t)) (hw : (t.span (spanOf c.circuit)).watch = none) :
    callRetry h cause expected s = (body, t) := by
  unfold callRetry
  rw [State.namedCall_of_namesCall hn]
  dsimp only
  rw [if_neg (by rw [Call.answered_eq_false hc]; decide), hsearch]
  exact congrArg (Prod.mk body) (State.completeWatch_of_closed _ hw _)

/-- The verdicts of a retry's checks, judged before the crankback (R76, R77). -/
theorem State.check_retry_failed {h : Nat} {c : Call} {x : Candidate} {v : Verdict} (hsame : s.SameRouting t)
    (hx : (x.group ∈ c.tried ∧ v = .tried) ∨ (x.group ∉ c.tried ∧ c.incomingGroup = some x.group ∧ v = .backward) ∨
      (x.group ∉ c.tried ∧ c.incomingGroup ≠ some x.group ∧ s.groupCheck c.cls c.ceiling x.group x.role = some v)) :
    t.check (c.passInput h true) c.tried x = some v ∧ v ≠ .depth := by
  rcases hx with ⟨ht, rfl⟩ | ⟨ht, hin, rfl⟩ | ⟨ht, hin, hg⟩
  · exact ⟨State.check_tried ht, by rintro ⟨⟩⟩
  · exact ⟨State.check_backward ht hin, by rintro ⟨⟩⟩
  · exact ⟨State.check_failed ht hin ((hsame.groupCheck _ _ _ _).trans hg), (State.groupCheck_ne_depth hg).1⟩

/-- A pass on a call that has fewer than 8 groups tried evaluates the candidates (R76). -/
theorem State.pass_of_lt {i : PassInput} {tried : List Nat} (h : tried.length < 8) :
    s.pass i tried = passFrom i (s.plan i.plan).candidateOrder s tried [] := if_neg (Nat.not_le.mpr h)

theorem retrySearch_allTried {h : Nat} {c : Call} (hc : c.answeredAt = none) (ht : s.allRoutesTried c = true) :
    retrySearch h c s = (.retryAllTried h c.serial c.circuit, s.afterClosing h c) := by
  unfold retrySearch
  rw [if_pos ht, State.closeCall_between hc]

theorem State.tried_lt_of_untried {c : Call} (ht : s.allRoutesTried c = false) : c.tried.length < 8 := by
  refine Nat.lt_of_not_le fun hle => ?_
  rw [(s.allRoutesTried_iff c).mpr (.inr hle)] at ht
  cases ht

/-- A search whose candidates all fail closes the call (R90). -/
theorem retrySearch_failed {h : Nat} {c : Call} {verdict : Candidate → Verdict} (hc : c.answeredAt = none)
    (ht : s.allRoutesTried c = false)
    (hfailed : ∀ x ∈ (s.plan c.plan).candidateOrder,
      s.check (c.passInput h true) c.tried x = some (verdict x) ∧ verdict x ≠ .depth) :
    retrySearch h c s = (.retryNoRoute h c.serial c.circuit
      (((s.plan c.plan).candidateOrder.getLast?.map verdict).getD .tried)
      ((s.plan c.plan).candidateOrder.map fun x => (x.group, verdict x)), s.afterClosing h c) := by
  have hpass : s.pass (c.passInput h true) c.tried =
      { state := s, seizure := none, tried := c.tried
        trace := (s.plan c.plan).candidateOrder.map fun x => (x.group, verdict x) } := by
    rw [State.pass_of_lt (State.tried_lt_of_untried ht)]
    have hall := passFrom_all_failed _ hfailed [] []
    rw [List.append_nil] at hall
    exact hall.trans rfl
  unfold retrySearch
  rw [if_neg (by rw [ht]; decide)]
  dsimp only
  rw [hpass]
  dsimp only
  rw [State.closeCall_between hc, ← getLast_verdict]
  rfl

/-- A search that passes the tried candidates by and seizes the next (R90). -/
theorem retrySearch_seized {h n q : Nat} {c : Call} {skipped rest : List Candidate} {x : Candidate}
    (ht : s.allRoutesTried c = false) (ho : (s.plan c.plan).candidateOrder = skipped ++ x :: rest)
    (hskipped : ∀ y ∈ skipped, y.group ∈ c.tried) (hx : s.check (c.passInput h true) c.tried x = none)
    (hunt : s.huntOutcome (s.group x.group) c.cls x.role = .seized n q) :
    retrySearch h c s = (.retryDone h c.serial c.circuit (s.seizureOf x.group x.role n q)
        (skipped.map (fun y => (y.group, Verdict.tried)) ++ [(x.group, .seized)]),
      State.reseize (State.moveSticky ((s.modifyGroup x.group fun grp => grp.afterSeizure q).setUsage n (.outgoing h))
        (c.passInput h true) x true) h c (s.seizureOf x.group x.role n q) (c.tried ++ [x.group])) := by
  have hpass : s.pass (c.passInput h true) c.tried =
      { state := State.moveSticky ((s.modifyGroup x.group fun grp => grp.afterSeizure q).setUsage n (.outgoing h))
          (c.passInput h true) x true
        seizure := some (s.seizureOf x.group x.role n q), tried := c.tried ++ [x.group]
        trace := skipped.map (fun y => (y.group, Verdict.tried)) ++ [(x.group, .seized)] } := by
    rw [State.pass_of_lt (State.tried_lt_of_untried ht)]
    show passFrom _ (s.plan c.plan).candidateOrder s c.tried [] = _
    rw [ho, passFrom_all_failed (verdict := fun _ => .tried) skipped
      fun y hy => ⟨State.check_tried (hskipped y hy), by rintro ⟨⟩⟩, passFrom_seized hx hunt]
    rfl
  unfold retrySearch
  rw [if_neg (by rw [ht]; decide)]
  dsimp only
  rw [hpass]

/-! ### The tables after a retry -/

/-- The state after a crankback, with the watch of the span closed (R88). -/
def State.cranked (s : State) (c : Call) (cause : RetryCause) : State :=
  { s with circuits := s.circuitsCranked c.circuit cause, groups := s.groupsCranked c }

/-- The circuits after a crankback and the seizure of another circuit (R36, R88). -/
def State.circuitsRetried (s : State) (c : Call) (cause : RetryCause) (n h : Nat) : List (Nat × Circuit) :=
  (s.cranked c cause).circuitsWith n { (s.cranked c cause).circuit n with usage := .outgoing h }

/-- The groups after a crankback and the seizure of a circuit (R2, R34, R88). -/
def State.groupsRetried (s : State) (c : Call) (cause : RetryCause) (x : Candidate) (n q h : Nat) : Table Group :=
  ((s.cranked c cause).modifyGroup x.group fun grp => grp.afterSeizure q).groupsWith n (.outgoing h)

theorem State.cranked_congr (hc : t.circuits = s.circuits) (hg : t.groups = s.groups) (c : Call) (cause : RetryCause) :
    (t.cranked c cause).circuits = (s.cranked c cause).circuits ∧ (t.cranked c cause).groups = (s.cranked c cause).groups := by
  unfold State.cranked State.circuitsCranked State.groupsCranked State.groupsWith State.circuitsWith State.setCircuit
    State.circuit
  dsimp only
  rw [hc, hg]
  exact ⟨rfl, rfl⟩

theorem State.circuitsRetried_congr (hc : t.circuits = s.circuits) (hg : t.groups = s.groups) (c : Call)
    (cause : RetryCause) (n h : Nat) : t.circuitsRetried c cause n h = s.circuitsRetried c cause n h := by
  obtain ⟨hcircuits, -⟩ := State.cranked_congr hc hg c cause
  unfold State.circuitsRetried
  rw [State.circuitsWith_congr hcircuits, State.circuit_congr hcircuits]

theorem State.groupsRetried_congr (hc : t.circuits = s.circuits) (hg : t.groups = s.groups) (c : Call)
    (cause : RetryCause) (x : Candidate) (n q h : Nat) :
    t.groupsRetried c cause x n q h = s.groupsRetried c cause x n q h := by
  obtain ⟨hcircuits, hgroups⟩ := State.cranked_congr hc hg c cause
  unfold State.groupsRetried
  refine State.groupsWith_congr ?_ ?_ n (.outgoing h)
  · exact hcircuits
  · exact congrArg (fun gs => Table.modify gs x.group fun grp => grp.afterSeizure q) hgroups

/-- The state after a retry has reseized the call (R64, R88, R90). -/
def State.afterRetry (s : State) (h : Nat) (c : Call) (cause : RetryCause) (x : Candidate) (n q : Nat) (z : Seizure) :
    State :=
  { s with
    circuits := s.circuitsRetried c cause n h
    groups := s.groupsRetried c cause x n q h
    plans := stickyMoved s.plans (c.passInput h true) fun y => y.setSticky x.number
    calls := Table.modify s.calls h fun y =>
      { y with group := z.group, circuit := z.circuit, role := z.role, carrier := z.carrier, quote := z.quote
               tried := c.tried ++ [x.group] }
    carriers := if c.carrier = z.carrier then s.carriers else
      Table.modify (Table.modify s.carriers c.carrier fun k => { k with openCalls := k.openCalls - 1 }) z.carrier
        fun k => { k with openCalls := k.openCalls + 1 } }

/-- The group of a call whose circuit was OUTGOING in it, after the crankback (R2, R88). -/
theorem State.find_groupsCranked {c : Call} {h k : Nat} (hu : (s.circuit c.circuit).usage = .outgoing h)
    (hg : (s.circuit c.circuit).group = some c.group) :
    Table.find (s.groupsCranked c) k = if k = c.group then (Table.find s.groups c.group).map fun grp =>
      { grp with busyCount := grp.busyCount - 1
                 current := { grp.current with crankbacks := min (grp.current.crankbacks + 1) max32 } }
      else Table.find s.groups k := by
  unfold State.groupsCranked
  rw [State.groupsWith_idle hu hg, Table.modify_modify, Table.find_modify]
  rfl

theorem State.circuit_cranked (s : State) (c : Call) (cause : RetryCause) (m : Nat) :
    (s.cranked c cause).circuit m = if m = c.circuit then { s.circuit c.circuit with
      usage := .idle, localBlock := (s.circuit c.circuit).localBlock || cause == .fault } else s.circuit m :=
  s.circuit_circuitsCranked c.circuit m cause

theorem State.call_afterRetry (s : State) (h : Nat) (c : Call) (cause : RetryCause) (x : Candidate) (n q : Nat)
    (z : Seizure) (k : Nat) : (s.afterRetry h c cause x n q z).call k =
      if k = h then (s.call h).map fun y =>
        { y with group := z.group, circuit := z.circuit, role := z.role, carrier := z.carrier, quote := z.quote
                 tried := c.tried ++ [x.group] } else s.call k := by
  unfold State.call State.afterRetry
  dsimp only
  rw [Table.find_modify]

theorem State.circuit_afterRetry (s : State) (h : Nat) (c : Call) (cause : RetryCause) (x : Candidate) (n q : Nat)
    (z : Seizure) (m : Nat) : (s.afterRetry h c cause x n q z).circuit m =
      if m = n then { (s.cranked c cause).circuit n with usage := .outgoing h } else (s.cranked c cause).circuit m :=
  State.circuit_circuitsWith (s.cranked c cause) n m _

/-- A retry that reseizes is the crankback, the seizure, the move of the sticky alternate and the reseizure. -/
theorem retrySearch_afterRetry {h n q : Nat} {cause : RetryCause} {c : Call} {skipped rest : List Candidate}
    {x : Candidate} (hw : (s.span (spanOf c.circuit)).watch = none)
    (ht : s.allRoutesTried c = false) (ho : (s.plan c.plan).candidateOrder = skipped ++ x :: rest)
    (hskipped : ∀ y ∈ skipped, y.group ∈ c.tried) (hx : x.group ∉ c.tried) (hin : c.incomingGroup ≠ some x.group)
    (hg : (s.crankback c cause).groupCheck c.cls c.ceiling x.group x.role = none)
    (hd : s.depthFails c.cls c.tried = false)
    (hunt : (s.crankback c cause).huntOutcome ((s.crankback c cause).group x.group) c.cls x.role = .seized n q) :
    retrySearch h c (s.crankback c cause) =
      (.retryDone h c.serial c.circuit ((s.crankback c cause).seizureOf x.group x.role n q)
        (skipped.map (fun y => (y.group, Verdict.tried)) ++ [(x.group, .seized)]),
        s.afterRetry h c cause x n q ((s.crankback c cause).seizureOf x.group x.role n q)) := by
  rw [State.crankback_eq hw] at hg hunt ⊢
  have hcheck : (s.cranked c cause).check (c.passInput h true) c.tried x = none := State.check_passed hx hin hg hd
  refine (retrySearch_seized (s := s.cranked c cause) ht ho hskipped hcheck hunt).trans (congrArg (Prod.mk _) ?_)
  rw [State.moveSticky_seized, State.setUsage_eq, State.reseize_eq]
  rfl

theorem State.replied_afterRetry (s : State) (m : List Message) (h : Nat) (c : Call) (cause : RetryCause) (x : Candidate)
    (n q : Nat) (z : Seizure) :
    (s.afterRetry h c cause x n q z).replied m = (s.replied m).afterRetry h c cause x n q z := by
  unfold State.afterRetry
  rw [State.circuitsRetried_congr (t := s.replied m) (s := s) rfl rfl,
    State.groupsRetried_congr (t := s.replied m) (s := s) rfl rfl]
  rfl

/-- The groups after a reseizure on another circuit (R2, R34, R88). -/
theorem State.find_afterRetry {h n q : Nat} {c : Call} {cause : RetryCause} {x : Candidate} {z : Seizure}
    (hgn : (s.circuit n).group = some x.group) (hne : n ≠ c.circuit) (hidle : ((s.cranked c cause).circuit n).usage = .idle)
    (k : Nat) : Table.find (s.afterRetry h c cause x n q z).groups k =
      if k = x.group then (Table.find (s.groupsCranked c) x.group).map fun grp => grp.seizedAt q
      else Table.find (s.groupsCranked c) k := by
  have hgroup : ((s.cranked c cause).circuit n).group = some x.group := by rw [s.circuit_cranked, if_neg hne]; exact hgn
  have hwritten : (s.afterRetry h c cause x n q z).groups =
      Table.modify (s.groupsCranked c) x.group fun grp => grp.seizedAt q := by
    have hseized := State.seized_eq (s := s.cranked c cause) (q := q) (h := h) hgroup hidle
    rw [State.setUsage_eq] at hseized
    have hkept := congrArg State.groups hseized
    exact hkept
  rw [hwritten, Table.find_modify]

/-- A retry that closes the call: the crankback and the close of a call between two circuits (R88 to R90). -/
theorem retry_closes {h g : Nat} {cause : RetryCause} {expected : Option Nat} {c : Call} {grp : Group} {body : Body}
    (htake : s.takesNow 0x18 tag p) (hp : parseRetry p = .ok (h, cause, expected)) (hn : s.namesCall h expected c)
    (hc : c.answeredAt = none) (hu : (s.circuit c.circuit).usage = .outgoing h)
    (hg : (s.circuit c.circuit).group = some g) (hcg : c.group = g) (hgrp : Table.find s.groups g = some grp)
    (hw : (s.span (c.circuit / 32)).watch = none)
    (hsearch : retrySearch h c (s.dropHeadRequest.withoutMessages.cranked c cause) =
      (body, (s.dropHeadRequest.withoutMessages.cranked c cause).afterClosing h c)) :
    runsTo (exec (.callRetry tag p) s) fun t =>
      t.circuit c.circuit = { s.circuit c.circuit with
        usage := .idle, localBlock := (s.circuit c.circuit).localBlock || cause == .fault } ∧
      (∀ m, m ≠ c.circuit → t.circuit m = s.circuit m) ∧
      Table.find t.groups g = some { grp with
        busyCount := grp.busyCount - 1
        current := { grp.current with crankbacks := min (grp.current.crankbacks + 1) max32 } } ∧
      (∀ k, k ≠ g → Table.find t.groups k = Table.find s.groups k) ∧
      t.carriers = Table.modify s.carriers c.carrier (fun k => { k with openCalls := k.openCalls - 1 }) ∧
      t.calls = Table.erase s.calls h ∧
      { t with circuits := s.circuits, groups := s.groups, carriers := s.carriers, calls := s.calls } =
        s.answer 0x18 tag body := by
  subst hcg
  have hcrank : s.dropHeadRequest.withoutMessages.crankback c cause =
      s.dropHeadRequest.withoutMessages.cranked c cause :=
    State.crankback_eq (s := s.dropHeadRequest.withoutMessages) hw cause
  refine ⟨_, request_effect (op := fun t => (t.cranked c cause).afterClosing h c) htake hp (fun _ _ => rfl)
    (callRetry_searched hn hc (by rw [hcrank]; exact hsearch) hw), ?_⟩
  refine ⟨(s.circuit_cranked c cause c.circuit).trans (if_pos rfl),
    fun m hm => (s.circuit_cranked c cause m).trans (if_neg hm), ?_, fun k hk => ?_, rfl, rfl, rfl⟩
  · refine (State.find_groupsCranked hu hg).trans ((if_pos rfl).trans ?_)
    rw [hgrp]; rfl
  · exact (State.find_groupsCranked hu hg).trans (if_neg hk)

/-- A retry that reseizes: the crankback, the seizure and the reseizure, carried out on the answer (R64, R90). -/
theorem retry_reseizes {h n q : Nat} {cause : RetryCause} {expected : Option Nat} {c : Call}
    {skipped rest : List Candidate} {x : Candidate}
    (htake : s.takesNow 0x18 tag p) (hp : parseRetry p = .ok (h, cause, expected)) (hn : s.namesCall h expected c)
    (hc : c.answeredAt = none) (ht : s.allRoutesTried c = false) (hw : (s.span (spanOf c.circuit)).watch = none)
    (ho : (s.plan c.plan).candidateOrder = skipped ++ x :: rest) (hskipped : ∀ y ∈ skipped, y.group ∈ c.tried)
    (hx : x.group ∉ c.tried) (hin : c.incomingGroup ≠ some x.group)
    (hcheck : (s.cranked c cause).groupCheck c.cls c.ceiling x.group x.role = none)
    (hd : s.depthFails c.cls c.tried = false)
    (hunt : (s.cranked c cause).huntOutcome ((s.cranked c cause).group x.group) c.cls x.role = .seized n q) :
    exec (.callRetry tag p) s =
      .next ((s.answer 0x18 tag (.retryDone h c.serial c.circuit ((s.cranked c cause).seizureOf x.group x.role n q)
        (skipped.map (fun y => (y.group, Verdict.tried)) ++ [(x.group, .seized)]))).afterRetry h c cause x n q
          ((s.cranked c cause).seizureOf x.group x.role n q)) := by
  have hcrank : s.dropHeadRequest.withoutMessages.crankback c cause =
      s.dropHeadRequest.withoutMessages.cranked c cause :=
    State.crankback_eq (s := s.dropHeadRequest.withoutMessages) hw cause
  obtain ⟨hcircuits, hgroups⟩ := State.cranked_congr (t := s.dropHeadRequest.withoutMessages) (s := s) rfl rfl c cause
  have hsame : (s.cranked c cause).SameRouting (s.dropHeadRequest.withoutMessages.crankback c cause) := by
    rw [hcrank]; exact .of_frame hgroups rfl rfl rfl rfl rfl
  have hunt' : (s.dropHeadRequest.withoutMessages.crankback c cause).huntOutcome
      ((s.dropHeadRequest.withoutMessages.crankback c cause).group x.group) c.cls x.role = .seized n q := by
    rw [hcrank]
    refine (State.huntOutcome_congr (s := s.cranked c cause) hcircuits rfl _ _ _).trans ?_
    rw [State.group, hgroups]
    exact hunt
  have ht' : s.dropHeadRequest.withoutMessages.allRoutesTried c = false := (State.allRoutesTried_congr rfl c).trans ht
  have hcheck' : (s.dropHeadRequest.withoutMessages.crankback c cause).groupCheck c.cls c.ceiling x.group x.role = none :=
    (hsame.groupCheck ..).trans hcheck
  have hsearch := retrySearch_afterRetry (s := s.dropHeadRequest.withoutMessages) (h := h) (cause := cause) (c := c)
    (x := x) (skipped := skipped) (rest := rest) hw ht' ho hskipped hx hin hcheck' hd hunt'
  rw [hsame.seizureOf] at hsearch
  exact request_effect (op := fun t => t.afterRetry h c cause x n q
    ((s.cranked c cause).seizureOf x.group x.role n q)) htake hp (fun t m => t.replied_afterRetry m ..)
    (callRetry_searched (s := s.dropHeadRequest.withoutMessages) hn hc hsearch hw)

/-- Settles O26: after the crankback the search ends in one of three ways. -/
theorem retryReseizesOrCloses : Obligations.RetryReseizesOrCloses := by
  unfold Obligations.RetryReseizesOrCloses
  refine ⟨State.allRoutesTried_iff,
    fun s tag p h g cause expected c grp hp htake hn hc hu hg hcg hgrp hw => ?closes,
    fun s tag p h cause expected c skipped rest x n q hp htake hn hc ht hw ho hskipped hx hin hcheck hd hunt => ?reseizes⟩
  case closes =>
    intro closes
    refine ⟨fun ht => retry_closes htake hp hn hc hu hg hcg hgrp hw (retrySearch_allTried hc ht),
      fun verdict ht hfailed => retry_closes htake hp hn hc hu hg hcg hgrp hw (retrySearch_failed hc ht ?_)⟩
    have hanswered : s.SameRouting s.dropHeadRequest.withoutMessages := .of_frame rfl rfl rfl rfl rfl rfl
    have hsame := hanswered.trans (State.sameRouting_crankback (s := s.dropHeadRequest.withoutMessages) hw cause)
    rw [State.crankback_eq (s := s.dropHeadRequest.withoutMessages) hw cause] at hsame
    exact fun x hx => State.check_retry_failed hsame (hfailed x hx)
  case reseizes =>
    have hcrank : s.crankback c cause = s.cranked c cause := State.crankback_eq hw cause
    rw [hcrank] at hcheck hunt ⊢
    have hcall : s.call h = some c := hn.1
    obtain ⟨havail, -⟩ := State.huntOutcome_seized (s := s.cranked c cause) hunt
    have hidle := State.usage_of_available havail
    refine ⟨_, retry_reseizes htake hp hn hc ht hw ho hskipped hx hin hcheck hd hunt, ?_⟩
    dsimp only
    refine ⟨?_, fun k hk => (s.call_afterRetry h c cause x n q _ k).trans (if_neg hk), ?_, rfl, rfl,
      stickyMoved_of_moves rfl _, rfl, fun old new hu hg htried hgn hold hnew => ?_⟩
    · refine (s.call_afterRetry h c cause x n q _ h).trans ((if_pos rfl).trans ?_)
      rw [hcall]
      rfl
    · exact congrArg Circuit.usage ((s.circuit_afterRetry h c cause x n q
        ((s.cranked c cause).seizureOf x.group x.role n q) n).trans (if_pos rfl))
    · have hgroups : x.group ≠ c.group := fun he => hx (he ▸ htried)
      have hne : n ≠ c.circuit := fun he => hgroups (Option.some.inj (hgn.symm.trans (he ▸ hg)))
      have hfind := State.find_afterRetry (q := q) (h := h) (z := (s.cranked c cause).seizureOf x.group x.role n q)
        hgn hne hidle
      have hcircuit := s.circuit_afterRetry h c cause x n q ((s.cranked c cause).seizureOf x.group x.role n q)
      refine ⟨(hcircuit _).trans ((if_neg hne.symm).trans ((s.circuit_cranked ..).trans (if_pos rfl))),
        (hcircuit n).trans ((if_pos rfl).trans ?_), fun m hm hm' => (hcircuit m).trans ((if_neg hm').trans
        ((s.circuit_cranked ..).trans (if_neg hm))), (hfind _).trans ?_, (hfind _).trans ?_, fun k hk hk' =>
        (hfind k).trans ((if_neg hk').trans ((State.find_groupsCranked hu hg).trans (if_neg hk))), rfl⟩
      · rw [s.circuit_cranked, if_neg hne]
      · rw [if_neg hgroups.symm, State.find_groupsCranked hu hg, if_pos rfl, hold]; rfl
      · rw [if_pos rfl, State.find_groupsCranked hu hg, if_neg hgroups, hnew]; rfl

/-! ### Answers and releases that are not rated -/

/-- The state after a call that holds an OUTGOING circuit has been closed without a charge (R67, R68). -/
def State.afterRelease (s : State) (h : Nat) (c : Call) : State :=
  State.afterClosing { s with
    circuits := s.circuitsWith c.circuit { s.circuit c.circuit with usage := .idle }
    groups := s.groupsWith c.circuit .idle } h c

theorem callAnswer_home {h : Nat} {expected : Option Nat} {c : Call} (hn : s.namesCall h expected c)
    (hc : c.answeredAt = none) (hhome : c.carrier = 0) : callAnswer h expected s =
      (.answered c.serial none, s.modifyCall h fun x => { x with answeredAt := some s.time.seconds }) := by
  unfold callAnswer
  rw [State.namedCall_of_namesCall hn]
  dsimp only
  rw [if_neg (by rw [Call.answered_eq_false hc]; decide), if_pos hhome]

theorem callAnswer_answered {h : Nat} {expected : Option Nat} {c : Call} (hn : s.namesCall h expected c)
    (hc : c.answered = true) : callAnswer h expected s = (.result .wrongState, s) := by
  unfold callAnswer
  rw [State.namedCall_of_namesCall hn]
  dsimp only
  rw [if_pos hc]
  rfl

theorem callRelease_unrated {h : Nat} {cause : CloseCause} {expected : Option Nat} {c : Call}
    (hn : s.namesCall h expected c) (hc : c.answeredAt = none ∨ c.rating = none)
    (hw : (s.span (spanOf c.circuit)).watch = none) :
    callRelease h cause expected s = (.released c.serial c.answered 0 none, s.afterRelease h c) := by
  have hclosed : s.closeCall h c cause true = (s.afterRelease h c, { records := 0, finalCharge := none }) := by
    rw [s.closeCall_unrated hc, if_pos rfl, State.makeIdle_of_closed hw, State.setUsage_eq]
    rfl
  unfold callRelease
  rw [State.namedCall_of_namesCall hn]
  dsimp only
  rw [hclosed]
  exact congrArg (Prod.mk _) (State.completeWatch_of_closed (s := s.afterRelease h c) hw _)

/-- Settles O27: without a rating context the closing actions touch the circuit, its group, the carrier and the call. -/
theorem unratedCallsCostNothing : Obligations.UnratedCallsCostNothing := by
  unfold Obligations.UnratedCallsCostNothing
  refine ⟨fun s tag p h expected c hp htake hn => ⟨fun hc hhome => ?home, fun hc => ?answered⟩,
    fun s tag p h g cause expected c hp htake hn hc hu hg hw => ?release⟩
  case home =>
    exact request_effect
      (op := fun t => { t with calls := Table.modify s.calls h fun x => { x with answeredAt := some s.time.seconds } })
      htake hp (fun _ _ => rfl) (callAnswer_home (s := s.dropHeadRequest.withoutMessages) hn hc hhome)
  case answered => exact request_reply htake hp (callAnswer_answered (s := s.dropHeadRequest.withoutMessages) hn hc)
  case release =>
    refine ⟨_, request_effect (op := fun t => t.afterRelease h c) htake hp (fun _ _ => rfl)
      (callRelease_unrated (s := s.dropHeadRequest.withoutMessages) hn hc hw), ?_⟩
    exact ⟨(s.circuit_circuitsWith ..).trans (if_pos rfl), fun m hm => (s.circuit_circuitsWith ..).trans (if_neg hm),
      State.groupsWith_idle hu hg, rfl, rfl, rfl⟩

end Sys2Proof.Machine
end

section
/-! PROOFS. Effects that raise notices: their messages come after the reply (R185), so such an effect carried out on the
answer gives the state of the request. One law for each operation. -/

namespace Sys2Proof.Machine

open Sys2Proof

variable (s : State) (m : List Message)

theorem State.replied_setFlag (f : Flag) : (s.setFlag f).replied m = (s.replied m).setFlag f := rfl

theorem State.replied_raise (k : Nat) (b : Body) : (s.raise k b).replied m = (s.replied m).raise k b := by
  simp [State.replied, State.sendFirst, State.oweVisitToRequests, State.raise, List.append_assoc]

theorem State.replied_raiseIf (on : Bool) (k : Nat) (b : Body) :
    (s.raiseIf on k b).replied m = (s.replied m).raiseIf on k b := by
  cases on
  · rfl
  · exact s.replied_raise m k b

/-! ### Circuits, spans and watches -/

theorem State.replied_setUsage (n : Nat) (u : Usage) : (s.setUsage n u).replied m = (s.replied m).setUsage n u := by
  rw [State.setUsage_eq, State.setUsage_eq]; rfl

theorem State.replied_unwatch (n : Nat) : (s.unwatch n).replied m = (s.replied m).unwatch n := by
  cases h : (s.span (spanOf n)).watch with
  | none => rw [s.unwatch_of_closed h, State.unwatch_of_closed (s.replied m) h]
  | some w => rw [s.unwatch_of_open h, State.unwatch_of_open (s.replied m) h]; rfl

theorem State.replied_makeIdle (n : Nat) : (s.makeIdle n).replied m = (s.replied m).makeIdle n := by
  unfold State.makeIdle
  rw [State.replied_unwatch, State.replied_setUsage]

theorem State.replied_setSpan (n : Nat) (r : Span) : (s.setSpan n r).replied m = (s.replied m).setSpan n r := rfl

theorem State.replied_completeWatch (sp : Nat) (cause : DrainCause) :
    (s.completeWatch sp cause).replied m = (s.replied m).completeWatch sp cause := by
  unfold State.completeWatch
  rw [show (s.replied m).span sp = s.span sp from rfl]
  cases (s.span sp).watch with
  | none => rfl
  | some w =>
    dsimp only
    split
    · rw [State.replied_setSpan, State.replied_raiseIf, State.replied_setFlag]; rfl
    · rfl

/-! ### Records, accounts and rating -/

theorem State.replied_reportQueue (c : QueueCondition) (cause : QueueCause) :
    (s.reportQueue c cause).replied m = (s.replied m).reportQueue c cause :=
  s.replied_report m _ _ _ _

theorem State.replied_evaluateThresholds (cause : QueueCause) :
    (s.evaluateThresholds cause).replied m = (s.replied m).evaluateThresholds cause := by
  unfold State.evaluateThresholds
  rw [show (s.replied m).records = s.records from rfl]
  dsimp only
  split <;> split
  · rw [State.replied_reportQueue, State.replied_reportQueue]; rfl
  · rw [State.replied_reportQueue]; rfl
  · rw [State.replied_reportQueue]; rfl
  · rfl

theorem State.replied_writeRecord (r : Record) : (s.writeRecord r).replied m = (s.replied m).writeRecord r := by
  unfold State.writeRecord
  rw [show (s.replied m).recordCount = s.recordCount from rfl]
  split
  · exact State.replied_evaluateThresholds _ m _
  · rfl

theorem State.replied_evaluateCap (c : Nat) (cause : CapCause) :
    (s.evaluateCap c cause).replied m = (s.replied m).evaluateCap c cause := by
  unfold State.evaluateCap
  rw [show (s.replied m).carriers = s.carriers from rfl]
  cases Table.find s.carriers c with
  | none => rfl
  | some k =>
    dsimp only
    split
    · exact State.replied_report _ m _ _ _ _
    · rfl

theorem State.replied_addToCarrier (c x : Nat) : (s.addToCarrier c x).replied m = (s.replied m).addToCarrier c x := by
  unfold State.addToCarrier
  split
  · rfl
  · exact State.replied_evaluateCap _ m _ _

theorem State.replied_chargeCall (h carrier : Nat) (r : Rating) (w : Nat) :
    (s.chargeCall h carrier r w).replied m = (s.replied m).chargeCall h carrier r w :=
  State.replied_addToCarrier _ m _ _

theorem State.replied_ratingStep (h carrier : Nat) (r : Rating) (rate t : Nat) :
    (s.ratingStep h carrier r rate t).replied m = (s.replied m).ratingStep h carrier r rate t :=
  State.replied_chargeCall _ m _ _ _ _

theorem State.replied_answerEvent (h : Nat) (c : Call) : (s.answerEvent h c).replied m = (s.replied m).answerEvent h c := by
  unfold State.answerEvent
  dsimp only
  rw [State.replied_ratingStep, State.replied_chargeCall]
  rfl

theorem State.replied_countCatchUp (byTouch : Bool) :
    (s.countCatchUp byTouch).replied m = (s.replied m).countCatchUp byTouch := by
  unfold State.countCatchUp State.replied State.oweVisitToRequests State.sendFirst
  dsimp only
  rw [Option.map_map, Option.map_map]
  cases byTouch <;> rfl

theorem State.replied_catchUp (h : Nat) (c : Call) (r : Rating) (byTouch : Bool) :
    (s.catchUp h c r byTouch).replied m = (s.replied m).catchUp h c r byTouch := by
  unfold State.catchUp
  dsimp only
  rw [State.replied_countCatchUp]
  refine congrArg (fun u => State.countCatchUp u byTouch) ?_
  have hwrote : (if r.owesPartial then s.writeRecord (c.record h r none) else s).replied m =
      if r.owesPartial then (s.replied m).writeRecord (c.record h r none) else s.replied m := by
    split
    · exact s.replied_writeRecord m _
    · rfl
  rw [← hwrote]
  rfl

theorem State.replied_freshen (h : Nat) (c : Call) (r : Rating) :
    (s.replied m).freshen h c r = ((s.freshen h c r).1.replied m, (s.freshen h c r).2) := by
  unfold State.freshen
  rw [show (s.replied m).stale r = s.stale r from rfl]
  split
  · exact congrArg (fun u => (u, _)) (s.replied_catchUp m h c r true).symm
  · rfl

theorem State.replied_releaseClose (h : Nat) (c : Call) (r : Rating) (cause : CloseCause) :
    (s.replied m).releaseClose h c r cause =
      ((s.releaseClose h c r cause).1.replied m, (s.releaseClose h c r cause).2) := by
  unfold State.releaseClose
  rw [State.replied_freshen]
  dsimp only
  rw [State.replied_writeRecord, State.replied_chargeCall]
  rfl

theorem State.replied_ratingClose (h : Nat) (c : Call) (cause : CloseCause) :
    (s.replied m).ratingClose h c cause = ((s.ratingClose h c cause).1.replied m, (s.ratingClose h c cause).2) := by
  unfold State.ratingClose
  split
  · dsimp only
    rw [State.replied_releaseClose]
    rfl
  · rfl

/-- The end of the closing actions: the open-call count falls and the context is FREE (R67). -/
def State.freeCall (s : State) (h : Nat) (c : Call) : State :=
  { s.closeCallOn c.carrier with calls := Table.erase s.calls h }

theorem State.closeCall_eq (h : Nat) (c : Call) (cause : CloseCause) (holds : Bool) :
    s.closeCall h c cause holds =
      ((if holds then (s.ratingClose h c cause).1.makeIdle c.circuit else (s.ratingClose h c cause).1).freeCall h c,
        (s.ratingClose h c cause).2) := rfl

theorem State.replied_freeCall (h : Nat) (c : Call) : (s.freeCall h c).replied m = (s.replied m).freeCall h c := rfl

theorem State.replied_closeCall (h : Nat) (c : Call) (cause : CloseCause) (holds : Bool) :
    (s.replied m).closeCall h c cause holds =
      ((s.closeCall h c cause holds).1.replied m, (s.closeCall h c cause holds).2) := by
  rw [State.closeCall_eq, State.closeCall_eq, State.replied_ratingClose, State.replied_freeCall]
  cases holds
  · rfl
  · rw [if_pos rfl, if_pos rfl, State.replied_makeIdle]

/-! ### Where the reply stands -/

/-- An effect that no more than tells leaves the reply behind the messages that waited, and its own notices behind the
reply (R185, R186). -/
theorem State.Tells.after_answer {s t : State} {code : Nat} {tag : Tag} {body : Body} (h : (s.answer code tag body).Tells t) :
    ∃ after, t.link.sendList = s.link.sendList ++ { code := code, tag := tag, body := body } :: after := by
  obtain ⟨after, hafter⟩ := h.sendList
  exact ⟨after, by rw [hafter]; exact List.append_assoc ..⟩

end Sys2Proof.Machine
end

section
/-! PROOFS. Settlement records and the closed snapshots: the statements of chapter 11, PERIOD REPORT, and what stands of
them for the accounts (R156, R166, R173 to R178). -/

namespace Sys2Proof.Machine

open Sys2Proof

variable {s t : State} {type : Byte} {tag : Tag} {p : List Byte}

/-- Settles O45. -/
theorem periodReportMarksRead : Obligations.PeriodReportMarksRead := by
  unfold Obligations.PeriodReportMarksRead
  intro s tag h
  exact request_effect (op := fun t => { t with carriers := Table.mapAll t.carriers Carrier.snapshotShown }) h rfl
    (fun _ _ => rfl) rfl

/-! ### Records into the queue -/

/-- The account that a record's period names (R156). -/
def Carrier.accountOf (k : Carrier) (current : Prop) [Decidable current] : Account :=
  if current then k.account else k.snapshot.account

/-- The carrier of a record after its account has been rewritten (R156). -/
theorem State.find_modifyAccountOf {r : Record} {k : Carrier} (h : Table.find s.carriers r.carrier = some k)
    (f : Account → Account) : ∃ k', Table.find (s.modifyAccountOf r f).carriers r.carrier = some k' ∧
      k'.accountOf (r.period = s.periods.number) = f (k.accountOf (r.period = s.periods.number)) := by
  refine ⟨if r.period = s.periods.number then { k with account := f k.account }
      else { k with snapshot := { k.snapshot with account := f k.snapshot.account } }, ?_, ?_⟩
  · unfold State.modifyAccountOf State.modifyCarrier
    rw [Table.find_modify_self, h]
    rfl
  · unfold Carrier.accountOf
    by_cases hc : r.period = s.periods.number
    · simp only [if_pos hc]
    · simp only [if_neg hc]

/-- Settles O46: a record is appended and counted, or dropped and tallied. -/
theorem recordsAppendedOrDropped : Obligations.RecordsAppendedOrDropped := by
  unfold Obligations.RecordsAppendedOrDropped
  intro s r k hk
  dsimp only
  rcases s.writeRecord_spec r with ⟨hlt, l, hw⟩ | ⟨hle, hw⟩
  · refine ⟨fun _ => ?_, fun h => absurd hlt (Nat.not_lt.mpr h)⟩
    obtain ⟨k', hk', hacc⟩ := State.find_modifyAccountOf hk fun a => a.addRecorded r.charge
    rw [hw]
    have hrecorded := congrArg Account.recorded hacc
    have hcount := congrArg Account.overflowCount hacc
    exact ⟨rfl, rfl, rfl, rfl, ⟨k', hk', hrecorded.trans (satAdd_eq_min ..), hcount⟩, rfl⟩
  · refine ⟨fun h => absurd h (Nat.not_lt.mpr hle), fun _ => ?_⟩
    obtain ⟨k', hk', hacc⟩ := State.find_modifyAccountOf hk fun a => a.addOverflow r.charge
    rw [hw]
    have hrecorded := congrArg Account.recorded hacc
    have hcount := congrArg Account.overflowCount hacc
    have hcharge := congrArg Account.overflowCharge hacc
    refine ⟨?_, ⟨k', hk', hrecorded, hcount.trans (satAdd_eq_min ..), hcharge.trans (satAdd_eq_min ..)⟩, rfl, rfl⟩
    rw [satAdd_eq_min]

/-! ### Thresholds -/

/-- The part `told` when it has reported one entry into a condition of the queue (R174). -/
def State.queueTold (s told : State) (entered : Prop) [Decidable entered] (flag : Flag) (condition : QueueCondition)
    (threshold : Nat) (cause : QueueCause) : State :=
  if entered then
    (told.setFlag flag).raiseIf (s.enabled .queue) codeQueue
      (.noticeQueue condition s.recordCount threshold cause s.records.mode)
  else told

/-- The part with another record queue. -/
def State.withRecords (s : State) (q : RecordQueue) : State := { s with records := q }

theorem State.raiseIf_withRecords (s : State) (q : RecordQueue) (on : Bool) (k : Nat) (b : Body) :
    (s.withRecords q).raiseIf on k b = (s.raiseIf on k b).withRecords q := by cases on <;> rfl

/-- A report of an entry, on a part that has written the record queue and has perhaps told another entry. -/
theorem State.reportQueue_withRecords {told : State} {q : RecordQueue} (hq : q.queue = s.records.queue)
    (hm : q.mode = s.records.mode) (he : told.enabled .queue = s.enabled .queue) (cause : QueueCause) :
    (told.withRecords q).reportQueue .almostEmpty cause =
        (s.queueTold told True .queueAlmostEmpty .almostEmpty q.ae cause).withRecords q ∧
      (told.withRecords q).reportQueue .almostFull cause =
        (s.queueTold told True .queueAlmostFull .almostFull q.af cause).withRecords q := by
  have hcount : (told.withRecords q).recordCount = s.recordCount := congrArg List.length hq
  unfold State.reportQueue State.queueTold
  rw [if_pos trivial, if_pos trivial, ← State.raiseIf_withRecords, ← State.raiseIf_withRecords, ← he, hcount, ← hm]
  exact ⟨rfl, rfl⟩

theorem State.queueTold_of {told : State} {entered : Prop} [Decidable entered] (h : entered) {flag : Flag}
    {condition : QueueCondition} {threshold : Nat} {cause : QueueCause} :
    s.queueTold told entered flag condition threshold cause = s.queueTold told True flag condition threshold cause :=
  (if_pos h).trans (if_pos trivial).symm

theorem State.enabled_queueTold {told : State} {flag : Flag} {condition : QueueCondition} {threshold : Nat}
    {cause : QueueCause} (h : told.enabled .queue = s.enabled .queue) :
    (s.queueTold told True flag condition threshold cause).enabled .queue = s.enabled .queue := by
  unfold State.queueTold
  rw [if_pos trivial, State.enabled_raiseIf]
  exact h

/-- An evaluation of both conditions: the flags held, and the entries told, almost-empty first (R174). -/
theorem State.evaluateThresholds_told (s : State) (cause : QueueCause) :
    s.evaluateThresholds cause = State.withRecords
      (s.queueTold (s.queueTold s (s.records.emptyHolds = true ∧ s.records.almostEmpty = false) .queueAlmostEmpty
        .almostEmpty s.records.ae cause) (s.records.fullHolds = true ∧ s.records.almostFull = false) .queueAlmostFull
        .almostFull s.records.af cause)
      { s.records with almostEmpty := s.records.emptyHolds, almostFull := s.records.fullHolds } := by
  have hreport : ∀ told : State, told.enabled .queue = s.enabled .queue → _ := fun told he =>
    State.reportQueue_withRecords (s := s) (told := told) (q := { s.records with
      almostEmpty := s.records.emptyHolds, almostFull := s.records.fullHolds }) rfl rfl he cause
  unfold State.evaluateThresholds
  simp only [Bool.and_eq_true, Bool.not_eq_true']
  by_cases he : s.records.emptyHolds = true ∧ s.records.almostEmpty = false
  · have hempty := (hreport s rfl).1
    rw [if_pos he, State.queueTold_of he]
    by_cases hf : s.records.fullHolds = true ∧ s.records.almostFull = false
    · rw [if_pos hf, State.queueTold_of hf]
      refine (congrArg (fun u : State => u.reportQueue .almostFull cause) hempty).trans ?_
      exact (hreport _ (State.enabled_queueTold rfl)).2
    · rw [if_neg hf]
      exact hempty.trans (congrArg (fun u => State.withRecords u _) (if_neg hf).symm)
  · rw [if_neg he, show s.queueTold s (s.records.emptyHolds = true ∧ s.records.almostEmpty = false) .queueAlmostEmpty
      .almostEmpty s.records.ae cause = s from if_neg he]
    by_cases hf : s.records.fullHolds = true ∧ s.records.almostFull = false
    · rw [if_pos hf, State.queueTold_of hf]
      exact (hreport s rfl).2
    · rw [if_neg hf]
      exact congrArg (fun u => State.withRecords u _) (if_neg hf).symm

theorem State.queueTold_withRecords (s told : State) (q : RecordQueue) (entered : Prop) [Decidable entered] (flag : Flag)
    (condition : QueueCondition) (threshold : Nat) (cause : QueueCause) :
    s.queueTold (told.withRecords q) entered flag condition threshold cause =
      (s.queueTold told entered flag condition threshold cause).withRecords q := by
  unfold State.queueTold
  split
  · exact State.raiseIf_withRecords (told.setFlag flag) q ..
  · rfl

/-- Settles O47: the written thresholds are evaluated on the answer. -/
theorem thresholdsEvaluatedAtOnce : Obligations.ThresholdsEvaluatedAtOnce := by
  unfold Obligations.ThresholdsEvaluatedAtOnce
  intro s tag ae af hae haf p h
  refine ⟨_, request_effect (op := fun t => (t.withRecords
    { s.records with ae := min ae 2047, af := min af 2047 }).evaluateThresholds .thresholdWritten)
    (body := .thresholds (min ae 2047) (min af 2047) (decide (min ae 2047 ≠ ae)) (decide (min af 2047 ≠ af))
      s.records.queue.length (decide (s.records.queue.length ≤ min ae 2047))
      (decide (2048 - min af 2047 ≤ s.records.queue.length))) h (parseTwo_be hae haf)
    (fun t m => State.replied_evaluateThresholds _ m _) ?_, ?_⟩
  · show queueThresholds ae af _ = _
    unfold queueThresholds
    dsimp only
    rw [bne_eq_decide_ne, bne_eq_decide_ne]
    rfl
  · dsimp only
    rw [State.evaluateThresholds_told, State.queueTold_withRecords, State.queueTold_withRecords]
    rfl

/-! ### Fetching and sending -/

theorem recordFetch_batch {n : Nat} (h : s.records.mode = .batch) :
    recordFetch n s =
      (.fetched ((s.records.queue.drop s.recordsHeld).take (min n 32))
        (s.records.queue.take s.recordsHeld ++ (s.records.queue.drop s.recordsHeld).drop (min n 32)).length,
        if (s.records.queue.drop s.recordsHeld).take (min n 32) = [] then s
        else State.evaluateThresholds { s with records := { s.records with
          queue := s.records.queue.take s.recordsHeld ++ (s.records.queue.drop s.recordsHeld).drop (min n 32) } }
          .count) := by
  unfold recordFetch
  rw [if_neg (by rw [h]; decide)]

theorem drop_eq_self_of_take_eq_nil {α : Type} {l : List α} {n : Nat} (h : l.take n = []) : l.drop n = l := by
  have hl := List.take_append_drop n l
  rw [h, List.nil_append] at hl
  exact hl

/-- Settles O48: an empty fetch leaves the queue, another is a removal and an evaluation. -/
theorem recordFetchTakesTheOldest : Obligations.RecordFetchTakesTheOldest := by
  unfold Obligations.RecordFetchTakesTheOldest
  intro s tag n hn h
  refine ⟨fun hmode => request_reply h (parseOne_be hn) (if_pos hmode), fun hmode => ?_⟩
  have hfetch := recordFetch_batch (s := s.dropHeadRequest.withoutMessages) (n := n) hmode
  by_cases htaken : (s.records.queue.drop s.recordsHeld).take (min n 32) = []
  · refine ⟨_, request_reply h (parseOne_be hn) (hfetch.trans (congrArg _ (if_pos htaken))), ?_⟩
    dsimp only
    have hleft : s.records.queue.take s.recordsHeld ++ (s.records.queue.drop s.recordsHeld).drop (min n 32) =
        s.records.queue := by rw [drop_eq_self_of_take_eq_nil htaken, List.take_append_drop]
    refine ⟨?_, ⟨[], rfl⟩, rfl⟩
    rw [show (if s.recordInTransmission = true then 1 else 0) = s.recordsHeld from rfl, if_pos htaken, if_pos htaken]
    exact (congrArg (fun q => { s.records with queue := q }) hleft).symm
  · refine ⟨_, request_effect (op := fun t => State.evaluateThresholds { t with records := { s.records with
      queue := s.records.queue.take s.recordsHeld ++ (s.records.queue.drop s.recordsHeld).drop (min n 32) } } .count)
      h (parseOne_be hn) (fun t m => State.replied_evaluateThresholds _ m _)
      (hfetch.trans (congrArg _ (if_neg htaken))), ?_⟩
    dsimp only
    refine ⟨?_, (State.tells_evaluateThresholds { s.answer _ _ _ with records := _ } .count).after_answer, ?_⟩
    · obtain ⟨l, he⟩ := State.evaluateThresholds_spec _ .count
      rw [he, show (if s.recordInTransmission = true then 1 else 0) = s.recordsHeld from rfl, if_neg htaken,
        if_neg htaken]
      rfl
    · obtain ⟨l, he⟩ := State.evaluateThresholds_spec _ .count
      rw [he]
      rfl

/-- Settles O49: the notice begins with the offered record, and its end is a removal and an evaluation. -/
theorem recordNoticesSendTheQueue : Obligations.RecordNoticesSendTheQueue := by
  unfold Obligations.RecordNoticesSendTheQueue
  intro s hrun
  refine ⟨fun r rest hidle hlist hmode hqueue => ?_, fun hrecord => ?_⟩
  · show execRecordNoticeBegin s = _
    unfold execRecordNoticeBegin State.recordCount
    rw [hidle, hlist, hmode, hqueue]
    exact if_neg (by rw [hrun]; decide)
  · refine ⟨_, if_neg (by rw [hrun, hrecord]; decide), ?_⟩
    dsimp only
    have htells := State.tells_evaluateThresholds { s with
      link := { s.link with transmitter := none }
      records := { s.records with queue := s.records.queue.tail } } .count
    obtain ⟨l, he⟩ := State.evaluateThresholds_spec { s with
      link := { s.link with transmitter := none }
      records := { s.records with queue := s.records.queue.tail } } .count
    refine ⟨?_, htells.transmitter, htells.requests, htells.sendList, ?_⟩
    · rw [he]; rfl
    · rw [he]

end Sys2Proof.Machine
end

section
/-! PROOFS. Circuits, spans and their drain watches: positions that leave a watch, its completion, and the statements of
the drain block, the unblock, the incoming seizure and release (R7, R9 to R11, R15 to R18). -/

namespace Sys2Proof.Machine

open Sys2Proof

variable {s t u : State} {type : Byte} {tag : Tag} {p : List Byte}

/-! ### Positions that leave a watch -/

/-- A span after positions have left its watch set, before the watch completes (R10). -/
def Span.leave (r : Span) (gone : List Nat) : Span :=
  { r with watch := r.watch.map fun w => { w with positions := w.positions.filter fun q => !gone.contains q } }

theorem Span.leave_of_closed {r : Span} (h : r.watch = none) (gone : List Nat) : r.leave gone = r := by
  obtain ⟨w, a⟩ := r
  cases h
  rfl

theorem Span.leave_of_open {r : Span} {w : DrainWatch} (h : r.watch = some w) (gone : List Nat) :
    r.leave gone = { r with watch := some { w with positions := w.positions.filter fun q => !gone.contains q } } := by
  unfold Span.leave
  rw [h]
  rfl

theorem Span.leave_nil (r : Span) : r.leave [] = r := by
  cases h : r.watch with
  | none => exact Span.leave_of_closed h _
  | some w =>
    rw [Span.leave_of_open h, List.filter_eq_self.mpr fun q _ => by rfl]
    obtain ⟨w', a⟩ := r
    cases h
    rfl

theorem Span.leave_leave (r : Span) (a b : List Nat) : (r.leave a).leave b = r.leave (a ++ b) := by
  cases h : r.watch with
  | none => rw [Span.leave_of_closed h, Span.leave_of_closed h, Span.leave_of_closed h]
  | some w =>
    rw [Span.leave_of_open h, Span.leave_of_open h, Span.leave_of_open rfl]
    simp only [List.filter_filter, List.contains_append, Bool.not_or]
    refine congrArg (fun f => ({ r with watch := some { w with positions := w.positions.filter f } } : Span)) ?_
    funext q
    exact Bool.and_comm ..

theorem State.span_unwatch_leave (s : State) (n m : Nat) :
    (s.unwatch n).span m = if m = spanOf n then (s.span m).leave [positionOf n] else s.span m := by
  rw [State.span_unwatch]
  refine if_congr Iff.rfl ?_ rfl
  unfold Span.leave
  have hone : ∀ q, (!([positionOf n].contains q)) = (q != positionOf n) := fun q => by
    rw [List.contains_cons, List.contains_nil, Bool.or_false]; rfl
  simp only [hone]

theorem State.makeIdle_span (s : State) (n m : Nat) :
    (s.makeIdle n).span m = if m = spanOf n then (s.span m).leave [positionOf n] else s.span m := by
  unfold State.makeIdle
  rw [State.span_unwatch_leave, State.span_congr (s.setUsage_spans n .idle)]

/-- The completion of a watch that still has positions (R11). -/
theorem State.completeWatch_kept {sp : Nat} {w : DrainWatch} (hw : (s.span sp).watch = some w) (h : w.positions ≠ [])
    (cause : DrainCause) : s.completeWatch sp cause = s := by
  unfold State.completeWatch
  rw [hw]
  exact if_neg h

/-- The completion of a watch that has no position left (R11). -/
theorem State.completeWatch_emptied {sp : Nat} {w : DrainWatch} (hw : (s.span sp).watch = some w) (h : w.positions = [])
    (cause : DrainCause) :
    s.completeWatch sp cause = State.setSpan ((s.setFlag .drain).raiseIf (s.enabled .drain) codeDrainDone
      (.noticeDrainDone sp w.originTag w.merged cause)) sp { s.span sp with watch := none } := by
  unfold State.completeWatch
  rw [hw]
  exact if_pos h

/-- The part with other circuits, groups and spans. -/
def State.withTables (s : State) (cs : List (Nat × Circuit)) (gs : Table Group) (ss : List (Nat × Span)) : State :=
  { s with circuits := cs, groups := gs, spans := ss }

theorem State.raiseIf_withTables (s : State) (cs : List (Nat × Circuit)) (gs : Table Group) (ss : List (Nat × Span))
    (on : Bool) (k : Nat) (b : Body) :
    (s.withTables cs gs ss).raiseIf on k b = (s.raiseIf on k b).withTables cs gs ss := by cases on <;> rfl

/-- A report leaves the circuits, the groups and the spans alone. -/
theorem State.told_withTables (s : State) (cs : List (Nat × Circuit)) (gs : Table Group) (ss : List (Nat × Span))
    (f : Flag) (on : Bool) (k : Nat) (b : Body) :
    ((((s.setFlag f).raiseIf on k b).withTables cs gs ss).withTables s.circuits s.groups s.spans) =
      (s.setFlag f).raiseIf on k b := by cases on <;> rfl

/-- The completion of the watch of a span whose positions have left, as the statements tell it (R10, R11). -/
theorem State.completeWatch_left {sp : Nat} {gone : List Nat} {cs : List (Nat × Circuit)} {gs : Table Group}
    {ss : List (Nat × Span)} (ht : State.span { s with spans := ss } sp = (s.span sp).leave gone) (cause : DrainCause) :
    (∃ ss', (s.withTables cs gs ss).completeWatch sp cause = (s.drainTold s sp gone cause).withTables cs gs ss' ∧
      (∀ m, m ≠ sp → State.span { s with spans := ss' } m = State.span { s with spans := ss } m) ∧
      State.span { s with spans := ss' } sp = { s.span sp with watch := s.watchAfter sp gone }) := by
  have ht' : (s.withTables cs gs ss).span sp = (s.span sp).leave gone := ht
  cases hw : (s.span sp).watch with
  | none =>
    rw [Span.leave_of_closed hw] at ht ht'
    refine ⟨ss, ?_, fun m _ => rfl, ht.trans ?_⟩
    · rw [State.completeWatch_of_closed _ (by rw [ht', hw]), State.drainTold, hw]
    · rw [State.watchAfter, hw, Option.bind_none, ← hw]
  | some w =>
    rw [Span.leave_of_open hw] at ht ht'
    have hopen := congrArg Span.watch ht'
    by_cases hleft : (w.positions.filter fun q => !gone.contains q) = []
    · refine ⟨(State.setSpan { s with spans := ss } sp { s.span sp with watch := none }).spans, ?_, fun m hm => ?_, ?_⟩
      · rw [State.completeWatch_emptied hopen hleft, ht', State.drainTold, hw]
        dsimp only
        rw [if_pos hleft]
        cases hen : s.enabled .drain <;>
        · rw [show (s.withTables cs gs ss).enabled .drain = _ from hen]
          rfl
      · exact (State.span_setSpan _ sp m _).trans (if_neg hm)
      · refine (State.span_setSpan _ sp sp _).trans ((if_pos rfl).trans ?_)
        rw [State.watchAfter, hw, Option.bind_some, if_pos hleft]
    · refine ⟨ss, ?_, fun m _ => rfl, ht.trans ?_⟩
      · rw [State.completeWatch_kept hopen hleft, State.drainTold, hw]
        dsimp only
        rw [if_neg hleft]
      · rw [State.watchAfter, hw, Option.bind_some, if_neg hleft]

/-! ### How a watch ends, by what is left of it -/

theorem State.drained_closed {sp : Nat} (hw : (s.span sp).watch = none) (told : State) (gone : List Nat)
    (cause : DrainCause) : s.drainTold told sp gone cause = told ∧
      { s.span sp with watch := s.watchAfter sp gone } = s.span sp := by
  constructor
  · rw [State.drainTold, hw]
  · rw [State.watchAfter, hw, Option.bind_none, ← hw]

theorem State.drained_kept {sp : Nat} {w : DrainWatch} (hw : (s.span sp).watch = some w) {gone : List Nat}
    (hleft : (w.positions.filter fun q => !gone.contains q) ≠ []) (told : State) (cause : DrainCause) :
    s.drainTold told sp gone cause = told ∧
      s.watchAfter sp gone = some { w with positions := w.positions.filter fun q => !gone.contains q } := by
  unfold State.drainTold State.watchAfter
  rw [hw]
  exact ⟨if_neg hleft, if_neg hleft⟩

theorem State.drained_emptied {sp : Nat} {w : DrainWatch} (hw : (s.span sp).watch = some w) {gone : List Nat}
    (hleft : (w.positions.filter fun q => !gone.contains q) = []) (told : State) (cause : DrainCause) :
    s.drainTold told sp gone cause = (told.setFlag .drain).raiseIf (s.enabled .drain) codeDrainDone
        (.noticeDrainDone sp w.originTag w.merged cause) ∧ s.watchAfter sp gone = none := by
  unfold State.drainTold State.watchAfter
  rw [hw]
  exact ⟨if_pos hleft, if_pos hleft⟩

theorem filter_not_singleton (l : List Nat) (k : Nat) :
    (l.filter fun q => !([k].contains q)) = l.filter fun q => q != k := by
  refine List.filter_congr fun q _ => ?_
  rw [List.contains_cons, List.contains_nil, Bool.or_false]
  rfl

/-! ### Incoming seizure and release -/

theorem State.makeIdle_withTables (s : State) (n : Nat) :
    s.makeIdle n = s.withTables (s.makeIdle n).circuits (s.makeIdle n).groups (s.makeIdle n).spans := by
  obtain ⟨-, -, -, cs, gs, sp, h⟩ := s.makeIdle_spec n
  rw [h]
  rfl

theorem State.groupsWith_busy {n g : Nat} {u v : Usage} (hg : (s.circuit n).group = some g)
    (hu : (s.circuit n).usage = u) :
    s.groupsWith n v = Table.modify s.groups g fun grp => { grp with busyCount := busyAfter grp.busyCount u v } := by
  unfold State.groupsWith
  rw [hg, hu]

theorem incomingRelease_other {n : Nat} (h : (s.circuit n).usage ≠ .incoming) :
    incomingRelease n s = (.result .wrongState, s) := by
  unfold incomingRelease
  split
  · exact absurd ‹_› h
  · rfl

/-- A circuit falls idle, and the watch of its span ends with its last position (R10, R11). -/
theorem State.makeIdle_completed (s : State) (n : Nat) (cause : DrainCause) :
    ∃ cs ss, (s.makeIdle n).completeWatch (spanOf n) cause =
        (s.drainTold s (spanOf n) [positionOf n] cause).withTables cs (s.groupsWith n .idle) ss ∧
      (∀ m, State.circuit { s with circuits := cs } m = if m = n then { s.circuit n with usage := .idle } else s.circuit m) ∧
      (∀ m, m ≠ spanOf n → State.span { s with spans := ss } m = s.span m) ∧
      State.span { s with spans := ss } (spanOf n) =
        { s.span (spanOf n) with watch := s.watchAfter (spanOf n) [positionOf n] } := by
  have hspan : ∀ m, State.span { s with spans := (s.makeIdle n).spans } m =
      if m = spanOf n then (s.span m).leave [positionOf n] else s.span m := s.makeIdle_span n
  obtain ⟨ss, hdone, hothers, hself⟩ := State.completeWatch_left (s := s) (cs := (s.makeIdle n).circuits)
    (gs := (s.makeIdle n).groups) ((hspan _).trans (if_pos rfl)) cause
  rw [← State.makeIdle_withTables] at hdone
  obtain ⟨hcircuit, -, hgroups, -⟩ := s.makeIdle_spec n
  rw [hgroups, State.setUsage_eq] at hdone
  exact ⟨_, ss, hdone, hcircuit, fun m hm => (hothers m hm).trans ((hspan m).trans (if_neg hm)), hself⟩

/-- Settles O14: the release of the circuit, and the end of its watch. -/
theorem incomingReleaseIdles : Obligations.IncomingReleaseIdles := by
  unfold Obligations.IncomingReleaseIdles
  intro s tag p n hp h
  refine ⟨fun hu => request_reply h hp (incomingRelease_other (s := s.dropHeadRequest.withoutMessages) hu),
    fun g hu hg => ?_⟩
  have hrun : incomingRelease n s.dropHeadRequest.withoutMessages =
      (.result .ok, (s.dropHeadRequest.withoutMessages.makeIdle n).completeWatch (n / 32) .idle) := by
    unfold incomingRelease
    rw [show (s.dropHeadRequest.withoutMessages.circuit n).usage = .incoming from hu]
    rfl
  refine ⟨_, request_effect (op := fun t => (t.makeIdle n).completeWatch (n / 32) .idle) h hp
    (fun t m => by rw [State.replied_completeWatch, State.replied_makeIdle]) hrun, ?_⟩
  dsimp only
  obtain ⟨cs, ss, hdone, hcircuit, hothers, hself⟩ :=
    (s.answer (BitVec.toNat (0x09 &&& 0x3F)) tag (.result .ok)).makeIdle_completed n .idle
  rw [show n / 32 = spanOf n from rfl, hdone]
  refine ⟨(hcircuit n).trans (if_pos rfl), fun m hm => (hcircuit m).trans (if_neg hm), State.groupsWith_busy hg hu,
    hothers, fun hw => ?closed, fun w hw => ?opened⟩
  case closed =>
    obtain ⟨htold, hspan⟩ := State.drained_closed (s := s.answer (BitVec.toNat (0x09 &&& 0x3F)) tag (.result .ok)) hw
      (s.answer (BitVec.toNat (0x09 &&& 0x3F)) tag (.result .ok)) [positionOf n] .idle
    rw [htold]
    exact ⟨hself.trans hspan, rfl⟩
  case opened =>
    rw [← filter_not_singleton]
    refine ⟨fun hleft => ?_, fun hleft => ?_⟩
    · obtain ⟨htold, hwatch⟩ := State.drained_kept (s := s.answer (BitVec.toNat (0x09 &&& 0x3F)) tag (.result .ok)) hw
        (gone := [positionOf n]) hleft (s.answer (BitVec.toNat (0x09 &&& 0x3F)) tag (.result .ok)) .idle
      rw [hwatch] at hself
      rw [htold]
      exact ⟨hself, rfl⟩
    · obtain ⟨htold, hwatch⟩ := State.drained_emptied (s := s.answer (BitVec.toNat (0x09 &&& 0x3F)) tag (.result .ok)) hw
        (gone := [positionOf n]) hleft (s.answer (BitVec.toNat (0x09 &&& 0x3F)) tag (.result .ok)) .idle
      rw [hwatch] at hself
      rw [htold]
      exact ⟨hself, State.told_withTables ..⟩

/-- The rows of R15 for a circuit that is not blocked, in a group that takes seizures (R15). -/
theorem State.seizeRow_judged {n g : Nat} (hg : (s.circuit n).group = some g) (hk : (s.group g).defn.kind ≠ .out)
    (hb : (s.circuit n).localBlock = false) : s.seizeRow n = match (s.circuit n).usage with
      | .incoming => .refused .duplicate
      | .idle => .accepted
      | .outgoing h => match s.call h with
        | none => .refused .circuitBusy
        | some call => if call.answered then .refused .circuitBusy else .glare g h call := by
  unfold State.seizeRow
  dsimp only
  rw [hg]
  exact (if_neg hk).trans (if_neg (by rw [hb]; decide))

theorem incomingSeize_refused {n : Nat} {r : Result} (h : s.seizeRow n = .refused r) :
    incomingSeize n s = (.result r, s) := by
  unfold incomingSeize
  rw [h]
  rfl

theorem incomingSeize_accepted {n : Nat} (h : s.seizeRow n = .accepted) :
    incomingSeize n s = (.result .ok, (s.setRemoteBlock n false).setUsage n .incoming) := by
  unfold incomingSeize
  rw [h]

/-- A circuit taken by the far end: INCOMING, and not blocked by it (R16, R41). -/
theorem State.takeIncoming_eq {n g : Nat} (hg : (s.circuit n).group = some g) :
    ∃ cs, (s.setRemoteBlock n false).setUsage n .incoming = { s with
        circuits := cs
        groups := Table.modify s.groups g fun grp =>
          { grp with busyCount := busyAfter grp.busyCount (s.circuit n).usage .incoming } } ∧
      ∀ m, State.circuit { s with circuits := cs } m =
        if m = n then { s.circuit n with usage := .incoming, remoteBlock := false } else s.circuit m := by
  have hcircuit : ∀ m, (s.setRemoteBlock n false).circuit m =
      if m = n then { s.circuit n with remoteBlock := false } else s.circuit m := fun m =>
    s.circuit_setCircuit n m { s.circuit n with remoteBlock := false }
  have hself := (hcircuit n).trans (if_pos rfl)
  refine ⟨_, ?_, fun m => (State.circuit_circuitsWith (s.setRemoteBlock n false) n m
    { (s.setRemoteBlock n false).circuit n with usage := .incoming }).trans ?_⟩
  · rw [State.setUsage_eq, State.groupsWith_busy (g := g) (by rw [hself]; exact hg) rfl, hself]
    rfl
  · by_cases hm : m = n
    · rw [if_pos hm, if_pos hm, hself]
    · rw [if_neg hm, if_neg hm, hcircuit, if_neg hm]

/-- Settles O12: the rows in their order. -/
theorem incomingSeizeJudged : Obligations.IncomingSeizeJudged := by
  unfold Obligations.IncomingSeizeJudged
  refine ⟨fun s tag p n g hp h hg hk hb hu => ?accepted, fun s tag p n hp h => ⟨fun hg => ?ungrouped, fun g hg =>
    ⟨fun hk => ?outgoing, fun hk => ⟨fun hb => ?blocked, fun hb hu => ?duplicate, fun k c hb hu hc ha => ?busy⟩⟩⟩⟩
  case accepted =>
    have hrow := State.seizeRow_judged (s := s.dropHeadRequest.withoutMessages) hg hk hb
    rw [show (s.dropHeadRequest.withoutMessages.circuit n).usage = .idle from hu] at hrow
    refine ⟨_, request_effect (op := fun t => (t.setRemoteBlock n false).setUsage n .incoming) h hp
      (fun t m => State.replied_setUsage _ m _ _) (incomingSeize_accepted hrow), ?_⟩
    obtain ⟨cs, hdone, hcircuit⟩ :=
      State.takeIncoming_eq (s := s.answer (BitVec.toNat (0x08 &&& 0x3F : Byte)) tag (.result .ok)) (n := n) hg
    rw [hdone]
    refine ⟨(hcircuit n).trans (if_pos rfl), fun m hm => (hcircuit m).trans (if_neg hm), ?_, rfl⟩
    show Table.modify s.groups g (fun grp =>
      { grp with busyCount := busyAfter grp.busyCount (s.circuit n).usage .incoming }) = _
    rw [hu]
    rfl
  case ungrouped =>
    refine request_reply h hp (incomingSeize_refused ?_)
    unfold State.seizeRow
    dsimp only
    rw [show (s.dropHeadRequest.withoutMessages.circuit n).group = none from hg]
  case outgoing =>
    refine request_reply h hp (incomingSeize_refused ?_)
    unfold State.seizeRow
    dsimp only
    rw [show (s.dropHeadRequest.withoutMessages.circuit n).group = some g from hg]
    exact if_pos hk
  case blocked =>
    refine request_reply h hp (incomingSeize_refused ?_)
    unfold State.seizeRow
    dsimp only
    rw [show (s.dropHeadRequest.withoutMessages.circuit n).group = some g from hg]
    exact (if_neg hk).trans (if_pos hb)
  case duplicate =>
    refine request_reply h hp (incomingSeize_refused ?_)
    rw [State.seizeRow_judged (s := s.dropHeadRequest.withoutMessages) hg hk hb,
      show (s.dropHeadRequest.withoutMessages.circuit n).usage = .incoming from hu]
  case busy =>
    refine request_reply h hp (incomingSeize_refused ?_)
    rw [State.seizeRow_judged (s := s.dropHeadRequest.withoutMessages) hg hk hb,
      show (s.dropHeadRequest.withoutMessages.circuit n).usage = .outgoing k from hu]
    dsimp only
    rw [show s.dropHeadRequest.withoutMessages.call k = some c from hc]
    exact if_pos ha

/-! ### The drain block and the unblock -/

/-- A set of positions in ascending order, picked out of all positions. -/
theorem filter_contains_of_sublist {l r : List Nat} (h : l.Sublist r) (hr : r.Nodup) :
    (r.filter fun q => l.contains q) = l := by
  induction h with
  | slnil => rfl
  | @cons l r a h ih =>
    obtain ⟨ha, hr⟩ := List.nodup_cons.mp hr
    rw [List.filter_cons_of_neg, ih hr]
    rw [List.contains_iff_mem]
    exact fun hmem => ha (h.subset hmem)
  | @cons_cons l r a h ih =>
    obtain ⟨ha, hr⟩ := List.nodup_cons.mp hr
    rw [List.filter_cons_of_pos (by simp), ← ih hr]
    refine congrArg (List.cons a) (List.filter_congr fun q hq => ?_)
    rw [List.contains_cons, ih hr, beq_false_of_ne (ne_of_mem_of_not_mem hq ha), Bool.false_or]

/-- The positions of the circuits in scope stand in ascending order (R5). -/
theorem Scope.positions_sublist (sc : Scope) : (sc.circuits.map positionOf).Sublist (List.range 32) := by
  cases sc with
  | circuit n =>
    exact List.singleton_sublist.mpr (List.mem_range.mpr (Nat.mod_lt _ (by decide)))
  | span sp =>
    have hall : (Scope.span sp).circuits.map positionOf = List.range 32 := by
      unfold Scope.circuits
      rw [List.map_map]
      refine (List.map_congr_left fun q hq => ?_).trans (List.map_id _)
      have hlt := List.mem_range.mp hq
      simp only [Function.comp, positionOf, id]
      omega
    rw [hall]

theorem State.busyPositions_merged (s : State) (sc : Scope) :
    mergePositions [] (s.busyPositions sc.circuits) = s.busyPositions sc.circuits := by
  unfold mergePositions
  simp only [List.contains_nil, Bool.false_or]
  refine filter_contains_of_sublist ?_ List.nodup_range
  exact (List.filter_sublist.map positionOf).trans sc.positions_sublist

/-- The circuits of a list with their local blocks written (R5, R9). -/
def State.circuitsBlocked (s : State) (ns : List Nat) (b : Bool) : List (Nat × Circuit) :=
  (ns.foldl (fun s n => s.setLocalBlock n b) s).circuits

theorem State.circuit_circuitsBlocked (s : State) (ns : List Nat) (b : Bool) (m : Nat) :
    State.circuit { s with circuits := s.circuitsBlocked ns b } m =
      if m ∈ ns then { s.circuit m with localBlock := b } else s.circuit m :=
  State.circuit_foldl_setCircuit (f := fun c => { c with localBlock := b }) (fun _ => rfl) ns s m

theorem State.circuitsBlocked_congr (h : t.circuits = s.circuits) (ns : List Nat) (b : Bool) :
    t.circuitsBlocked ns b = s.circuitsBlocked ns b := by
  induction ns generalizing s t with
  | nil => exact h
  | cons n ns ih =>
    refine ih (s := s.setLocalBlock n b) (t := t.setLocalBlock n b) ?_
    have hwritten := State.circuitsWith_congr h n { s.circuit n with localBlock := b }
    rw [← State.circuit_congr h] at hwritten
    exact hwritten.trans (by rw [State.circuit_congr h]; rfl)

theorem State.foldl_setLocalBlock (s : State) (ns : List Nat) (b : Bool) :
    ns.foldl (fun s n => s.setLocalBlock n b) s = { s with circuits := s.circuitsBlocked ns b } := by
  obtain ⟨cs, h⟩ := State.foldl_setCircuit_frame (fun c => { c with localBlock := b }) ns s
  unfold State.circuitsBlocked
  have hfold : ns.foldl (fun s n => s.setLocalBlock n b) s = { s with circuits := cs } := h
  rw [hfold]

theorem State.blockAll_eq (s : State) (ns : List Nat) :
    s.blockAll ns = { s with circuits := s.circuitsBlocked ns true } := s.foldl_setLocalBlock ns true

theorem State.busyPositions_blocked (s : State) (ns ms : List Nat) (b : Bool) :
    State.busyPositions { s with circuits := s.circuitsBlocked ns b } ms = s.busyPositions ms := by
  unfold State.busyPositions
  refine congrArg (List.map positionOf) (List.filter_congr fun n _ => ?_)
  rw [State.circuit_circuitsBlocked]
  split <;> rfl

/-- The spans after a watch is written (R4). -/
def State.spansWatched (s : State) (sp : Nat) (w : DrainWatch) : List (Nat × Span) :=
  (s.setSpan sp { s.span sp with watch := some w }).spans

theorem State.span_spansWatched (s : State) (sp : Nat) (w : DrainWatch) (m : Nat) :
    State.span { s with spans := s.spansWatched sp w } m =
      if m = sp then { s.span sp with watch := some w } else s.span m :=
  s.span_setSpan sp m { s.span sp with watch := some w }

/-- A block in DRAIN mode of a span whose watch is closed (R7). -/
theorem blockDrain_opens {sc : Scope} (hw : (s.span sc.spanIndex).watch = none) : blockDrain tag sc s =
    (.drainTaken false (s.busyPositions sc.circuits).length,
      State.completeWatch { s with
        circuits := s.circuitsBlocked sc.circuits true
        spans := s.spansWatched sc.spanIndex
          { positions := s.busyPositions sc.circuits, originTag := tag, merged := 1 } } sc.spanIndex .idle) := by
  unfold blockDrain
  rw [State.blockAll_eq]
  dsimp only
  rw [State.busyPositions_blocked, State.busyPositions_merged, show (State.span
    { s with circuits := s.circuitsBlocked sc.circuits true } sc.spanIndex) = s.span sc.spanIndex from rfl, hw]
  rfl

/-- A block in DRAIN mode of a span whose watch is open (R7). -/
theorem blockDrain_joins {sc : Scope} {w : DrainWatch} (hw : (s.span sc.spanIndex).watch = some w) :
    blockDrain tag sc s =
      (.drainTaken true ((s.busyPositions sc.circuits).filter fun q => !w.positions.contains q).length,
        { s with
          circuits := s.circuitsBlocked sc.circuits true
          spans := s.spansWatched sc.spanIndex { w with
            positions := mergePositions w.positions (s.busyPositions sc.circuits)
            merged := min (w.merged + 1) max16 } }) := by
  unfold blockDrain
  rw [State.blockAll_eq]
  dsimp only
  rw [State.busyPositions_blocked, show (State.span
    { s with circuits := s.circuitsBlocked sc.circuits true } sc.spanIndex) = s.span sc.spanIndex from rfl, hw]
  dsimp only
  rw [satAdd_eq_min]
  rfl

/-- A watch that opens on a closed one, and completes at once with no position to wait for (R7, R11). -/
theorem State.completeWatch_opened {sp : Nat} {w : DrainWatch} {cs : List (Nat × Circuit)}
    (hw : (s.span sp).watch = none) (cause : DrainCause) :
    ∃ ss, State.completeWatch { s with circuits := cs, spans := s.spansWatched sp w } sp cause =
        (if w.positions = [] then (s.setFlag .drain).raiseIf (s.enabled .drain) codeDrainDone
          (.noticeDrainDone sp w.originTag w.merged cause) else s).withTables cs s.groups ss ∧
      (∀ m, m ≠ sp → State.span { s with spans := ss } m = s.span m) ∧
      State.span { s with spans := ss } sp =
        if w.positions = [] then s.span sp else { s.span sp with watch := some w } := by
  have hspan := s.span_spansWatched sp w
  have hopen : (State.span { s with circuits := cs, spans := s.spansWatched sp w } sp).watch = some w :=
    congrArg Span.watch ((hspan sp).trans (if_pos rfl))
  by_cases hempty : w.positions = []
  · rw [State.completeWatch_emptied hopen hempty, if_pos hempty, if_pos hempty]
    refine ⟨(State.setSpan { s with spans := s.spansWatched sp w } sp
      { State.span { s with spans := s.spansWatched sp w } sp with watch := none }).spans, ?_, fun m hm => ?_, ?_⟩
    · exact congrArg (fun u : State => u.setSpan sp _) (State.raiseIf_withTables (s.setFlag .drain) cs s.groups _ _ _ _)
    · exact (State.span_setSpan _ sp m _).trans ((if_neg hm).trans ((hspan m).trans (if_neg hm)))
    · refine (State.span_setSpan _ sp sp _).trans ((if_pos rfl).trans ?_)
      rw [hspan, if_pos rfl, ← hw]
  · rw [State.completeWatch_kept hopen hempty, if_neg hempty, if_neg hempty]
    exact ⟨_, rfl, fun m hm => (hspan m).trans (if_neg hm), (hspan sp).trans (if_pos rfl)⟩

theorem exec_circuitBlockDrain {sc : Scope} (hp : parseBlock p = .ok (sc, .drain)) (tag : Tag) (s : State) :
    exec (.circuitBlockDrain tag p) s =
      request 0x04 tag p s fun p s => withOperands (parseBlock p) s fun o => blockDrain tag o.1 s :=
  if_neg (by rw [namesOtherMode_of_parseBlock hp]; decide)

/-- Settles O9: the watch opens over the busy positions and completes with none, or takes more positions. -/
theorem drainBlockAndItsWatch : Obligations.DrainBlockAndItsWatch := by
  unfold Obligations.DrainBlockAndItsWatch
  refine ⟨fun s tag p sc hp h hw => ?opens, fun s tag p sc w hp h hw => ?joins⟩
  case opens =>
    have hrun := blockDrain_opens (tag := tag) (s := s.dropHeadRequest.withoutMessages) hw
    rw [State.circuitsBlocked_congr (t := s.dropHeadRequest.withoutMessages) (s := s) rfl] at hrun
    refine ⟨_, (exec_circuitBlockDrain hp tag s).trans (request_effect (op := fun t => State.completeWatch { t with
      circuits := s.circuitsBlocked sc.circuits true
      spans := s.spansWatched sc.spanIndex
        { positions := s.busyPositions sc.circuits, originTag := tag, merged := 1 } } sc.spanIndex .idle) h hp
      (fun t m => State.replied_completeWatch _ m _ _) hrun), ?_⟩
    obtain ⟨ss, hdone, hothers, hself⟩ := State.completeWatch_opened
      (s := s.answer (BitVec.toNat (0x04 &&& 0x3F : Byte)) tag (.drainTaken false (s.busyPositions sc.circuits).length))
      (cs := s.circuitsBlocked sc.circuits true) (sp := sc.spanIndex)
      (w := { positions := s.busyPositions sc.circuits, originTag := tag, merged := 1 }) hw .idle
    dsimp only at hdone ⊢
    refine ⟨fun n => ?_, fun m hm => ?_, fun hbusy => ?_, fun hbusy => ?_⟩
    · exact (congrArg (fun u : State => u.circuit n) hdone).trans (s.circuit_circuitsBlocked sc.circuits true n)
    · exact (congrArg (fun u : State => u.span m) hdone).trans (hothers m hm)
    · rw [show (if s.busyPositions sc.circuits = [] then _ else _ : Span) = _ from if_neg hbusy] at hself
      rw [show (if s.busyPositions sc.circuits = [] then _ else _ : State) = _ from if_neg hbusy] at hdone
      exact ⟨(congrArg (fun u : State => u.span sc.spanIndex) hdone).trans hself,
        congrArg (fun u : State => u.withTables s.circuits u.groups s.spans) hdone⟩
    · rw [show (if s.busyPositions sc.circuits = [] then _ else _ : Span) = _ from if_pos hbusy] at hself
      rw [show (if s.busyPositions sc.circuits = [] then _ else _ : State) = _ from if_pos hbusy] at hdone
      exact ⟨(congrArg (fun u : State => u.span sc.spanIndex) hdone).trans hself,
        (congrArg (fun u : State => u.withTables s.circuits u.groups s.spans) hdone).trans (State.told_withTables ..)⟩
  case joins =>
    have hrun := blockDrain_joins (tag := tag) (s := s.dropHeadRequest.withoutMessages) hw
    rw [State.circuitsBlocked_congr (t := s.dropHeadRequest.withoutMessages) (s := s) rfl] at hrun
    refine ⟨_, (exec_circuitBlockDrain hp tag s).trans (request_effect (op := fun t => { t with
      circuits := s.circuitsBlocked sc.circuits true
      spans := s.spansWatched sc.spanIndex { w with
        positions := mergePositions w.positions (s.busyPositions sc.circuits)
        merged := min (w.merged + 1) max16 } }) h hp (fun _ _ => rfl) hrun), ?_⟩
    refine ⟨s.circuit_circuitsBlocked sc.circuits true, fun m hm => (s.span_spansWatched ..).trans (if_neg hm),
      ⟨_, (s.span_spansWatched ..).trans (if_pos rfl), fun q hq => ?_⟩, rfl⟩
    exact mem_mergePositions.trans (and_iff_right hq)

/-- The local blocks of the circuits of one span are cleared, and their positions leave its watch (R9). -/
theorem State.unblockAll_eq (sp : Nat) (ns : List Nat) (hns : ∀ n ∈ ns, spanOf n = sp) (s : State) :
    ∃ ss, ns.foldl (fun s n => (s.setLocalBlock n false).unwatch n) s =
        { s with circuits := s.circuitsBlocked ns false, spans := ss } ∧
      (∀ m, m ≠ sp → State.span { s with spans := ss } m = s.span m) ∧
      State.span { s with spans := ss } sp = (s.span sp).leave (ns.map positionOf) := by
  induction ns generalizing s with
  | nil => exact ⟨s.spans, rfl, fun _ _ => rfl, (Span.leave_nil _).symm⟩
  | cons n ns ih =>
    have hn := hns n (List.mem_cons_self ..)
    obtain ⟨ss, hdone, hothers, hself⟩ :=
      ih (fun m hm => hns m (List.mem_cons_of_mem _ hm)) ((s.setLocalBlock n false).unwatch n)
    obtain ⟨ss', hleft⟩ := (s.setLocalBlock n false).unwatch_frame n
    have hspan := (s.setLocalBlock n false).span_unwatch_leave n
    rw [hn] at hspan
    refine ⟨ss, ?_, fun m hm => (hothers m hm).trans ((hspan m).trans (if_neg hm)), ?_⟩
    · rw [List.foldl_cons, hdone, State.circuitsBlocked_congr (t := (s.setLocalBlock n false).unwatch n)
        (s := s.setLocalBlock n false) (by rw [hleft]), hleft]
      rfl
    · refine hself.trans ?_
      rw [hspan, if_pos rfl, Span.leave_leave]
      rfl

/-- The unblock of a scope, and the end of its span's watch (R9, R11). -/
theorem unblock_completed (sc : Scope) (s : State) :
    ∃ ss, (unblock sc s).2 = (s.drainTold s sc.spanIndex (sc.circuits.map positionOf) .unblocked).withTables
        (s.circuitsBlocked sc.circuits false) s.groups ss ∧
      (∀ m, m ≠ sc.spanIndex → State.span { s with spans := ss } m = s.span m) ∧
      State.span { s with spans := ss } sc.spanIndex =
        { s.span sc.spanIndex with watch := s.watchAfter sc.spanIndex (sc.circuits.map positionOf) } := by
  obtain ⟨ss, hdone, hothers, hself⟩ := State.unblockAll_eq sc.spanIndex sc.circuits (fun n => Scope.spanOf_mem) s
  obtain ⟨ss', hcompleted, hothers', hself'⟩ := State.completeWatch_left (s := s)
    (cs := s.circuitsBlocked sc.circuits false) (gs := s.groups) hself .unblocked
  refine ⟨ss', ?_, fun m hm => (hothers' m hm).trans (hothers m hm), hself'⟩
  unfold unblock
  dsimp only
  rw [hdone]
  exact hcompleted

/-- The unblock of a scope whose span has its watch closed (R9). -/
theorem unblock_of_closed {sc : Scope} (hw : (s.span sc.spanIndex).watch = none) :
    (unblock sc s).2 = { s with circuits := s.circuitsBlocked sc.circuits false } := by
  have hfold : ∀ (ns : List Nat) (s : State), (∀ n ∈ ns, spanOf n = sc.spanIndex) → (s.span sc.spanIndex).watch = none →
      ns.foldl (fun s n => (s.setLocalBlock n false).unwatch n) s = ns.foldl (fun s n => s.setLocalBlock n false) s := by
    intro ns
    induction ns with
    | nil => intro s _ _; rfl
    | cons n ns ih =>
      intro s hns hw
      rw [List.foldl_cons, List.foldl_cons, State.unwatch_of_closed (s.setLocalBlock n false)
        (by rw [hns n (List.mem_cons_self ..)]; exact hw)]
      exact ih _ (fun m hm => hns m (List.mem_cons_of_mem _ hm)) hw
  unfold unblock
  dsimp only
  rw [hfold _ s (fun n => Scope.spanOf_mem) hw, State.foldl_setLocalBlock]
  exact State.completeWatch_of_closed { s with circuits := s.circuitsBlocked sc.circuits false } hw _

/-- The effect of an unblock, as one that a reply does not touch. -/
theorem unblock_replied (sc : Scope) (s : State) (m : List Message) :
    (unblock sc s).2.replied m = (unblock sc (s.replied m)).2 := by
  unfold unblock
  dsimp only
  rw [State.replied_completeWatch]
  refine congrArg (fun u : State => u.completeWatch sc.spanIndex .unblocked) ?_
  induction sc.circuits generalizing s with
  | nil => rfl
  | cons n ns ih =>
    rw [List.foldl_cons, List.foldl_cons, ih, State.replied_unwatch]
    rfl

/-- Settles O10: the positions in scope leave the watch, and it ends with its last position. -/
theorem unblockLeavesTheWatch : Obligations.UnblockLeavesTheWatch := by
  unfold Obligations.UnblockLeavesTheWatch
  have heffect : ∀ (s : State) (tag : Tag) (p : List Byte) (sc : Scope), parseScope p = .ok sc →
      s.takesNow 0x05 tag p → exec (.circuitUnblock tag p) s =
        .next (unblock sc (s.answer 0x05 tag (.unblocked (s.watchedIn sc).length))).2 := fun s tag p sc hp h =>
    request_effect (op := fun t => (unblock sc t).2) h hp (fun t m => unblock_replied sc t m) rfl
  refine ⟨fun s tag p sc w hp h hw => ⟨_, heffect s tag p sc hp h, ?_⟩,
    fun s tag p sc hp h hw => ⟨_, heffect s tag p sc hp h, ?_⟩⟩
  · have hwatched : s.watchedIn sc = (sc.circuits.map fun n => n % 32).filter fun q => w.positions.contains q := by
      unfold State.watchedIn
      rw [hw]
      rfl
    rw [hwatched]
    generalize hbody : Body.unblocked _ = body
    obtain ⟨ss, hdone, hothers, hself⟩ := unblock_completed sc (s.answer 0x05 tag body)
    rw [hdone]
    refine ⟨(s.answer 0x05 tag body).circuit_circuitsBlocked sc.circuits false, hothers, fun hleft => ?_, fun hleft => ?_⟩
    all_goals rw [hbody]
    · obtain ⟨htold, hwatch⟩ := State.drained_kept (s := s.answer 0x05 tag body) hw (gone := sc.circuits.map positionOf)
        hleft (s.answer 0x05 tag body) .unblocked
      rw [hwatch] at hself
      rw [htold]
      exact ⟨hself, rfl⟩
    · obtain ⟨htold, hwatch⟩ := State.drained_emptied (s := s.answer 0x05 tag body) hw
        (gone := sc.circuits.map positionOf) hleft (s.answer 0x05 tag body) .unblocked
      rw [hwatch] at hself
      rw [htold]
      exact ⟨hself, State.told_withTables ..⟩
  · have hwatched : s.watchedIn sc = [] := by
      unfold State.watchedIn
      rw [hw]
    rw [hwatched, unblock_of_closed (s := s.answer 0x05 tag _) hw]
    exact ⟨(s.answer 0x05 tag (.unblocked 0)).circuit_circuitsBlocked sc.circuits false, rfl⟩

end Sys2Proof.Machine
end

section
/-! PROOFS. The circuit audit: what the comparison of one position leaves, what the comparison of a span's positions
leaves, and the statement AuditComparesEachPosition (R19 to R23). -/

namespace Sys2Proof.Machine

open Sys2Proof

variable {s t u : State} {type : Byte} {tag : Tag} {p : List Byte}

/-! ### One audited position -/

/-- The audit of a circuit of a group idles it (R20). -/
def Circuit.idledIn (c : Circuit) (g : Nat) (v : Option FarView) : Bool :=
  c.group == some g && c.usage == .incoming && v == some .idle

/-- The audit of a circuit of a group seizes it (R21). -/
def Circuit.seizedIn (c : Circuit) (g : Nat) (v : Option FarView) : Bool :=
  c.group == some g && c.usage == .idle && v == some .busy

/-- The audit of a circuit takes its position out of the watch (R10, R20). -/
def Circuit.leavesWatch (c : Circuit) (v : Option FarView) : Bool :=
  c.group.isSome && c.usage == .incoming && v == some .idle

section
variable {c : Circuit} {g : Nat}

theorem Circuit.audited_ungrouped (hg : c.group = none) (v : FarView) : c.audited v = (c, .matched) := by
  obtain ⟨g, u, l, r⟩ := c
  cases hg
  rfl

theorem Circuit.audited_idled (hg : c.group = some g) (hu : c.usage = .incoming) :
    c.audited .idle = ({ c with usage := .idle, remoteBlock := false }, .corrected) := by
  obtain ⟨g, u, l, r⟩ := c
  cases hg
  cases hu
  rfl

theorem Circuit.audited_seized (hg : c.group = some g) (hu : c.usage = .idle) :
    c.audited .busy = ({ c with usage := .incoming }, .corrected) := by
  obtain ⟨g, u, l, r⟩ := c
  cases hg
  cases hu
  rfl

theorem Circuit.audited_idle (hg : c.group = some g) (hu : c.usage = .idle) :
    c.audited .idle = if c.remoteBlock then ({ c with remoteBlock := false }, .corrected) else (c, .matched) := by
  obtain ⟨g, u, l, r⟩ := c
  cases hg
  cases hu
  rfl

theorem Circuit.audited_outgoing {h : Nat} (hg : c.group = some g) (hu : c.usage = .outgoing h) :
    c.audited .idle = (c, .mismatch) := by
  obtain ⟨g, u, l, r⟩ := c
  cases hg
  cases hu
  rfl

theorem Circuit.audited_busy (hg : c.group = some g) (hu : c.usage.busy = true) : c.audited .busy = (c, .matched) := by
  obtain ⟨g, u, l, r⟩ := c
  cases hg
  cases u
  · cases hu
  · rfl
  · rfl

theorem Circuit.audited_blocked (hg : c.group = some g) :
    c.audited .blocked = if c.remoteBlock then (c, .matched) else ({ c with remoteBlock := true }, .corrected) := by
  obtain ⟨g, u, l, r⟩ := c
  cases hg
  cases u <;> rfl

theorem Circuit.not_seizedIn {v : FarView} (h : c.group = none ∨ v ≠ .busy ∨ c.usage.busy = true) (k : Nat) :
    c.seizedIn k (some v) = false := by
  unfold Circuit.seizedIn
  rcases h with h | h | h
  · rw [h]; rfl
  · rw [beq_false_of_ne (a := some v) fun he => h (Option.some.inj he), Bool.and_false]
  · rw [beq_false_of_ne (a := c.usage) (fun he => by rw [he] at h; cases h), Bool.and_false, Bool.false_and]

theorem Circuit.not_idled {v : FarView} (h : c.group = none ∨ v ≠ .idle ∨ c.usage ≠ .incoming) :
    (∀ k, c.idledIn k (some v) = false) ∧ c.leavesWatch (some v) = false := by
  unfold Circuit.idledIn Circuit.leavesWatch
  rcases h with h | h | h
  · rw [h]; exact ⟨fun _ => rfl, rfl⟩
  · rw [beq_false_of_ne (a := some v) fun he => h (Option.some.inj he)]
    exact ⟨fun _ => Bool.and_false _, Bool.and_false _⟩
  · rw [beq_false_of_ne h]
    exact ⟨fun _ => by rw [Bool.and_false, Bool.false_and], by rw [Bool.and_false, Bool.false_and]⟩

end

/-- What the comparison of one circuit leaves of the tables: its record by the tables of R20 to R22, its group's busy
count, and the watch of its span. -/
structure State.AuditedOne (s : State) (n : Nat) (v : FarView) (cs : List (Nat × Circuit)) (gs : Table Group)
    (ss : List (Nat × Span)) : Prop where
  circuit : ∀ m, State.circuit { s with circuits := cs } m =
    if m = n then ((s.circuit n).audited v).1 else s.circuit m
  group : ∀ k, Table.find gs k = (Table.find s.groups k).map fun grp => { grp with
    busyCount := grp.busyCount + ((s.circuit n).seizedIn k (some v)).toNat - ((s.circuit n).idledIn k (some v)).toNat }
  span : ∀ m, State.span { s with spans := ss } m =
    if m = spanOf n then (s.span m).leave (if (s.circuit n).leavesWatch (some v) then [positionOf n] else [])
    else s.span m

/-- An audit that moves no busy count and no watch: it rewrites the circuit's record and no more. -/
theorem State.AuditedOne.of_record {n : Nat} {v : FarView} {cs : List (Nat × Circuit)}
    (hs : ∀ k, (s.circuit n).seizedIn k (some v) = false) (hi : ∀ k, (s.circuit n).idledIn k (some v) = false)
    (hl : (s.circuit n).leavesWatch (some v) = false)
    (hc : ∀ m, State.circuit { s with circuits := cs } m = if m = n then ((s.circuit n).audited v).1 else s.circuit m) :
    s.AuditedOne n v cs s.groups s.spans := by
  refine ⟨hc, fun k => ?_, fun m => ?_⟩
  · rw [hs, hi]
    cases Table.find s.groups k <;> rfl
  · rw [hl, if_neg Bool.false_ne_true, Span.leave_nil]
    split <;> rfl

theorem State.circuit_unchanged (s : State) (n m : Nat) : s.circuit m = if m = n then s.circuit n else s.circuit m := by
  split
  · rename_i h; rw [h]
  · rfl

/-- A circuit that its audit finds as the far end sees it, or may not correct (R20 to R22). -/
theorem State.auditCircuit_unchanged {n : Nat} {v : FarView} {o : AuditOutcome} (h : s.auditCircuit n v = (s, o))
    (ha : (s.circuit n).audited v = (s.circuit n, o)) (hs : ∀ k, (s.circuit n).seizedIn k (some v) = false)
    (hi : ∀ k, (s.circuit n).idledIn k (some v) = false) (hl : (s.circuit n).leavesWatch (some v) = false) :
    ∃ cs gs ss, s.auditCircuit n v = (s.withTables cs gs ss, ((s.circuit n).audited v).2) ∧ s.AuditedOne n v cs gs ss := by
  refine ⟨s.circuits, s.groups, s.spans, by rw [h, ha]; rfl, .of_record hs hi hl fun m => ?_⟩
  rw [ha]
  exact s.circuit_unchanged n m

/-- A circuit whose remote block its audit corrects (R20, R22). -/
theorem State.auditCircuit_remote {n : Nat} {v : FarView} {b : Bool}
    (h : s.auditCircuit n v = (s.setRemoteBlock n b, .corrected))
    (ha : (s.circuit n).audited v = ({ s.circuit n with remoteBlock := b }, .corrected))
    (hs : ∀ k, (s.circuit n).seizedIn k (some v) = false) (hi : ∀ k, (s.circuit n).idledIn k (some v) = false)
    (hl : (s.circuit n).leavesWatch (some v) = false) :
    ∃ cs gs ss, s.auditCircuit n v = (s.withTables cs gs ss, ((s.circuit n).audited v).2) ∧ s.AuditedOne n v cs gs ss := by
  refine ⟨s.circuitsWith n { s.circuit n with remoteBlock := b }, s.groups, s.spans, by rw [h, ha]; rfl,
    .of_record hs hi hl fun m => ?_⟩
  rw [ha]
  exact s.circuit_circuitsWith n m _

/-- An INCOMING circuit that the far end sees idle (R20). -/
theorem State.auditCircuit_idled {n g : Nat} (hg : (s.circuit n).group = some g) (hu : (s.circuit n).usage = .incoming) :
    ∃ cs gs ss, s.auditCircuit n .idle = (s.withTables cs gs ss, ((s.circuit n).audited .idle).2) ∧
      s.AuditedOne n .idle cs gs ss := by
  have hrun : s.auditCircuit n .idle = ((s.makeIdle n).setRemoteBlock n false, .corrected) := by
    unfold State.auditCircuit
    dsimp only
    rw [if_neg (by rw [hg]; rintro ⟨⟩), hu]
  have haudited := Circuit.audited_idled hg hu
  obtain ⟨hcircuit, -, hgroups, -⟩ := s.makeIdle_spec n
  refine ⟨(s.makeIdle n).circuitsWith n { (s.makeIdle n).circuit n with remoteBlock := false }, (s.makeIdle n).groups,
    (s.makeIdle n).spans, ?_, fun m => ?_, fun k => ?_, fun m => (s.makeIdle_span n m).trans ?_⟩
  · rw [hrun, haudited]
    refine congrArg (fun u => (u, AuditOutcome.corrected)) ?_
    show ({ s.makeIdle n with circuits := _ } : State) = _
    rw [State.makeIdle_withTables]
    rfl
  · rw [haudited]
    refine ((s.makeIdle n).circuit_circuitsWith n m _).trans ?_
    by_cases hm : m = n
    · rw [if_pos hm, if_pos hm, hcircuit, if_pos rfl]
    · rw [if_neg hm, if_neg hm, hcircuit, if_neg hm]
  · have hin : ∀ k, (s.circuit n).idledIn k (some .idle) = (some g == some k) := fun k => by
      unfold Circuit.idledIn; rw [hg, hu]; simp
    have hout : (s.circuit n).seizedIn k (some .idle) = false := by unfold Circuit.seizedIn; rw [hu]; simp
    rw [hgroups, State.setUsage_eq]
    show Table.find (s.groupsWith n .idle) k = _
    rw [State.groupsWith_busy hg hu, Table.find_modify, hin, hout]
    by_cases hk : k = g
    · rw [if_pos hk, hk, beq_self_eq_true]
      rfl
    · rw [if_neg hk, beq_false_of_ne fun h => hk (Option.some.inj h).symm]
      cases Table.find s.groups k <;> rfl
  · have hleaves : (s.circuit n).leavesWatch (some .idle) = true := by unfold Circuit.leavesWatch; rw [hg, hu]; rfl
    rw [hleaves, if_pos rfl]

/-- An IDLE circuit that the far end sees busy (R21). -/
theorem State.auditCircuit_seized {n g : Nat} (hg : (s.circuit n).group = some g) (hu : (s.circuit n).usage = .idle) :
    ∃ cs gs ss, s.auditCircuit n .busy = (s.withTables cs gs ss, ((s.circuit n).audited .busy).2) ∧
      s.AuditedOne n .busy cs gs ss := by
  have hrun : s.auditCircuit n .busy = (s.setUsage n .incoming, .corrected) := by
    unfold State.auditCircuit
    dsimp only
    rw [if_neg (by rw [hg]; rintro ⟨⟩), hu]
    rfl
  have haudited := Circuit.audited_seized hg hu
  refine ⟨s.circuitsWith n { s.circuit n with usage := .incoming }, s.groupsWith n .incoming, s.spans, ?_, fun m => ?_,
    fun k => ?_, fun m => ?_⟩
  · rw [hrun, haudited, State.setUsage_eq]
    rfl
  · rw [haudited]
    exact s.circuit_circuitsWith n m _
  · have hin : (s.circuit n).idledIn k (some .busy) = false := by unfold Circuit.idledIn; simp
    have hout : (s.circuit n).seizedIn k (some .busy) = (some g == some k) := by
      unfold Circuit.seizedIn; rw [hg, hu]; simp
    rw [State.groupsWith_busy hg hu, Table.find_modify, hin, hout]
    by_cases hk : k = g
    · rw [if_pos hk, hk, beq_self_eq_true]
      rfl
    · rw [if_neg hk, beq_false_of_ne fun h => hk (Option.some.inj h).symm]
      cases Table.find s.groups k <;> rfl
  · have hleaves : (s.circuit n).leavesWatch (some .busy) = false := by unfold Circuit.leavesWatch; simp
    rw [hleaves, if_neg Bool.false_ne_true, Span.leave_nil]
    exact (ite_self _).symm

/-- The comparison of one audited circuit with its far view, by the rows of R20 to R22. -/
theorem State.auditCircuit_eq (s : State) (n : Nat) (v : FarView) :
    ∃ cs gs ss, s.auditCircuit n v = (s.withTables cs gs ss, ((s.circuit n).audited v).2) ∧ s.AuditedOne n v cs gs ss := by
  cases hg : (s.circuit n).group with
  | none =>
    obtain ⟨hi, hl⟩ := Circuit.not_idled (v := v) (.inl hg)
    exact State.auditCircuit_unchanged (if_pos hg) (Circuit.audited_ungrouped hg v) (Circuit.not_seizedIn (.inl hg)) hi hl
  | some g =>
    have hgrouped : ∀ {a b o : State × AuditOutcome}, b = o → (if (s.circuit n).group = none then a else b) = o :=
      fun h => (if_neg (by rw [hg]; rintro ⟨⟩)).trans h
    cases v with
    | idle =>
      have hs := Circuit.not_seizedIn (c := s.circuit n) (v := .idle) (.inr (.inl (by rintro ⟨⟩)))
      cases hu : (s.circuit n).usage with
      | incoming => exact State.auditCircuit_idled hg hu
      | idle =>
        obtain ⟨hi, hl⟩ := Circuit.not_idled (c := s.circuit n) (v := .idle) (.inr (.inr (by rw [hu]; rintro ⟨⟩)))
        by_cases hr : (s.circuit n).remoteBlock = true
        · exact State.auditCircuit_remote (b := false) (hgrouped (by rw [hu]; exact if_pos hr))
            ((Circuit.audited_idle hg hu).trans (if_pos hr)) hs hi hl
        · exact State.auditCircuit_unchanged (hgrouped (by rw [hu]; exact if_neg hr))
            ((Circuit.audited_idle hg hu).trans (if_neg hr)) hs hi hl
      | outgoing h =>
        obtain ⟨hi, hl⟩ := Circuit.not_idled (c := s.circuit n) (v := .idle) (.inr (.inr (by rw [hu]; rintro ⟨⟩)))
        exact State.auditCircuit_unchanged (hgrouped (by rw [hu])) (Circuit.audited_outgoing hg hu) hs hi hl
    | busy =>
      obtain ⟨hi, hl⟩ := Circuit.not_idled (c := s.circuit n) (v := .busy) (.inr (.inl (by rintro ⟨⟩)))
      by_cases hb : (s.circuit n).usage.busy = true
      · exact State.auditCircuit_unchanged (hgrouped (if_pos hb)) (Circuit.audited_busy hg hb)
          (Circuit.not_seizedIn (.inr (.inr hb))) hi hl
      · refine State.auditCircuit_seized hg ?_
        cases hu : (s.circuit n).usage with
        | idle => rfl
        | incoming => rw [hu] at hb; exact absurd rfl hb
        | outgoing h => rw [hu] at hb; exact absurd rfl hb
    | blocked =>
      obtain ⟨hi, hl⟩ := Circuit.not_idled (c := s.circuit n) (v := .blocked) (.inr (.inl (by rintro ⟨⟩)))
      have hs := Circuit.not_seizedIn (c := s.circuit n) (v := .blocked) (.inr (.inl (by rintro ⟨⟩)))
      by_cases hr : (s.circuit n).remoteBlock = true
      · exact State.auditCircuit_unchanged (hgrouped (if_pos hr)) ((Circuit.audited_blocked hg).trans (if_pos hr)) hs hi hl
      · exact State.auditCircuit_remote (b := true) (hgrouped (if_neg hr))
          ((Circuit.audited_blocked hg).trans (if_neg hr)) hs hi hl

/-! ### The audited positions of a span -/

/-- The circuits of a group that an audit idles (R20). -/
def State.auditIdled (s : State) (span first : Nat) (views : List FarView) (g : Nat) : Nat :=
  (List.range views.length).countP fun i => (s.circuit (span * 32 + (first + i))).idledIn g views[i]?

/-- The circuits of a group that an audit seizes (R21). -/
def State.auditSeized (s : State) (span first : Nat) (views : List FarView) (g : Nat) : Nat :=
  (List.range views.length).countP fun i => (s.circuit (span * 32 + (first + i))).seizedIn g views[i]?

/-- The positions that an audit takes out of the watch of its span (R10). -/
def State.auditGone (s : State) (span first : Nat) (views : List FarView) : List Nat :=
  ((List.range views.length).filter fun i =>
    (s.circuit (span * 32 + (first + i))).leavesWatch views[i]?).map fun i => first + i

theorem countP_range_succ (n : Nat) (f : Nat → Bool) :
    (List.range (n + 1)).countP f = (f 0).toNat + (List.range n).countP fun i => f (i + 1) := by
  rw [List.range_succ_eq_map, List.countP_cons, List.countP_map, Nat.add_comm]
  cases f 0 <;> rfl

theorem filter_range_succ (n : Nat) (f : Nat → Bool) :
    (List.range (n + 1)).filter f = (if f 0 then [0] else []) ++ ((List.range n).filter fun i => f (i + 1)).map (· + 1) := by
  rw [List.range_succ_eq_map, List.filter_cons, List.filter_map]
  split <;> rfl

/-- What the comparison of the positions of a span from `first` on leaves of the tables (R19 to R23). -/
structure State.AuditedFrom (s : State) (span first : Nat) (views : List FarView) (cs : List (Nat × Circuit))
    (gs : Table Group) (ss : List (Nat × Span)) : Prop where
  circuit : ∀ i v, views[i]? = some v → State.circuit { s with circuits := cs } (span * 32 + (first + i)) =
    ((s.circuit (span * 32 + (first + i))).audited v).1
  others : ∀ n, (∀ i, i < views.length → n ≠ span * 32 + (first + i)) →
    State.circuit { s with circuits := cs } n = s.circuit n
  group : ∀ k grp, Table.find s.groups k = some grp → s.auditIdled span first views k ≤ grp.busyCount →
    Table.find gs k = some { grp with
      busyCount := grp.busyCount + s.auditSeized span first views k - s.auditIdled span first views k }
  here : State.span { s with spans := ss } span = (s.span span).leave (s.auditGone span first views)
  spans : ∀ m, m ≠ span → State.span { s with spans := ss } m = s.span m

theorem State.AuditedFrom.nil (s : State) (span first : Nat) : s.AuditedFrom span first [] s.circuits s.groups s.spans := by
  refine ⟨fun i v h => ?_, fun _ _ => rfl, fun k grp h _ => h, (Span.leave_nil _).symm, fun _ _ => rfl⟩
  rw [List.getElem?_nil] at h
  cases h

section
variable {span first : Nat} {v : FarView} {rest : List FarView}

/-- Where later positions stand as they stood, an audit reads of them what it read. -/
theorem State.audit_later (h : ∀ i, i < rest.length → u.circuit (span * 32 + (first + 1 + i)) =
      s.circuit (span * 32 + (first + (i + 1)))) :
    (∀ k, s.auditIdled span first (v :: rest) k =
      ((s.circuit (span * 32 + first)).idledIn k (some v)).toNat + u.auditIdled span (first + 1) rest k) ∧
    (∀ k, s.auditSeized span first (v :: rest) k =
      ((s.circuit (span * 32 + first)).seizedIn k (some v)).toNat + u.auditSeized span (first + 1) rest k) ∧
    s.auditGone span first (v :: rest) =
      (if (s.circuit (span * 32 + first)).leavesWatch (some v) then [first] else []) ++
        u.auditGone span (first + 1) rest ∧
    s.auditResult span first (v :: rest) =
      (first, ((s.circuit (span * 32 + first)).audited v).2) :: u.auditResult span (first + 1) rest := by
  refine ⟨fun k => ?_, fun k => ?_, ?_, ?_⟩
  · refine (countP_range_succ _ _).trans (congrArg₂ (· + ·) rfl (List.countP_congr fun i hi => ?_))
    rw [h i (List.mem_range.mp hi)]
    rfl
  · refine (countP_range_succ _ _).trans (congrArg₂ (· + ·) rfl (List.countP_congr fun i hi => ?_))
    rw [h i (List.mem_range.mp hi)]
    rfl
  · unfold State.auditGone
    rw [List.length_cons, filter_range_succ, List.map_append, List.map_map]
    refine congrArg₂ (· ++ ·) ?_ ?_
    · show List.map _ (if (s.circuit (span * 32 + first)).leavesWatch (some v) then [0] else []) = _
      split <;> rfl
    · have hfilter : ((List.range rest.length).filter fun i =>
          (s.circuit (span * 32 + (first + (i + 1)))).leavesWatch (v :: rest)[i + 1]?) =
          (List.range rest.length).filter fun i => (u.circuit (span * 32 + (first + 1 + i))).leavesWatch rest[i]? :=
        List.filter_congr fun i hi => by rw [h i (List.mem_range.mp hi)]; rfl
      rw [hfilter]
      refine List.map_congr_left fun i _ => ?_
      show first + (i + 1) = first + 1 + i
      omega
  · unfold State.auditResult
    rw [List.length_cons, List.range_succ_eq_map, List.zip_cons_cons, List.map_cons, List.zip_map_left, List.map_map]
    refine congrArg (List.cons _) (List.map_congr_left fun e he => ?_)
    have hlt := List.mem_range.mp (List.of_mem_zip he).1
    show (first + (e.1 + 1), ((s.circuit (span * 32 + (first + (e.1 + 1)))).audited e.2).2) =
      (first + 1 + e.1, ((u.circuit (span * 32 + (first + 1 + e.1))).audited e.2).2)
    rw [h e.1 hlt, show first + (e.1 + 1) = first + 1 + e.1 by omega]

end

/-- The comparison of the positions of a span, one by one (R19 to R23). -/
theorem auditFrom_eq (span : Nat) (views : List FarView) :
    ∀ (first : Nat) (s : State), first + views.length ≤ 32 → ∃ cs gs ss,
      auditFrom span first views s = (s.withTables cs gs ss, s.auditResult span first views) ∧
        s.AuditedFrom span first views cs gs ss := by
  induction views with
  | nil => exact fun first s _ => ⟨_, _, _, rfl, .nil s span first⟩
  | cons v rest ih =>
    intro first s hfit
    rw [List.length_cons] at hfit
    obtain ⟨cs, gs, ss, hone, hfirst⟩ := s.auditCircuit_eq (span * 32 + first) v
    obtain ⟨cs', gs', ss', hmore, hrest⟩ := ih (first + 1) (s.withTables cs gs ss) (by omega)
    have hlater : ∀ i, i < rest.length → (s.withTables cs gs ss).circuit (span * 32 + (first + 1 + i)) =
        s.circuit (span * 32 + (first + (i + 1))) := fun i _ => by
      rw [show first + (i + 1) = first + 1 + i by omega]
      exact (hfirst.circuit _).trans (if_neg (by omega))
    obtain ⟨hidled, hseized, hgone, hresult⟩ := State.audit_later (v := v) hlater
    have hspanOf : spanOf (span * 32 + first) = span := by unfold spanOf; omega
    have hposition : positionOf (span * 32 + first) = first := by unfold positionOf; omega
    refine ⟨cs', gs', ss', ?_, ?circuit, fun n hn => ?others, fun k grp hk hle => ?group, ?span, fun m hm => ?spans⟩
    · rw [auditFrom, hone]
      dsimp only
      rw [hmore, hresult]
      rfl
    case circuit =>
      intro i w hw
      cases i with
      | zero =>
        cases hw
        refine (hrest.others (span * 32 + (first + 0)) fun i _ => by omega).trans ?_
        exact (hfirst.circuit _).trans (if_pos rfl)
      | succ i =>
        have hi := hlater i (Nat.lt_of_succ_lt_succ (List.getElem?_eq_some_iff.mp hw).1)
        have hdone := hrest.circuit i w hw
        rw [hi, show first + 1 + i = first + (i + 1) by omega] at hdone
        exact hdone
    case others =>
      refine (hrest.others n fun i hi => ?_).trans ((hfirst.circuit n).trans (if_neg ?_))
      · have := hn (i + 1) (by rw [List.length_cons]; omega)
        omega
      · exact hn 0 (by rw [List.length_cons]; omega)
    case group =>
      rw [hidled] at hle
      have hmoved := (hfirst.group k).trans (congrArg (Option.map _) hk)
      refine (hrest.group k _ hmoved ?_).trans ?_
      · dsimp only
        omega
      · rw [hidled, hseized]
        refine congrArg some (congrArg (fun n => { grp with busyCount := n }) ?_)
        dsimp only
        omega
    case span =>
      rw [hgone, ← Span.leave_leave]
      refine hrest.here.trans (congrArg (fun r : Span =>
        r.leave ((s.withTables cs gs ss).auditGone span (first + 1) rest)) ?_)
      exact (hfirst.span span).trans ((if_pos hspanOf.symm).trans (by rw [hposition]))
    case spans => exact (hrest.spans m hm).trans ((hfirst.span m).trans (if_neg (by rw [hspanOf]; exact hm)))

theorem countOutcome_eq (o : AuditOutcome) (l : List (Nat × AuditOutcome)) : countOutcome o l = l.countP fun e => e.2 == o := by
  unfold countOutcome
  exact List.countP_eq_length_filter.symm

/-- The AUDIT flag, set unless every outcome is MATCH (R23). -/
def State.auditFlagged (s : State) (result : List (Nat × AuditOutcome)) : State :=
  if (result.any fun e => e.2 != .matched) = true then s.setFlag .audit else s

theorem State.auditFlagged_withTables (s : State) (result : List (Nat × AuditOutcome)) (cs : List (Nat × Circuit))
    (gs : Table Group) (ss : List (Nat × Span)) :
    (s.withTables cs gs ss).auditFlagged result = (s.auditFlagged result).withTables cs gs ss := by
  unfold State.auditFlagged
  split <;> rfl

theorem State.drainTold_congr {sp : Nat} (hw : (t.span sp).watch = (s.span sp).watch)
    (he : t.enabled .drain = s.enabled .drain) (told : State) (gone : List Nat) (cause : DrainCause) :
    t.drainTold told sp gone cause = s.drainTold told sp gone cause ∧ t.watchAfter sp gone = s.watchAfter sp gone := by
  unfold State.drainTold State.watchAfter
  rw [hw, he]
  exact ⟨rfl, rfl⟩

theorem State.drainTold_withTables (s told : State) (cs : List (Nat × Circuit)) (gs : Table Group) (ss : List (Nat × Span))
    (sp : Nat) (gone : List Nat) (cause : DrainCause) :
    s.drainTold (told.withTables cs gs ss) sp gone cause = (s.drainTold told sp gone cause).withTables cs gs ss := by
  unfold State.drainTold
  cases (s.span sp).watch with
  | none => rfl
  | some w =>
    dsimp only
    split
    · exact State.raiseIf_withTables (told.setFlag .drain) ..
    · rfl

theorem State.enabled_auditFlagged (s : State) (result : List (Nat × AuditOutcome)) (c : NoticeClass) :
    (s.auditFlagged result).enabled c = s.enabled c := by
  unfold State.auditFlagged
  split <;> rfl

/-- The audit of a span: the comparison of its positions, its result kept, and the end of its watch (R19 to R23). -/
theorem circuitAudit_eq {span first : Nat} {views : List FarView} (hfit : first + views.length ≤ 32) (s : State) :
    ∃ cs gs ss ss', s.AuditedFrom span first views cs gs ss ∧
      (circuitAudit span first views s).1 = .audited span first views.length
        ((s.auditResult span first views).countP fun e => e.2 == .matched)
        ((s.auditResult span first views).countP fun e => e.2 == .corrected)
        ((s.auditResult span first views).countP fun e => e.2 == .mismatch) (s.auditResult span first views) ∧
      (circuitAudit span first views s).2 =
        (s.drainTold (s.auditFlagged (s.auditResult span first views)) span (s.auditGone span first views) .idle).withTables
          cs gs ss' ∧
      (∀ m, m ≠ span → State.span { s with spans := ss' } m = s.span m) ∧
      State.span { s with spans := ss' } span =
        { watch := s.watchAfter span (s.auditGone span first views), lastAudit := some (s.auditResult span first views) } := by
  obtain ⟨cs, gs, ss, hrun, hdone⟩ := auditFrom_eq span views first s hfit
  generalize hresult : s.auditResult span first views = result at hrun ⊢
  have hflagged := s.enabled_auditFlagged result .drain
  have hspans : (s.auditFlagged result).spans = s.spans := by unfold State.auditFlagged; split <;> rfl
  have hkept : ∀ m, (s.setSpan span { s.span span with lastAudit := some result }).span m =
      if m = span then { s.span span with lastAudit := some result } else s.span m := fun m => s.span_setSpan span m _
  have hwritten : ∀ m, State.span { s with spans := (State.setSpan { s with spans := ss } span
      { State.span { s with spans := ss } span with lastAudit := some result }).spans } m =
      if m = span then { State.span { s with spans := ss } span with lastAudit := some result }
      else State.span { s with spans := ss } m := fun m =>
    State.span_setSpan { s with spans := ss } span m _
  obtain ⟨ss', hcompleted, hothers, hself⟩ := State.completeWatch_left
    (s := (s.auditFlagged result).withTables s.circuits s.groups
      (s.setSpan span { s.span span with lastAudit := some result }).spans) (sp := span)
    (gone := s.auditGone span first views) (cs := cs) (gs := gs)
    (ss := (State.setSpan { s with spans := ss } span
      { State.span { s with spans := ss } span with lastAudit := some result }).spans)
    (by
      refine ((hwritten span).trans (if_pos rfl)).trans ?_
      rw [hdone.here]
      exact (congrArg (fun r : Span => r.leave _) ((hkept span).trans (if_pos rfl))).symm) .idle
  have hbase := (hkept span).trans (if_pos rfl)
  have hwatch := congrArg Span.watch hbase
  obtain ⟨htold, hafter⟩ := State.drainTold_congr (s := s) (t := (s.auditFlagged result).withTables s.circuits s.groups
      (s.setSpan span { s.span span with lastAudit := some result }).spans) (sp := span)
    hwatch hflagged
    ((s.auditFlagged result).withTables s.circuits s.groups
      (s.setSpan span { s.span span with lastAudit := some result }).spans) (s.auditGone span first views) .idle
  rw [htold, State.drainTold_withTables] at hcompleted
  rw [hafter] at hself
  refine ⟨cs, gs, ss, ss', hdone, ?_, ?_, fun m hm => ?_, ?_⟩
  · unfold circuitAudit
    rw [hrun]
    simp only [countOutcome_eq]
  · unfold circuitAudit
    rw [hrun]
    refine Eq.trans ?_ hcompleted
    refine congrArg (fun u : State => u.completeWatch span .idle) ?_
    exact (State.auditFlagged_withTables s result cs gs _)
  · exact (hothers m hm).trans ((hwritten m).trans ((if_neg hm).trans (hdone.spans m hm)))
  · exact hself.trans (congrArg (fun r : Span =>
      ({ r with watch := s.watchAfter span (s.auditGone span first views) } : Span)) hbase)

theorem State.replied_drainTold (s told : State) (m : List Message) (sp : Nat) (gone : List Nat) (cause : DrainCause) :
    (s.drainTold told sp gone cause).replied m = (s.replied m).drainTold (told.replied m) sp gone cause := by
  unfold State.drainTold
  rw [show (s.replied m).span sp = s.span sp from rfl]
  cases (s.span sp).watch with
  | none => rfl
  | some w =>
    dsimp only
    split
    · exact State.replied_raiseIf (told.setFlag .drain) m ..
    · rfl

theorem State.replied_auditFlagged (s : State) (m : List Message) (result : List (Nat × AuditOutcome)) :
    (s.auditFlagged result).replied m = (s.replied m).auditFlagged result := by
  unfold State.auditFlagged
  split <;> rfl

/-- What tells a watch's end leaves the tables alone. -/
theorem State.drainTold_tables {told : State} (hc : told.circuits = t.circuits) (hg : told.groups = t.groups)
    (hs : told.spans = t.spans) (s : State) (sp : Nat) (gone : List Nat) (cause : DrainCause) :
    (s.drainTold told sp gone cause).withTables t.circuits t.groups t.spans = s.drainTold told sp gone cause := by
  unfold State.drainTold
  rw [← hc, ← hg, ← hs]
  cases (s.span sp).watch with
  | none => rfl
  | some w =>
    dsimp only
    split
    · exact State.told_withTables told told.circuits told.groups told.spans ..
    · rfl

theorem State.auditFlagged_tables (s : State) (result : List (Nat × AuditOutcome)) :
    (s.auditFlagged result).circuits = s.circuits ∧ (s.auditFlagged result).groups = s.groups ∧
      (s.auditFlagged result).spans = s.spans := by
  unfold State.auditFlagged
  split <;> exact ⟨rfl, rfl, rfl⟩

/-- Settles O15: the audit carried out on the answer. -/
theorem auditComparesEachPosition : Obligations.AuditComparesEachPosition := by
  unfold Obligations.AuditComparesEachPosition
  intro s tag p span first views hp h
  obtain ⟨cs, gs, ss, ss', hdone, hbody, hrun, hothers, hself⟩ :=
    circuitAudit_eq (parseAudit_fits hp) s.dropHeadRequest.withoutMessages
  refine ⟨_, request_effect (op := fun t => (t.drainTold (t.auditFlagged (s.auditResult span first views)) span
    (s.auditGone span first views) .idle).withTables cs gs ss') h hp (fun t m => ?_) (Prod.ext hbody hrun), ?_⟩
  · have htold := t.replied_drainTold (t.auditFlagged (s.auditResult span first views)) m span
      (s.auditGone span first views) .idle
    rw [State.replied_auditFlagged] at htold
    exact congrArg (fun u : State => u.withTables cs gs ss') htold
  · refine ⟨hdone.circuit, hdone.others, fun g grp hg hle => hdone.group g grp hg hle, hself, hothers, ?_⟩
    obtain ⟨hcircuits, hgroups, hspans⟩ :=
      State.auditFlagged_tables (s.answer 0x0A tag _) (s.auditResult span first views)
    exact (State.drainTold_tables hcircuits hgroups hspans _ _ _ _).trans
      (State.drainTold_congr (s := s) (t := s.answer 0x0A tag _) rfl rfl _ _ _).1

end Sys2Proof.Machine
end

section
/-! PROOFS. The rating of calls: a carrier after charges, the cap that they reach, the catch-up of a stale call, and the
statements of the answer of a foreign call and of the increment (R141 to R143, R155). -/

namespace Sys2Proof.Machine

open Sys2Proof

variable {s t u : State} {type : Byte} {tag : Tag} {p : List Byte}

/-! ### Charges to a carrier -/

/-- A carrier after SU are added to its accumulator (R155). -/
def Carrier.charged (k : Carrier) (x : Nat) : Carrier :=
  if x = 0 then k else { k with account := k.account.addCharge x, capReached := k.reachedBy x }

theorem Carrier.charged_zero (k : Carrier) : k.charged 0 = k := if_pos rfl

theorem Carrier.charged_pos (k : Carrier) {x : Nat} (h : x ≠ 0) :
    k.charged x = { k with account := k.account.addCharge x, capReached := k.reachedBy x } := if_neg h

/-- What a charge leaves of a carrier (R155). -/
theorem Carrier.charged_keeps (k : Carrier) (x : Nat) : (k.charged x).cap = k.cap ∧
    (k.charged x).cappedNotice = k.cappedNotice ∧ (k.charged x).openCalls = k.openCalls ∧
    (k.charged x).snapshot = k.snapshot ∧ (k.charged x).account.recorded = k.account.recorded ∧
    (k.charged x).capReached = k.reachedBy x := by
  unfold Carrier.charged
  split
  · rename_i h
    exact ⟨rfl, rfl, rfl, rfl, rfl, by rw [h]; rfl⟩
  · exact ⟨rfl, rfl, rfl, rfl, rfl, rfl⟩

theorem Carrier.charged_accumulator (k : Carrier) (hk : k.account.accumulator ≤ max48) (x : Nat) :
    (k.charged x).account.accumulator = k.accumulated x := by
  unfold Carrier.charged
  split
  · rename_i h
    rw [h, Carrier.accumulated, Nat.add_zero, Nat.min_eq_left hk]
  · exact Account.addCharge_accumulator k x

theorem Carrier.accumulated_le (k : Carrier) (x : Nat) : k.accumulated x ≤ max48 := Nat.min_le_right ..

/-- Two charges count as their sum (R155). -/
theorem Carrier.accumulated_charged (k : Carrier) (hk : k.account.accumulator ≤ max48) (x y : Nat) :
    (k.charged x).accumulated y = k.accumulated (x + y) := by
  unfold Carrier.accumulated
  rw [Carrier.charged_accumulator k hk, Carrier.accumulated]
  omega

theorem Carrier.reachedBy_zero (k : Carrier) : k.reachedBy 0 = k.capReached := if_pos rfl

theorem Carrier.reachedBy_pos (k : Carrier) {x : Nat} (h : x ≠ 0) :
    k.reachedBy x = decide (k.cap ≠ 0 ∧ k.cap ≤ k.accumulated x) := if_neg h

theorem Carrier.reachedBy_charged (k : Carrier) (hk : k.account.accumulator ≤ max48) (x y : Nat) :
    (k.charged x).reachedBy y = k.reachedBy (x + y) := by
  obtain ⟨hcap, -, -, -, -, hreached⟩ := k.charged_keeps x
  by_cases hy : y = 0
  · rw [hy, Carrier.reachedBy_zero, hreached]
    rfl
  · rw [Carrier.reachedBy_pos _ hy, Carrier.reachedBy_pos k (x := x + y) (by omega), hcap,
      Carrier.accumulated_charged k hk]

theorem State.find_addToCarrier {c : Nat} {k : Carrier} (h : Table.find s.carriers c = some k) (x : Nat) :
    Table.find (s.addToCarrier c x).carriers c = some (k.charged x) := by
  by_cases hx : x = 0
  · rw [hx, State.addToCarrier_zero, Carrier.charged_zero, h]
  · obtain ⟨l, hdone⟩ := s.addToCarrier_spec h hx
    rw [hdone]
    dsimp only [State.modifyCarrier]
    rw [Table.find_modify_self, h, Carrier.charged_pos k hx, Option.map_some, Carrier.reachedBy_pos k hx, ← Account.addCharge_accumulator]

/-- A charge to a call: its carrier, and what it tells (R139, R155). -/
theorem State.chargeCall_carrier {c h : Nat} {k : Carrier} (hk : Table.find s.carriers c = some k) (r : Rating) (w : Nat) :
    Table.find (s.chargeCall h c r w).carriers c = some (k.charged (r.suAdded w)) ∧
      (s.chargeCall h c r w).link = (s.cappedTold s c k (r.suAdded w)).link := by
  refine ⟨State.find_addToCarrier (s := s.setRating h (r.addCharge w)) hk _, ?_⟩
  refine (State.addToCarrier_told (s.setRating h (r.addCharge w)) hk _).trans ?_
  unfold State.cappedTold
  split
  · unfold State.raiseIf
    show (if s.enabled .capped && k.cappedNotice then _ else _ : State).link = (if _ then _ else _ : State).link
    split <;> rfl
  · rfl

/-- What is told of a cap depends on the link of the part and its clock. -/
theorem State.cappedTold_link {told told' : State} (he : t.enabled .capped = s.enabled .capped) (ht : t.time = s.time)
    (hl : told'.link = told.link) {c su su' : Nat} {k k' : Carrier} (hcap : k'.cap = k.cap)
    (hnotice : k'.cappedNotice = k.cappedNotice) (hacc : k'.accumulated su' = k.accumulated su)
    (hcross : (k'.reachedBy su' = true ∧ k'.capReached = false) ↔ (k.reachedBy su = true ∧ k.capReached = false)) :
    (t.cappedTold told' c k' su').link = (s.cappedTold told c k su).link := by
  unfold State.cappedTold
  by_cases hc : k.reachedBy su = true ∧ k.capReached = false
  · rw [if_pos hc, if_pos (hcross.mpr hc), he, ht, hcap, hnotice, hacc]
    unfold State.raiseIf State.raise State.setFlag
    split
    · rw [hl]
    · rw [hl]
  · rw [if_neg hc, if_neg (mt hcross.mp hc), hl]

theorem State.cappedTold_of_reached {told : State} {c su : Nat} {k : Carrier} (h : k.capReached = true) :
    s.cappedTold told c k su = told := if_neg fun hc => by rw [h] at hc; cases hc.2

theorem State.cappedTold_of_not_reached {told : State} {c su : Nat} {k : Carrier} (h : k.reachedBy su = false) :
    s.cappedTold told c k su = told := if_neg fun hc => by rw [h] at hc; cases hc.1

/-- The charge of two that the cap is reached by (R155). -/
def Carrier.crossing (k : Carrier) (x y : Nat) : Nat := if x ≠ 0 ∧ k.cap ≤ k.accumulated x then x else x + y

/-- Two charges in a row tell the cap once (R155). -/
theorem State.cappedTold_twice {told told' : State} {c x y : Nat} {k : Carrier} (hk : k.account.accumulator ≤ max48)
    (hnot : k.capReached = false) (he : t.enabled .capped = s.enabled .capped) (ht : t.time = s.time)
    (hl : told'.link = (s.cappedTold told c k x).link) :
    (t.cappedTold told' c (k.charged x) y).link = (s.cappedTold told c k (k.crossing x y)).link := by
  obtain ⟨hcap, hnotice, -, -, -, hreached⟩ := k.charged_keeps x
  by_cases hfirst : k.reachedBy x = true
  · have hx : x ≠ 0 := fun hx => by rw [hx, Carrier.reachedBy_zero, hnot] at hfirst; cases hfirst
    have hle : k.cap ≠ 0 ∧ k.cap ≤ k.accumulated x := by
      rw [Carrier.reachedBy_pos k hx] at hfirst
      exact of_decide_eq_true hfirst
    rw [State.cappedTold_of_reached (hreached.trans hfirst), hl, Carrier.crossing, if_pos ⟨hx, hle.2⟩]
  · have hfirst := Bool.eq_false_iff.mpr hfirst
    rw [State.cappedTold_of_not_reached hfirst] at hl
    have hsum := Carrier.reachedBy_charged k hk x y
    by_cases hcross : x ≠ 0 ∧ k.cap ≤ k.accumulated x
    · have hzero : k.cap = 0 := by
        rw [Carrier.reachedBy_pos k hcross.1] at hfirst
        by_contra hne
        exact of_decide_eq_false hfirst ⟨hne, hcross.2⟩
      have hnever : k.reachedBy (x + y) = false := by
        rw [Carrier.reachedBy_pos k (by omega)]
        exact decide_eq_false fun h => h.1 hzero
      rw [Carrier.crossing, if_pos hcross, State.cappedTold_of_not_reached hfirst,
        State.cappedTold_of_not_reached (hsum.trans hnever), hl]
    · rw [Carrier.crossing, if_neg hcross]
      refine State.cappedTold_link he ht hl hcap hnotice (Carrier.accumulated_charged k hk x y) ?_
      rw [hsum, hreached, hfirst, hnot]

/-- A charge of 0 tells nothing of a cap that has been reached, and neither does another (R155). -/
theorem Carrier.charged_reached {k : Carrier} (hk : k.account.accumulator ≤ max48) (hr : k.capReached = true)
    (hc : k.cap ≠ 0) (hle : k.cap ≤ k.account.accumulator) (x : Nat) : (k.charged x).capReached = true := by
  obtain ⟨-, -, -, -, -, hreached⟩ := k.charged_keeps x
  rw [hreached]
  by_cases hx : x = 0
  · rw [hx, Carrier.reachedBy_zero, hr]
  · rw [Carrier.reachedBy_pos k hx]
    refine decide_eq_true ⟨hc, ?_⟩
    unfold Carrier.accumulated
    omega

/-- What two charges leave of a carrier (R155). -/
theorem Carrier.charged_twice (k : Carrier) (hk : k.account.accumulator ≤ max48) (x y : Nat) :
    ((k.charged x).charged y).account.accumulator = min (k.account.accumulator + (x + y)) max48 ∧
      ((k.charged x).charged y).account.recorded = k.account.recorded ∧
      ((k.charged x).charged y).openCalls = k.openCalls ∧ ((k.charged x).charged y).snapshot = k.snapshot ∧
      ((k.charged x).charged y).capReached = k.reachedBy (x + y) := by
  obtain ⟨-, -, hopen, hsnapshot, hrecorded, -⟩ := k.charged_keeps x
  obtain ⟨-, -, hopen', hsnapshot', hrecorded', hreached'⟩ := (k.charged x).charged_keeps y
  have hle : (k.charged x).account.accumulator ≤ max48 := by
    rw [Carrier.charged_accumulator k hk]
    exact k.accumulated_le x
  exact ⟨(Carrier.charged_accumulator _ hle y).trans (Carrier.accumulated_charged k hk x y), hrecorded'.trans hrecorded,
    hopen'.trans hopen, hsnapshot'.trans hsnapshot, hreached'.trans (Carrier.reachedBy_charged k hk x y)⟩

/-! ### The answer of a foreign call -/

theorem Version.rate_le {v : Version} (hv : v.inRange = true) (band : Nat) : v.rate band ≤ 999999 := by
  simp only [Version.inRange, Bool.and_eq_true, decide_eq_true_eq] at hv
  obtain ⟨⟨-, h0, h1, h2, h3⟩, -⟩ := hv
  rw [Version.rate_eq]
  split_ifs <;> assumption

theorem Version.factor_le {v : Version} (hv : v.inRange = true) (l : Level) : v.factor l ≤ 255 := by
  simp only [Version.inRange, Bool.and_eq_true, decide_eq_true_eq] at hv
  obtain ⟨-, h0, h1, h2⟩ := hv
  rw [Version.factor_eq]
  split_ifs <;> assumption

/-- The charges of an answer stay far below what saturates (R130, R141). -/
theorem Version.answer_bounded {v : Version} (hv : v.inRange = true) (band : Nat) (l : Level) :
    v.setup ≤ 65535 ∧ v.initial ≤ 3600 ∧ v.rate band * v.factor l * v.initial / 3840 < 4294000000 := by
  have hrate := Version.rate_le hv band
  have hfactor := Version.factor_le hv l
  simp only [Version.inRange, Bool.and_eq_true, decide_eq_true_eq] at hv
  obtain ⟨⟨⟨hsetup, -, hinitial, -, -⟩, -⟩, -⟩ := hv
  have hamount := Nat.mul_le_mul (Nat.mul_le_mul hrate hfactor) hinitial
  refine ⟨hsetup, hinitial, ?_⟩
  omega

/-- The rating context of an answer before its step (R141). -/
def Rating.stepped (r : Rating) (setup amount initial : Nat) : Rating :=
  Rating.addBilled { r.addCharge setup with residue := amount % 3840 } initial

/-- A fresh rating context after S and the step of Ti are charged, below what saturates (R141). -/
theorem Rating.stepped_charges {r : Rating} (hr : r.charge = 0 ∧ r.totalCharge = 0 ∧ r.billed = 0 ∧ r.totalBilled = 0)
    {setup amount initial : Nat} (hsetup : setup ≤ 65535) (hinitial : initial ≤ 3600) (hstep : amount / 3840 < 4294000000) :
    r.suAdded setup = setup ∧ (r.stepped setup amount initial).suAdded (amount / 3840) = amount / 3840 ∧
      (r.stepped setup amount initial).addCharge (amount / 3840) = { r with
        residue := amount % 3840, charge := setup + amount / 3840, billed := initial
        totalCharge := setup + amount / 3840, totalBilled := initial } := by
  obtain ⟨hc, ht, hb, htb⟩ := hr
  have hmax : max32 = 4294967295 := rfl
  obtain ⟨hadd, hadded⟩ := r.addCharge_below setup (by omega) (by omega)
  have hbilled := Rating.addBilled_below { r with
    charge := r.charge + setup, totalCharge := r.totalCharge + setup, residue := amount % 3840 } initial
    (by dsimp only; omega) (by dsimp only; omega)
  have hstepped : r.stepped setup amount initial = { r with
      residue := amount % 3840, charge := setup, billed := initial, totalCharge := setup, totalBilled := initial } := by
    unfold Rating.stepped
    rw [hadd]
    refine hbilled.trans ?_
    dsimp only
    rw [hc, ht, hb, htb, Nat.zero_add, Nat.zero_add]
  obtain ⟨hadd', hadded'⟩ := Rating.addCharge_below { r with
      residue := amount % 3840, charge := setup, billed := initial, totalCharge := setup, totalBilled := initial }
    (amount / 3840) (by dsimp only; omega) (by dsimp only; omega)
  rw [hstepped]
  exact ⟨hadded, hadded', hadd'⟩

/-- What the step of Ti rates, in 3,840ths of an SU (R138, R141). -/
def State.answerAmount (s : State) (grp : Group) : Nat :=
  let v := s.activeVersion grp.tariffIndex
  v.rate s.band * v.factor grp.level * v.initial

/-- The rating context that an answer leaves (R141). -/
def State.answeredRating (s : State) (grp : Group) : Rating :=
  let v := s.activeVersion grp.tariffIndex
  let amount := s.answerAmount grp
  { s.freshRating grp with
    residue := amount % 3840, charge := v.setup + amount / 3840, billed := v.initial
    totalCharge := v.setup + amount / 3840, totalBilled := v.initial }

/-- The answer event as its two charges: S, and the step of Ti (R141). -/
theorem State.answerEvent_eq {grp : Group} {c : Call} (hg : s.group c.group = grp)
    (hv : (s.activeVersion grp.tariffIndex).inRange = true) (h : Nat) :
    ∃ r r' : Rating, r.suAdded (s.activeVersion grp.tariffIndex).setup = (s.activeVersion grp.tariffIndex).setup ∧
      r'.suAdded (s.answerAmount grp / 3840) = s.answerAmount grp / 3840 ∧
      r'.addCharge (s.answerAmount grp / 3840) = s.answeredRating grp ∧
      s.answerEvent h c = (s.chargeCall h c.carrier r (s.activeVersion grp.tariffIndex).setup).chargeCall h c.carrier r'
        (s.answerAmount grp / 3840) := by
  subst hg
  obtain ⟨hsetup, hinitial, hstep⟩ := Version.answer_bounded hv s.band (s.group c.group).level
  obtain ⟨hadded, hadded', hadd'⟩ := Rating.stepped_charges (r := s.freshRating (s.group c.group))
    (amount := s.answerAmount (s.group c.group)) ⟨rfl, rfl, rfl, rfl⟩ hsetup hinitial hstep
  exact ⟨_, _, hadded, hadded', hadd', rfl⟩

/-- What an answer event leaves of a call, its carrier and the link (R139, R141, R155). -/
theorem State.answerEvent_spec {grp : Group} {c c' : Call} {k : Carrier} {h : Nat} (hg : s.group c.group = grp)
    (hv : (s.activeVersion grp.tariffIndex).inRange = true) (hc : s.call h = some c')
    (hk : Table.find s.carriers c.carrier = some k) (hacc : k.account.accumulator ≤ max48) :
    let setup := (s.activeVersion grp.tariffIndex).setup
    let step := s.answerAmount grp / 3840
    let t := s.answerEvent h c
    t.call h = some { c' with rating := some (s.answeredRating grp) } ∧ (∀ m, m ≠ h → t.call m = s.call m) ∧
      Table.find t.carriers c.carrier = some ((k.charged setup).charged step) ∧
      (∀ m, m ≠ c.carrier → Table.find t.carriers m = Table.find s.carriers m) ∧
      (k.capReached = false → t.link = (s.cappedTold s c.carrier k (k.crossing setup step)).link) ∧
      (k.capReached = true → k.cap ≠ 0 → k.cap ≤ k.account.accumulator → t.link = s.link) ∧
      ∃ cs ks l, t = { s with calls := cs, carriers := ks, link := l } := by
  obtain ⟨r, r', hadded, hadded', hadd', hdone⟩ := State.answerEvent_eq hg hv h
  dsimp only
  rw [hdone]
  generalize (s.activeVersion grp.tariffIndex).setup = setup at hadded ⊢
  generalize s.answerAmount grp / 3840 = step at hadded' hadd' ⊢
  obtain ⟨hcall, hothers, cs, ks, l, hframe⟩ := s.chargeCall_spec h c.carrier r setup
  obtain ⟨hcarrier, hlink⟩ := State.chargeCall_carrier (h := h) hk r setup
  rw [hadded] at hcarrier hlink
  have htells := s.tells_chargeCall h c.carrier r setup
  generalize s.chargeCall h c.carrier r setup = u at hcall hothers hframe hcarrier hlink htells ⊢
  obtain ⟨hcall', hothers', cs', ks', l', hframe'⟩ := u.chargeCall_spec h c.carrier r' step
  obtain ⟨hcarrier', hlink'⟩ := State.chargeCall_carrier (h := h) hcarrier r' step
  rw [hadded'] at hcarrier' hlink'
  have htime : u.time = s.time := by rw [hframe]
  have henabled : u.enabled .capped = s.enabled .capped := by unfold State.enabled; rw [htells.enables]
  refine ⟨?_, fun m hm => (hcall' m).trans ((if_neg hm).trans ((hcall m).trans (if_neg hm))), hcarrier',
    fun m hm => (hothers' m hm).trans (hothers m hm), fun hnot => ?_, fun hr hcap hle => ?_, cs', ks', l', ?_⟩
  · rw [hcall', if_pos rfl, hcall, if_pos rfl, hc, hadd']
    rfl
  · exact hlink'.trans (State.cappedTold_twice hacc hnot henabled htime hlink)
  · rw [hlink', State.cappedTold_of_reached (Carrier.charged_reached hacc hr hcap hle setup), hlink,
      State.cappedTold_of_reached hr]
  · rw [hframe', hframe]

theorem State.activeVersion_of {tf : Nat} {e : Tariff} (h : Table.find s.tariffs tf = some e) :
    s.activeVersion tf = e.active := by
  unfold State.activeVersion
  rw [h]

/-- A call marked as answered (R65). -/
def State.markAnswered (s : State) (h : Nat) : State :=
  s.modifyCall h fun c => { c with answeredAt := some s.time.seconds }

theorem callAnswer_foreign {h : Nat} {expected : Option Nat} {c : Call} (hn : s.namesCall h expected c)
    (hc : c.answeredAt = none) (hforeign : c.carrier ≠ 0) : callAnswer h expected s =
      (.answered c.serial (some ((s.freshRating (s.group c.group)).factor,
        ((s.markAnswered h).answerEvent h c).chargeNow h)), (s.markAnswered h).answerEvent h c) := by
  unfold callAnswer
  rw [State.namedCall_of_namesCall hn]
  dsimp only
  rw [if_neg (by rw [Call.answered_eq_false hc]; decide), if_neg hforeign]
  rfl

/-- The answer of a foreign call, whose group has its tariff and whose carrier is defined (R65, R141). -/
theorem State.markedAnswer_spec {h tf : Nat} {c : Call} {grp : Group} {e : Tariff} {k : Carrier}
    (hcall : s.call h = some c) (hgrp : Table.find s.groups c.group = some grp) (htf : grp.defn.tariff = some tf)
    (he : Table.find s.tariffs tf = some e) (hv : e.active.inRange = true)
    (hk : Table.find s.carriers c.carrier = some k) (hacc : k.account.accumulator ≤ max48) :
    let v := e.active
    let amount := v.rate s.band * v.factor grp.level * v.initial
    let charge := v.setup + amount / 3840
    let t := (s.markAnswered h).answerEvent h c
    t.call h = some { c with
      answeredAt := some s.time.seconds
      rating := some { tariff := tf, factor := v.factor grp.level, residue := amount % 3840, charge := charge,
                       billed := v.initial, totalCharge := charge, totalBilled := v.initial,
                       nextDue := (s.time.seconds + v.initial) % 4294967296, sequence := 0,
                       mark := s.periods.number, answerDay := s.time.day, answerTime := s.time.timeOfDay,
                       saturated := false } } ∧
      (∀ m, m ≠ h → t.call m = s.call m) ∧
      Table.find t.carriers c.carrier = some ((k.charged v.setup).charged (amount / 3840)) ∧
      (∀ m, m ≠ c.carrier → Table.find t.carriers m = Table.find s.carriers m) ∧
      (k.capReached = false → t.link = (s.cappedTold s c.carrier k (k.crossing v.setup (amount / 3840))).link) ∧
      (k.capReached = true → k.cap ≠ 0 → k.cap ≤ k.account.accumulator → t.link = s.link) ∧
      ∃ cs ks l, t = { s with calls := cs, carriers := ks, link := l } := by
  have hgroup : (s.markAnswered h).group c.group = grp := by
    show (Table.find s.groups c.group).getD _ = grp
    rw [hgrp]
    rfl
  have htariff : grp.tariffIndex = tf := by rw [Group.tariffIndex, htf]; rfl
  have hversion : (s.markAnswered h).activeVersion grp.tariffIndex = e.active := by
    rw [htariff]
    exact State.activeVersion_of (s := s.markAnswered h) he
  have hmarked : (s.markAnswered h).call h = some { c with answeredAt := some s.time.seconds } := by
    refine (State.call_modifyCall ..).trans ((if_pos rfl).trans ?_)
    rw [hcall]
    rfl
  obtain ⟨hrated, hothers, hcarrier, hcarriers, hcrossed, hreached, cs, ks, l, hframe⟩ :=
    State.answerEvent_spec hgroup (by rw [hversion]; exact hv) hmarked hk hacc
  have hamount : (s.markAnswered h).answerAmount grp =
      e.active.rate s.band * e.active.factor grp.level * e.active.initial := by
    unfold State.answerAmount
    rw [hversion]
    rfl
  have hrating : (s.markAnswered h).answeredRating grp = { tariff := tf
                                                           factor := e.active.factor grp.level
                                                           residue := e.active.rate s.band * e.active.factor grp.level *
                                                             e.active.initial % 3840
                                                           charge := e.active.setup + e.active.rate s.band *
                                                             e.active.factor grp.level * e.active.initial / 3840
                                                           billed := e.active.initial
                                                           totalCharge := e.active.setup + e.active.rate s.band *
                                                             e.active.factor grp.level * e.active.initial / 3840
                                                           totalBilled := e.active.initial
                                                           nextDue := (s.time.seconds + e.active.initial) % 4294967296
                                                           sequence := 0, mark := s.periods.number
                                                           answerDay := s.time.day, answerTime := s.time.timeOfDay
                                                           saturated := false } := by
    unfold State.answeredRating State.freshRating
    rw [hamount, hversion, htariff]
    rfl
  rw [hversion, hamount] at hcarrier hcrossed
  rw [hrating] at hrated
  refine ⟨hrated, fun m hm => (hothers m hm).trans ((State.call_modifyCall ..).trans (if_neg hm)), hcarrier, hcarriers,
    fun hnot => (hcrossed hnot).trans ?_, hreached, cs, ks, l, hframe⟩
  exact State.cappedTold_link (s := s) (t := s.markAnswered h) (told := s) (told' := s.markAnswered h) rfl rfl rfl rfl rfl
    rfl Iff.rfl

/-- Settles O28: the answer event of the marked call, carried out on the answer. -/
theorem foreignCallAnswered : Obligations.ForeignCallAnswered := by
  unfold Obligations.ForeignCallAnswered
  intro s tag p h tf expected c grp e k hp htake hn hc hforeign hgrp htf he hv hk hacc
  have hfactor : (s.freshRating (s.group c.group)).factor = e.active.factor grp.level := by
    unfold State.freshRating
    rw [show s.group c.group = grp by rw [State.group, hgrp]; rfl]
    dsimp only
    rw [show grp.tariffIndex = tf by rw [Group.tariffIndex, htf]; rfl, State.activeVersion_of he]
  have hbody := State.markedAnswer_spec (s := s.dropHeadRequest.withoutMessages) (h := h) hn.1 hgrp htf he hv hk hacc
  have hcharge : (((s.dropHeadRequest.withoutMessages).markAnswered h).answerEvent h c).chargeNow h =
      e.active.setup + e.active.rate s.band * e.active.factor grp.level * e.active.initial / 3840 := by
    unfold State.chargeNow State.rating
    rw [hbody.1]
    rfl
  have hrun := callAnswer_foreign (s := s.dropHeadRequest.withoutMessages) (h := h) (expected := expected) hn hc hforeign
  rw [hcharge, show (s.dropHeadRequest.withoutMessages.freshRating (s.dropHeadRequest.withoutMessages.group c.group)).factor =
    e.active.factor grp.level from hfactor] at hrun
  refine ⟨_, request_effect (op := fun t => (t.markAnswered h).answerEvent h c) htake hp
    (fun t m => by rw [State.replied_answerEvent]; rfl) hrun, ?_⟩
  have hspec := State.markedAnswer_spec (s := s.answer 0x19 tag (.answered c.serial (some (e.active.factor grp.level,
    e.active.setup + e.active.rate s.band * e.active.factor grp.level * e.active.initial / 3840)))) (h := h) hn.1 hgrp htf
    he hv hk hacc
  obtain ⟨hrated, hothers, hcarrier, hcarriers, hcrossed, hreached, cs, ks, l, hframe⟩ := hspec
  obtain ⟨hacc', hrecorded, hopen, hsnapshot, hcap⟩ := k.charged_twice hacc e.active.setup
    (e.active.rate s.band * e.active.factor grp.level * e.active.initial / 3840)
  refine ⟨hrated, hothers, ⟨_, hcarrier, hacc', hrecorded, hopen, hsnapshot, hcap⟩, hcarriers, hcrossed, hreached,
    ?_, ?_⟩
  · refine State.Tells.after_answer (State.Tells.trans (.of_link rfl) (State.tells_answerEvent (State.markAnswered _ h) h c))
  · have hkept := congrArg (fun u : State =>
      ({ u with calls := s.calls, carriers := s.carriers, link := s.link, periods := s.periods } : State)) hframe
    exact hkept

end Sys2Proof.Machine
end

section
/-! PROOFS. The catch-up of a stale call, written out, and the statements of the increment and of the release of a rated
call (R66, R67, R142 to R144, R156, R163). -/

namespace Sys2Proof.Machine

open Sys2Proof

variable {s t u : State} {type : Byte} {tag : Tag} {p : List Byte} {codes : Nat → Prop}

/-! ### What is told -/

/-- The messages that a part has told are of some codes alone (R188). -/
def State.TellsOnly (s t : State) (codes : Nat → Prop) : Prop :=
  ∃ told, t.link.sendList = s.link.sendList ++ told ∧ ∀ m ∈ told, codes m.code

theorem State.TellsOnly.of_link (h : t.link = s.link) : s.TellsOnly t codes :=
  ⟨[], by rw [h, List.append_nil], fun _ hm => absurd hm List.not_mem_nil⟩

theorem State.TellsOnly.trans (h : s.TellsOnly t codes) (h' : t.TellsOnly u codes) : s.TellsOnly u codes := by
  obtain ⟨told, hlist, hcodes⟩ := h
  obtain ⟨told', hlist', hcodes'⟩ := h'
  refine ⟨told ++ told', by rw [hlist', hlist, List.append_assoc], fun m hm => ?_⟩
  rcases List.mem_append.mp hm with hm | hm
  · exact hcodes m hm
  · exact hcodes' m hm

theorem State.TellsOnly.mono {wider : Nat → Prop} (h : s.TellsOnly t codes) (hw : ∀ k, codes k → wider k) :
    s.TellsOnly t wider := by
  obtain ⟨told, hlist, hcodes⟩ := h
  exact ⟨told, hlist, fun m hm => hw _ (hcodes m hm)⟩

theorem State.tellsOnly_report (s : State) (f : Flag) (on : Bool) {k : Nat} (b : Body) (hk : codes k) :
    s.TellsOnly ((s.setFlag f).raiseIf on k b) codes := by
  cases on
  · exact ⟨[], (List.append_nil _).symm, fun _ hm => absurd hm List.not_mem_nil⟩
  · refine ⟨[_], rfl, fun m hm => ?_⟩
    rw [List.mem_singleton.mp hm]
    exact hk

theorem State.tellsOnly_queueTold {told : State} (entered : Prop) [Decidable entered] (flag : Flag)
    (condition : QueueCondition) (threshold : Nat) (cause : QueueCause) :
    told.TellsOnly (s.queueTold told entered flag condition threshold cause) (· = codeQueue) := by
  unfold State.queueTold
  split
  · exact told.tellsOnly_report _ _ _ rfl
  · exact .of_link rfl

theorem State.tellsOnly_evaluateThresholds (s : State) (cause : QueueCause) :
    s.TellsOnly (s.evaluateThresholds cause) (· = codeQueue) := by
  rw [State.evaluateThresholds_told]
  exact (State.tellsOnly_queueTold ..).trans (State.tellsOnly_queueTold ..)

theorem State.tellsOnly_writeRecord (s : State) (r : Record) : s.TellsOnly (s.writeRecord r) (· = codeQueue) := by
  unfold State.writeRecord
  split
  · exact State.TellsOnly.trans (.of_link rfl) (State.tellsOnly_evaluateThresholds _ _)
  · exact ⟨[], (List.append_nil _).symm, fun _ hm => absurd hm List.not_mem_nil⟩

theorem State.tellsOnly_chargeCall (s : State) (h c : Nat) (r : Rating) (w : Nat) :
    s.TellsOnly (s.chargeCall h c r w) (· = codeCapped) := by
  refine State.TellsOnly.trans (t := s.setRating h (r.addCharge w)) (.of_link rfl) ?_
  unfold State.chargeCall State.addToCarrier State.evaluateCap
  generalize s.setRating h (r.addCharge w) = u
  split
  · exact .of_link rfl
  · split
    · exact .of_link rfl
    · dsimp only
      split
      · exact State.TellsOnly.trans (t := State.modifyCarrier (State.modifyCarrier u c _) c _) (.of_link rfl)
          (State.tellsOnly_report _ _ _ _ rfl)
      · exact .of_link rfl

/-! ### The catch-up -/

/-- A carrier after the catch-up of one of its calls, whose record changes the closed account by `f` (R143, R156,
R163). -/
def Carrier.caughtUp (f : Account → Account) (k : Carrier) : Carrier :=
  { k with snapshot := { k.snapshot with
      account := f k.snapshot.account, pendingCalls := k.snapshot.pendingCalls - 1 } }

/-- A sweep after a catch-up (R162, R163). -/
def Sweep.caughtUp (byTouch : Bool) (sw : Sweep) : Sweep :=
  if byTouch then { sw with byTouch := sw.byTouch + 1 } else { sw with bySweep := sw.bySweep + 1 }

/-- A part on which a call has been caught up: the closed account changed by `f`, the record queue `q`, the link `l`
(R143, R163). -/
def State.caughtUp (s : State) (h : Nat) (c : Call) (r : Rating) (byTouch : Bool) (f : Account → Account)
    (q : RecordQueue) (l : Link) : State :=
  { s with
    calls := Table.modify s.calls h fun x => { x with rating := some (r.caughtUp s.periods.number) }
    carriers := Table.modify s.carriers c.carrier (Carrier.caughtUp f)
    records := q
    link := l
    periods := { s.periods with sweep := s.periods.sweep.map (Sweep.caughtUp byTouch) } }

theorem Rating.owesPartial_iff (r : Rating) : r.owesPartial = true ↔ 0 < r.charge ∨ 0 < r.billed := decide_eq_true_iff

/-- A catch-up that owes nothing writes no record (R143). -/
theorem State.catchUp_owing_nothing {h : Nat} {c : Call} {r : Rating} (howes : ¬ (0 < r.charge ∨ 0 < r.billed))
    (byTouch : Bool) : s.catchUp h c r byTouch = s.caughtUp h c r byTouch id s.records s.link := by
  rw [State.catchUp_eq, if_neg (mt (Rating.owesPartial_iff r).mp howes)]
  rfl

theorem State.modifyAccountOf_stale {r : Record} (hstale : r.period ≠ s.periods.number) (f : Account → Account) :
    s.modifyAccountOf r f = { s with carriers := Table.modify s.carriers r.carrier fun k =>
      { k with snapshot := { k.snapshot with account := f k.snapshot.account } } } := by
  unfold State.modifyAccountOf State.modifyCarrier
  simp only [if_neg hstale]

theorem State.catchUp_owing {h : Nat} {c : Call} {r : Rating} (howes : 0 < r.charge ∨ 0 < r.billed)
    {f : Account → Account} {q : RecordQueue} {l : Link}
    (hw : s.writeRecord (partialRecord h c r) = { s with
      carriers := Table.modify s.carriers c.carrier fun k =>
        { k with snapshot := { k.snapshot with account := f k.snapshot.account } }
      records := q
      link := l }) (byTouch : Bool) : s.catchUp h c r byTouch = s.caughtUp h c r byTouch f q l := by
  rw [State.catchUp_eq, if_pos ((Rating.owesPartial_iff r).mpr howes),
    show s.writeRecord (c.record h r none) = s.writeRecord (partialRecord h c r) from rfl, hw]
  have hcarriers := congrArg (fun ks : Table Carrier => ({ s.caughtUp h c r byTouch f q l with carriers := ks } : State))
    (Table.modify_modify s.carriers c.carrier
      (fun k => { k with snapshot := { k.snapshot with account := f k.snapshot.account } })
      (fun k => { k with snapshot := { k.snapshot with pendingCalls := k.snapshot.pendingCalls - 1 } }))
  exact hcarriers

/-- A catch-up whose PARTIAL record finds room (R143, R156). -/
theorem State.catchUp_appending {h : Nat} {c : Call} {r : Rating} (hstale : r.mark ≠ s.periods.number)
    (howes : 0 < r.charge ∨ 0 < r.billed) (hroom : s.records.queue.length < 2048) (byTouch : Bool) :
    ∃ q l, s.catchUp h c r byTouch = s.caughtUp h c r byTouch (·.addRecorded r.charge) q l ∧
      q.queue = s.records.queue ++ [partialRecord h c r] ∧ s.TellsOnly { s with link := l } (· = codeQueue) := by
  have htold := s.tellsOnly_writeRecord (partialRecord h c r)
  rcases s.writeRecord_spec (partialRecord h c r) with ⟨-, l, hw⟩ | ⟨hfull, -⟩
  · rw [hw] at htold
    rw [State.modifyAccountOf_stale (r := partialRecord h c r) hstale] at hw
    exact ⟨_, l, State.catchUp_owing howes hw byTouch, rfl, htold⟩
  · omega

/-- A catch-up whose PARTIAL record is dropped by a full queue (R143, R156, R173). -/
theorem State.catchUp_dropping {h : Nat} {c : Call} {r : Rating} (hstale : r.mark ≠ s.periods.number)
    (howes : 0 < r.charge ∨ 0 < r.billed) (hfull : 2048 ≤ s.records.queue.length) (byTouch : Bool) :
    s.catchUp h c r byTouch = s.caughtUp h c r byTouch (·.addOverflow r.charge)
      { s.records with dropped := satAdd max32 s.records.dropped 1 } (s.setFlag .overflow).link := by
  rcases s.writeRecord_spec (partialRecord h c r) with ⟨hroom, -⟩ | ⟨-, hw⟩
  · omega
  · rw [State.modifyAccountOf_stale (r := partialRecord h c r) hstale] at hw
    exact State.catchUp_owing howes hw byTouch

/-- A catch-up that finds room in the record queue (R143, R156). -/
theorem State.catchUp_with_room {h : Nat} {c : Call} {r : Rating} (hstale : r.mark ≠ s.periods.number)
    (hroom : s.records.queue.length < 2048) (byTouch : Bool) :
    ∃ f q l, s.catchUp h c r byTouch = s.caughtUp h c r byTouch f q l ∧
      q.queue = s.records.queue ++ (if 0 < r.charge ∨ 0 < r.billed then [partialRecord h c r] else []) ∧
      (∀ a : Account, (f a).recorded =
        if 0 < r.charge ∨ 0 < r.billed then min (a.recorded + r.charge) max48 else a.recorded) ∧
      s.TellsOnly { s with link := l } (· = codeQueue) := by
  by_cases howes : 0 < r.charge ∨ 0 < r.billed
  · obtain ⟨q, l, hdone, hqueue, htold⟩ := State.catchUp_appending (h := h) (c := c) hstale howes hroom byTouch
    refine ⟨_, q, l, hdone, by rw [if_pos howes, hqueue], fun a => ?_, htold⟩
    rw [if_pos howes]
    exact satAdd_eq_min ..
  · refine ⟨id, _, _, State.catchUp_owing_nothing howes byTouch, by rw [if_neg howes, List.append_nil], fun a => ?_,
      .of_link rfl⟩
    rw [if_neg howes]
    rfl

theorem Rating.caughtUp_sequence (r : Rating) (n : Nat) : (r.caughtUp n).sequence =
    if 0 < r.charge ∨ 0 < r.billed then (r.sequence + 1) % 4294967296 else r.sequence := by
  unfold Rating.caughtUp Rating.owesPartial wrap32
  simp only [decide_eq_true_eq]

theorem State.call_caughtUp {h : Nat} {c x : Call} (hx : s.call h = some x) (r : Rating) (byTouch : Bool)
    (f : Account → Account) (q : RecordQueue) (l : Link) :
    (s.caughtUp h c r byTouch f q l).call h = some { x with rating := some (r.caughtUp s.periods.number) } := by
  unfold State.call State.caughtUp
  dsimp only
  rw [Table.find_modify_self, show Table.find s.calls h = some x from hx, Option.map_some]

theorem State.call_caughtUp_of_ne {h m : Nat} (hm : m ≠ h) (c : Call) (r : Rating) (byTouch : Bool)
    (f : Account → Account) (q : RecordQueue) (l : Link) :
    (s.caughtUp h c r byTouch f q l).call m = s.call m := by
  unfold State.call State.caughtUp
  dsimp only
  rw [Table.find_modify_ne _ _ hm]

theorem State.carrier_caughtUp {c : Call} {k : Carrier} (hk : Table.find s.carriers c.carrier = some k) (h : Nat)
    (r : Rating) (byTouch : Bool) (f : Account → Account) (q : RecordQueue) (l : Link) :
    Table.find (s.caughtUp h c r byTouch f q l).carriers c.carrier = some (k.caughtUp f) := by
  show Table.find (Table.modify _ _ _) _ = _
  rw [Table.find_modify_self, hk]
  rfl

theorem State.carrier_caughtUp_of_ne {c : Call} {m : Nat} (hm : m ≠ c.carrier) (h : Nat) (r : Rating) (byTouch : Bool)
    (f : Account → Account) (q : RecordQueue) (l : Link) :
    Table.find (s.caughtUp h c r byTouch f q l).carriers m = Table.find s.carriers m := Table.find_modify_ne _ _ hm

/-! ### The increment -/

/-- A rating step below what saturates: the call, its carrier, and what is told (R138, R139, R155). -/
theorem State.ratingStep_below {h n : Nat} {x : Call} {k : Carrier} {r : Rating} {rate secs : Nat}
    (hx : s.call h = some x) (hk : Table.find s.carriers n = some k)
    (hcharge : r.charge + (rate * r.factor * secs + r.residue) / 3840 < max32)
    (htotal : r.totalCharge + (rate * r.factor * secs + r.residue) / 3840 < max32)
    (hbilled : r.billed + secs < max32) (htotalBilled : r.totalBilled + secs < max32) :
    let amount := rate * r.factor * secs + r.residue
    let t := s.ratingStep h n r rate secs
    t.call h = some { x with rating := some { r with
      residue := amount % 3840, charge := r.charge + amount / 3840, totalCharge := r.totalCharge + amount / 3840
      billed := r.billed + secs, totalBilled := r.totalBilled + secs } } ∧
    (∀ m, m ≠ h → t.call m = s.call m) ∧
    Table.find t.carriers n = some (k.charged (amount / 3840)) ∧
    (∀ m, m ≠ n → Table.find t.carriers m = Table.find s.carriers m) ∧
    t.link = (s.cappedTold s n k (amount / 3840)).link ∧
    s.TellsOnly t (· = codeCapped) ∧ ∃ cs ks l, t = { s with calls := cs, carriers := ks, link := l } := by
  dsimp only
  have hbill := Rating.addBilled_below { r with residue := (rate * r.factor * secs + r.residue) % 3840 } secs hbilled
    htotalBilled
  have hstep : s.ratingStep h n r rate secs =
      s.chargeCall h n { r with residue := (rate * r.factor * secs + r.residue) % 3840, billed := r.billed + secs
                                totalBilled := r.totalBilled + secs }
        ((rate * r.factor * secs + r.residue) / 3840) :=
    congrArg (fun r' => s.chargeCall h n r' ((rate * r.factor * secs + r.residue) / 3840)) hbill
  rw [hstep]
  generalize rate * r.factor * secs + r.residue = amount at hcharge htotal ⊢
  obtain ⟨hadd, hadded⟩ := Rating.addCharge_below { r with
    residue := amount % 3840, billed := r.billed + secs, totalBilled := r.totalBilled + secs } (amount / 3840) hcharge
    htotal
  obtain ⟨hcall, hothers, hframe⟩ := s.chargeCall_spec h n { r with
    residue := amount % 3840, billed := r.billed + secs, totalBilled := r.totalBilled + secs } (amount / 3840)
  obtain ⟨hcarrier, hlink⟩ := State.chargeCall_carrier (h := h) hk { r with
    residue := amount % 3840, billed := r.billed + secs, totalBilled := r.totalBilled + secs } (amount / 3840)
  rw [hadded] at hcarrier hlink
  refine ⟨?_, fun m hm => (hcall m).trans (if_neg hm), hcarrier, hothers, hlink, s.tellsOnly_chargeCall .., hframe⟩
  rw [hcall, if_pos rfl, hx, hadd]
  rfl

theorem exec_increment_due {h : Nat} {c : Call} {r : Rating} {at_ : Nat} (hlow : s.resetLow = false)
    (hc : s.call h = some c) (hat : c.answeredAt = some at_) (hr : c.rating = some r)
    (hdue : r.nextDue = s.time.seconds) : exec (.increment h) s = .next (s.incrementCall h c r) := by
  show execIncrement h s = _
  unfold execIncrement
  rw [hc]
  dsimp only
  rw [hr]
  dsimp only
  rw [if_neg]
  rw [hlow, State.incrementDue]
  simp [Call.answered, hat, hr, hdue]

/-- Settles O31: the step on the part, or on the part that a catch-up leaves. -/
theorem incrementChargesTk : Obligations.IncrementChargesTk := by
  unfold Obligations.IncrementChargesTk
  intro s h c r e k at_ hlow hc hat hr hdue he hk v amount w hcharge htotal hbilled htotalBilled hacc
  have hversion : s.activeVersion r.tariff = v := State.activeVersion_of he
  have hexec := exec_increment_due hlow hc hat hr hdue
  refine ⟨fun hmark => ⟨_, hexec, ?_⟩, fun hstale hroom => ⟨_, hexec, ?_⟩⟩
  · unfold State.incrementCall
    rw [State.freshen_of_current (s := s) h c hmark]
    dsimp only
    rw [hversion, hdue]
    obtain ⟨hcall, hothers, hcarrier, hcarriers, hlink, -, cs, ks, l, hframe⟩ := State.ratingStep_below
      (r := { r with nextDue := wrap32 (s.time.seconds + v.incr) }) hc hk hcharge htotal hbilled htotalBilled
    refine ⟨hcall, hothers, ⟨_, hcarrier, Carrier.charged_accumulator k hacc _, ?_⟩, hcarriers, hlink, ?_⟩
    · obtain ⟨-, -, -, -, -, hreached⟩ := k.charged_keeps w
      exact hreached
    · rw [hframe]
  · unfold State.incrementCall
    rw [show s.freshen h c r = (s.catchUp h c r true, r.caughtUp s.periods.number) from
      if_pos (by rw [State.stale, bne_iff_ne]; exact hstale)]
    dsimp only
    obtain ⟨f, q, l, hdone, hqueue, hrecorded, htold⟩ := State.catchUp_with_room (h := h) (c := c) hstale hroom true
    rw [hdone, show s.activeVersion (r.caughtUp s.periods.number).tariff = v from hversion,
      show (r.caughtUp s.periods.number).nextDue = s.time.seconds from hdue]
    obtain ⟨hcall, hothers, hcarrier, hcarriers, -, htold', cs, ks, l', hframe⟩ := State.ratingStep_below
      (s := s.caughtUp h c r true f q l) (n := c.carrier) (rate := v.rate s.band) (secs := v.incr)
      (r := { r.caughtUp s.periods.number with nextDue := wrap32 (s.time.seconds + v.incr) })
      (State.call_caughtUp hc r true f q l) (State.carrier_caughtUp hk h r true f q l)
      (by show 0 + w < _; omega) htotal (by show 0 + v.incr < _; omega) htotalBilled
    generalize State.ratingStep _ _ _ _ _ _ = t at hcall hothers hcarrier hcarriers htold' hframe ⊢
    obtain ⟨-, -, -, hsnapshot, hrecorded', hreached⟩ := (k.caughtUp f).charged_keeps w
    refine ⟨by rw [hframe]; exact hqueue, ?_, fun m hm => (hothers m hm).trans (State.call_caughtUp_of_ne hm ..),
      ⟨_, hcarrier, Carrier.charged_accumulator (k.caughtUp f) hacc _, hreached, hrecorded', ?_, ?_⟩,
      fun m hm => (hcarriers m hm).trans (State.carrier_caughtUp_of_ne hm ..), ?_, by rw [hframe]; rfl,
      by rw [hframe]; rfl⟩
    · rw [hcall, ← Rating.caughtUp_sequence r s.periods.number]
      simp only [Rating.caughtUp, Nat.zero_add]
      rfl
    · exact (congrArg (fun x : Snapshot => x.account.recorded) hsnapshot).trans (hrecorded _)
    · exact congrArg Snapshot.pendingCalls hsnapshot
    · have hcaught : s.TellsOnly (s.caughtUp h c r true f q l) (· = codeQueue) := htold
      have hall : s.TellsOnly t fun n => n = codeQueue ∨ n = codeCapped :=
        (hcaught.mono fun _ => Or.inl).trans (htold'.mono fun _ => Or.inr)
      exact hall

/-! ### The close of a rated call -/

/-- The rating context of a call with its residue rounded half up (R144). -/
def Rating.rounded (r : Rating) : Rating := Rating.addCharge { r with residue := 0 } (roundingSU r.residue)

theorem Rating.rounded_eq {r : Rating} (hc : r.charge < max32 - 1) (ht : r.totalCharge < max32 - 1) :
    r.rounded = { r with
      residue := 0, charge := r.charge + roundingSU r.residue, totalCharge := r.totalCharge + roundingSU r.residue } := by
  have hsu : roundingSU r.residue ≤ 1 := by unfold roundingSU; split <;> omega
  exact (Rating.addCharge_below { r with residue := 0 } (roundingSU r.residue) (by dsimp only; omega)
    (by dsimp only; omega)).1

/-- What the rating close of a call on a handle has done: records handed to a queue with room, the carrier of the call
from `k` to `k'`, notices, and a catch-up (R68, R144). -/
structure State.RatedClose (s u : State) (h carrier : Nat) (written : List Record) (k' : Carrier) : Prop where
  queue : u.records.queue = s.records.queue ++ written
  calls : ∀ m, m ≠ h → u.call m = s.call m
  charged : Table.find u.carriers carrier = some k'
  carriers : ∀ m, m ≠ carrier → Table.find u.carriers m = Table.find s.carriers m
  tells : s.Tells u
  frame : ∃ cs ks q l sw, u =
    { s with calls := cs, carriers := ks, records := q, link := l, periods := { s.periods with sweep := sw } }

/-- The FINAL record of a close, and the charge that rounds it (R144). -/
def State.writeFinal (s : State) (h : Nat) (c : Call) (r : Rating) (final : Record) : State :=
  (s.chargeCall h c.carrier { r with residue := 0 } (roundingSU r.residue)).writeRecord final

theorem State.writeFinal_spec {h : Nat} {c : Call} {k : Carrier} (r : Rating) {final : Record}
    (hk : Table.find s.carriers c.carrier = some k) (hcarrier : final.carrier = c.carrier)
    (hperiod : final.period = s.periods.number) (hroom : s.records.queue.length < 2048) :
    ∃ k', s.RatedClose (s.writeFinal h c r final) h c.carrier [final] k' ∧ k'.openCalls = k.openCalls ∧
      k'.account.recorded = min (k.account.recorded + final.charge) max48 ∧ k'.snapshot = k.snapshot ∧
      (s.writeFinal h c r final).periods = s.periods := by
  unfold State.writeFinal
  obtain ⟨-, hothers, cs, ks, l, hframe⟩ := s.chargeCall_spec h c.carrier { r with residue := 0 } (roundingSU r.residue)
  obtain ⟨hcall, -⟩ := s.chargeCall_spec h c.carrier { r with residue := 0 } (roundingSU r.residue)
  obtain ⟨hcharged, -⟩ := State.chargeCall_carrier (h := h) hk { r with residue := 0 } (roundingSU r.residue)
  have htells := s.tells_chargeCall h c.carrier { r with residue := 0 } (roundingSU r.residue)
  generalize s.chargeCall h c.carrier { r with residue := 0 } (roundingSU r.residue) = u at hothers hframe hcall hcharged htells ⊢
  generalize Rating.suAdded _ _ = su at hcharged
  obtain ⟨-, -, hopen, hsnapshot, hrecorded, -⟩ := k.charged_keeps su
  have hqueue : u.records = s.records := by rw [hframe]
  have hperiods : u.periods = s.periods := by rw [hframe]
  have hcarrier' : ∀ f, (u.modifyAccountOf final f).carriers =
      Table.modify u.carriers c.carrier fun x => { x with account := f x.account } := by
    intro f
    unfold State.modifyAccountOf State.modifyCarrier
    rw [hcarrier]
    simp only [hperiod, hperiods, if_true]
  have htells' := u.tells_writeRecord final
  rcases u.writeRecord_spec final with ⟨-, l', hw⟩ | ⟨hfull, -⟩
  · rw [hw] at htells' ⊢
    refine ⟨{ k.charged su with account := (k.charged su).account.addRecorded final.charge },
      ⟨by rw [← hqueue], fun m hm => ?_, ?_, fun m hm => ?_, htells.trans htells', ?_⟩, hopen, ?_, hsnapshot, hperiods⟩
    · exact (hcall m).trans (if_neg hm)
    · dsimp only
      rw [hcarrier', Table.find_modify_self, hcharged, Option.map_some]
    · dsimp only
      rw [hcarrier', Table.find_modify_ne _ _ hm, hothers m hm]
    · rw [hframe]
      exact ⟨_, _, _, _, _, rfl⟩
    · exact (satAdd_eq_min ..).trans (by rw [hrecorded])
  · rw [hqueue] at hfull
    omega

theorem State.RatedClose.trans {h n : Nat} {w w' : List Record} {k k' : Carrier} (hs : s.RatedClose t h n w k)
    (ht : t.RatedClose u h n w' k') : s.RatedClose u h n (w ++ w') k' where
  queue := by rw [ht.queue, hs.queue, List.append_assoc]
  calls m hm := (ht.calls m hm).trans (hs.calls m hm)
  charged := ht.charged
  carriers m hm := (ht.carriers m hm).trans (hs.carriers m hm)
  tells := hs.tells.trans ht.tells
  frame := by
    obtain ⟨cs, ks, q, l, sw, hs⟩ := hs.frame
    obtain ⟨cs', ks', q', l', sw', ht⟩ := ht.frame
    rw [ht, hs]
    exact ⟨cs', ks', q', l', sw', rfl⟩

theorem State.ratedClose_caughtUp {h : Nat} {c : Call} {r : Rating} {k : Carrier}
    (hk : Table.find s.carriers c.carrier = some k) {byTouch : Bool} {f : Account → Account} {q : RecordQueue} {l : Link}
    {w : List Record} (hq : q.queue = s.records.queue ++ w)
    (ht : s.Tells (s.caughtUp h c r byTouch f q l)) :
    s.RatedClose (s.caughtUp h c r byTouch f q l) h c.carrier w (k.caughtUp f) where
  queue := hq
  calls _ hm := State.call_caughtUp_of_ne hm ..
  charged := State.carrier_caughtUp hk ..
  carriers _ hm := State.carrier_caughtUp_of_ne hm ..
  tells := ht
  frame := ⟨_, _, _, _, _, rfl⟩

/-- The FINAL record of a call whose rating context is in the current period (R144, R170). -/
def State.finalRecord (s : State) (h : Nat) (c : Call) (r : Rating) (at_ : Nat) (cause : CloseCause) : Record :=
  c.record h r.rounded (some { heldSeconds := s.secondsSince at_, cause := cause })

theorem State.ratingClose_of_current {h : Nat} {c : Call} {r : Rating} {at_ : Nat} (hat : c.answeredAt = some at_)
    (hr : c.rating = some r) (hmark : r.mark = s.periods.number) (cause : CloseCause) :
    s.ratingClose h c cause = (s.writeFinal h c r (s.finalRecord h c r at_ cause),
      { records := 1, finalCharge := some r.rounded.charge }) := by
  have hfresh : s.stale r = false := by rw [State.stale, hmark, bne_self_eq_false]
  unfold State.ratingClose State.releaseClose
  rw [hat, hr]
  dsimp only
  rw [State.freshen_of_current (s := s) h c hmark, hfresh]
  rfl

theorem State.ratingClose_of_stale {h : Nat} {c : Call} {r : Rating} {at_ : Nat} (hat : c.answeredAt = some at_)
    (hr : c.rating = some r) (hmark : r.mark ≠ s.periods.number) (howes : 0 < r.charge ∨ 0 < r.billed)
    (cause : CloseCause) :
    s.ratingClose h c cause =
      ((s.catchUp h c r true).writeFinal h c (r.caughtUp s.periods.number)
        (s.finalRecord h c (r.caughtUp s.periods.number) at_ cause),
      { records := 2, finalCharge := some (r.caughtUp s.periods.number).rounded.charge }) := by
  have hstale : s.stale r = true := by rw [State.stale, bne_iff_ne]; exact hmark
  unfold State.ratingClose State.releaseClose
  rw [hat, hr]
  dsimp only
  rw [show s.freshen h c r = (s.catchUp h c r true, r.caughtUp s.periods.number) from if_pos hstale, hstale,
    (Rating.owesPartial_iff r).mpr howes]
  rfl

theorem State.secondsSince_eq {at_ : Nat} (hat : at_ < 4294967296) :
    s.secondsSince at_ = (s.time.seconds + 4294967296 - at_) % 4294967296 := by
  rw [Nat.add_sub_assoc (Nat.le_of_lt hat)]
  rfl

/-! ### The release of a rated call -/

/-- A call closed and its watch completed, after its rating close (R67). -/
def State.released (s : State) (h : Nat) (c : Call) : State :=
  ((s.makeIdle c.circuit).freeCall h c).completeWatch (spanOf c.circuit) .idle

theorem callRelease_rated {h : Nat} {cause : CloseCause} {expected : Option Nat} {c : Call} {u : State}
    {report : CloseReport} (hn : s.namesCall h expected c) (hrated : s.ratingClose h c cause = (u, report)) :
    callRelease h cause expected s = (.released c.serial c.answered report.records report.finalCharge, u.released h c) := by
  unfold callRelease
  rw [State.namedCall_of_namesCall hn]
  dsimp only
  rw [State.closeCall_eq, if_pos rfl, hrated]
  rfl

/-- The release of a call frees it and its circuit, and its carrier has one open call less (R67). -/
theorem State.released_spec (u : State) (h : Nat) (c : Call) :
    (u.released h c).call h = none ∧ (∀ m, m ≠ h → (u.released h c).call m = u.call m) ∧
      (∀ m, (u.released h c).circuit m = if m = c.circuit then { u.circuit c.circuit with usage := .idle } else u.circuit m) ∧
      (u.released h c).carriers = Table.modify u.carriers c.carrier (fun k => { k with openCalls := k.openCalls - 1 }) ∧
      u.Tells (u.released h c) ∧
      ∃ cs gs ss ks qs l, u.released h c =
        { u with circuits := cs, groups := gs, spans := ss, carriers := ks, calls := qs, link := l } := by
  unfold State.released
  obtain ⟨hcircuit, -, -, cs, gs, ss, hidle⟩ := u.makeIdle_spec c.circuit
  have hcalls := u.makeIdle_calls c.circuit
  have hlink := u.makeIdle_link c.circuit
  generalize u.makeIdle c.circuit = v at hcircuit hidle hcalls hlink ⊢
  have htells := State.tells_completeWatch (v.freeCall h c) (spanOf c.circuit) .idle
  obtain ⟨ss', l, hdone⟩ := (v.freeCall h c).completeWatch_frame (spanOf c.circuit) .idle
  rw [hdone] at htells ⊢
  have hcarriers : v.carriers = u.carriers := by rw [hidle]
  have hcall : ∀ m, (v.freeCall h c).call m = if m = h then none else u.call m := by
    intro m
    show Table.find (Table.erase v.calls h) m = _
    rw [hcalls, Table.find_erase]
    rfl
  refine ⟨(hcall h).trans (if_pos rfl), fun m hm => (hcall m).trans (if_neg hm), hcircuit, ?_,
    State.Tells.trans (.of_link hlink) htells, ?_⟩
  · dsimp only [State.freeCall, State.closeCallOn, State.modifyCarrier]
    rw [hcarriers]
  · rw [hidle]
    exact ⟨_, _, _, _, _, _, rfl⟩

theorem State.replied_released (m : List Message) (h : Nat) (c : Call) : (s.released h c).replied m = (s.replied m).released h c := by
  unfold State.released
  rw [State.replied_completeWatch, State.replied_freeCall, State.replied_makeIdle]

/-- What the release of a rated call leaves (R66 to R68). -/
theorem State.RatedClose.released {h : Nat} {c : Call} {written : List Record} {k' : Carrier}
    (hu : s.RatedClose u h c.carrier written k') :
    let t := u.released h c
    t.records.queue = s.records.queue ++ written ∧ t.call h = none ∧ (∀ m, m ≠ h → t.call m = s.call m) ∧
      (t.circuit c.circuit).usage = .idle ∧ (∀ m, m ≠ c.circuit → t.circuit m = s.circuit m) ∧
      Table.find t.carriers c.carrier = some { k' with openCalls := k'.openCalls - 1 } ∧
      (∀ m, m ≠ c.carrier → Table.find t.carriers m = Table.find s.carriers m) ∧ s.Tells t ∧
      t.periods = u.periods ∧ t.periods.number = s.periods.number ∧ t.plans = s.plans ∧ t.time = s.time ∧
      t.tariffs = s.tariffs := by
  obtain ⟨hfree, hothers, hcircuit, hcarriers, htells, cs, gs, ss, ks, qs, l, hframe⟩ := State.released_spec u h c
  obtain ⟨cs', ks', q', l', sw, huframe⟩ := hu.frame
  generalize u.released h c = t at hfree hothers hcircuit hcarriers htells hframe ⊢
  have hucircuit : ∀ m, u.circuit m = s.circuit m := fun m => by rw [huframe]; rfl
  refine ⟨by rw [hframe]; exact hu.queue, hfree, fun m hm => (hothers m hm).trans (hu.calls m hm), ?_, fun m hm => ?_, ?_,
    fun m hm => ?_, hu.tells.trans htells, by rw [hframe], by rw [hframe, huframe], by rw [hframe, huframe],
    by rw [hframe, huframe], by rw [hframe, huframe]⟩
  · rw [hcircuit, if_pos rfl]
  · rw [hcircuit, if_neg hm, hucircuit]
  · rw [hcarriers, Table.find_modify_self, hu.charged, Option.map_some]
  · rw [hcarriers, Table.find_modify_ne _ _ hm, hu.carriers m hm]

/-- The FINAL record of a call below what saturates (R144, R170). -/
theorem State.finalRecord_eq {h : Nat} {c : Call} {r : Rating} {at_ : Nat} (hat : at_ < 4294967296)
    (hmark : r.mark = s.periods.number) (hc : r.charge < max32 - 1) (ht : r.totalCharge < max32 - 1)
    (hsat : r.saturated = false) (cause : CloseCause) :
    s.finalRecord h c r at_ cause =
      { final := some { heldSeconds := (s.time.seconds + 4294967296 - at_) % 4294967296, cause := cause },
        serial := c.serial, handle := h, sequence := r.sequence, carrier := c.carrier, group := c.group,
        circuit := c.circuit, tariff := r.tariff, factor := r.factor, period := s.periods.number,
        answerDay := r.answerDay, answerTime := r.answerTime, billed := r.billed
        charge := r.charge + if 1920 ≤ r.residue then 1 else 0
        saturated := false } := by
  unfold State.finalRecord Call.record
  rw [Rating.rounded_eq hc ht, State.secondsSince_eq hat, ← hmark, ← hsat]
  rfl

/-- The rating close of a call in the current period (R144, R156). -/
theorem State.ratingClose_current {h : Nat} {c : Call} {r : Rating} {k : Carrier} {at_ : Nat}
    (hat : c.answeredAt = some at_) (hat' : at_ < 4294967296) (hr : c.rating = some r) (hmark : r.mark = s.periods.number)
    (hc : r.charge < max32 - 1) (ht : r.totalCharge < max32 - 1) (hsat : r.saturated = false)
    (hk : Table.find s.carriers c.carrier = some k) (hroom : s.records.queue.length < 2048) (cause : CloseCause) :
    let charge := r.charge + if 1920 ≤ r.residue then 1 else 0
    let final : Record :=
      { final := some { heldSeconds := (s.time.seconds + 4294967296 - at_) % 4294967296, cause := cause },
        serial := c.serial, handle := h, sequence := r.sequence, carrier := c.carrier, group := c.group,
        circuit := c.circuit, tariff := r.tariff, factor := r.factor, period := s.periods.number,
        answerDay := r.answerDay, answerTime := r.answerTime, billed := r.billed, charge := charge, saturated := false }
    s.ratingClose h c cause = (s.writeFinal h c r final, { records := 1, finalCharge := some charge }) ∧
      ∃ k', s.RatedClose (s.writeFinal h c r final) h c.carrier [final] k' ∧ k'.openCalls = k.openCalls ∧
        k'.account.recorded = min (k.account.recorded + charge) max48 ∧ k'.snapshot = k.snapshot := by
  obtain ⟨k', hclose, hopen, hrecorded, hsnapshot, -⟩ :=
    State.writeFinal_spec (h := h) r (final := s.finalRecord h c r at_ cause) hk rfl hmark hroom
  rw [State.finalRecord_eq hat' hmark hc ht hsat] at hclose hrecorded
  dsimp only
  rw [State.ratingClose_of_current hat hr hmark, State.finalRecord_eq hat' hmark hc ht hsat]
  exact ⟨by rw [Rating.rounded_eq hc ht]; rfl, k', hclose, hopen, hrecorded, hsnapshot⟩

/-- The rating close of a call that owes a PARTIAL record for the period before (R143, R144, R156, R163). -/
theorem State.ratingClose_stale {h : Nat} {c : Call} {r : Rating} {k : Carrier} {at_ : Nat}
    (hat : c.answeredAt = some at_) (hat' : at_ < 4294967296) (hr : c.rating = some r) (hmark : r.mark ≠ s.periods.number)
    (howes : 0 < r.charge ∨ 0 < r.billed) (ht : r.totalCharge < max32 - 1) (hsat : r.saturated = false)
    (hk : Table.find s.carriers c.carrier = some k) (hroom : s.records.queue.length < 2047) (cause : CloseCause) :
    let rounding := if 1920 ≤ r.residue then 1 else 0
    let final : Record :=
      { final := some { heldSeconds := (s.time.seconds + 4294967296 - at_) % 4294967296, cause := cause },
        serial := c.serial, handle := h, sequence := (r.sequence + 1) % 4294967296, carrier := c.carrier,
        group := c.group, circuit := c.circuit, tariff := r.tariff, factor := r.factor,
        period := s.periods.number, answerDay := r.answerDay, answerTime := r.answerTime, billed := 0,
        charge := rounding, saturated := false }
    let u := (s.catchUp h c r true).writeFinal h c (r.caughtUp s.periods.number) final
    s.ratingClose h c cause = (u, { records := 2, finalCharge := some rounding }) ∧
      u.periods.sweep = s.periods.sweep.map (Sweep.caughtUp true) ∧
      ∃ k', s.RatedClose u h c.carrier [partialRecord h c r, final] k' ∧ k'.openCalls = k.openCalls ∧
        k'.account.recorded = min (k.account.recorded + rounding) max48 ∧
        k'.snapshot.account.recorded = min (k.snapshot.account.recorded + r.charge) max48 ∧
        k'.snapshot.pendingCalls = k.snapshot.pendingCalls - 1 := by
  have hfinal := State.finalRecord_eq (s := s) (h := h) (c := c) (r := r.caughtUp s.periods.number) hat' rfl
    (by show 0 < max32 - 1; decide) ht hsat cause
  rw [Rating.caughtUp_sequence, if_pos howes, show (r.caughtUp s.periods.number).charge = 0 from rfl, Nat.zero_add] at hfinal
  have hrated := State.ratingClose_of_stale hat hr hmark howes (h := h) cause
  have hrounded := Rating.rounded_eq (r := r.caughtUp s.periods.number) (by show 0 < max32 - 1; decide) ht
  rw [hrounded, show (r.caughtUp s.periods.number).charge = 0 from rfl, Nat.zero_add] at hrated
  obtain ⟨q, l, hdone, hqueue, -⟩ := State.catchUp_appending (h := h) (c := c) hmark howes (by omega) true
  have htells := s.tells_catchUp h c r true
  rw [hdone] at htells hrated
  have hcaught := State.ratedClose_caughtUp hk hqueue htells
  obtain ⟨k', hclose, hopen, hrecorded, hsnapshot, hperiods⟩ := State.writeFinal_spec (h := h)
    (s := s.caughtUp h c r true (·.addRecorded r.charge) q l) (r.caughtUp s.periods.number)
    (final := s.finalRecord h c (r.caughtUp s.periods.number) at_ cause) (State.carrier_caughtUp hk ..) rfl rfl
    (by show q.queue.length < 2048; rw [hqueue, List.length_append, List.length_singleton]; omega)
  rw [hfinal] at hrated hclose hrecorded hperiods
  dsimp only
  rw [hdone]
  exact ⟨hrated, congrArg Periods.sweep hperiods, k', hcaught.trans hclose, hopen, hrecorded,
    (congrArg (fun x : Snapshot => x.account.recorded) hsnapshot).trans (satAdd_eq_min ..),
    congrArg Snapshot.pendingCalls hsnapshot⟩

/-- The release of a rated call is its rating close and its closing actions, carried out on the answer (R66, R67). -/
theorem exec_callRelease_rated {h : Nat} {cause : CloseCause} {expected : Option Nat} {c : Call} {v : State}
    {n : Nat} {final : Option Nat} (hp : parseRelease p = .ok (h, cause, expected)) (htake : s.takesNow 0x1A tag p)
    (hn : s.namesCall h expected c) (hanswered : c.answeredAt ≠ none)
    (hrated : s.dropHeadRequest.withoutMessages.ratingClose h c cause = (v, { records := n, finalCharge := final })) :
    exec (.callRelease tag p) s =
      .next (((s.answer 0x1A tag (.released c.serial true n final)).ratingClose h c cause).1.released h c) := by
  have hrun := callRelease_rated (s := s.dropHeadRequest.withoutMessages) hn hrated
  rw [Call.answered, Option.isSome_iff_ne_none.mpr hanswered] at hrun
  exact request_effect (op := fun t => (t.ratingClose h c cause).1.released h c) htake hp
    (fun t m => by rw [State.replied_released, State.replied_ratingClose]) (by rw [hrated]; exact hrun)

/-- Settles O29: the rating close on the answer, then the closing actions. -/
theorem ratedCallReleased : Obligations.RatedCallReleased := by
  unfold Obligations.RatedCallReleased
  intro s tag p h at_ cause expected c r k hp htake hn hat hat' hnow hr hc ht hsat hk
  have hanswered : c.answeredAt ≠ none := by rw [hat]; nofun
  refine ⟨fun hmark hroom => ?_, fun hmark howes hroom => ?_⟩
  · obtain ⟨hrated, -⟩ := State.ratingClose_current (s := s.dropHeadRequest.withoutMessages) (h := h) hat hat' hr hmark hc
      ht hsat hk hroom cause
    have hexec := exec_callRelease_rated hp htake hn hanswered hrated
    obtain ⟨hrated', k', hclose, hopen, hrecorded, hsnapshot⟩ := State.ratingClose_current
      (s := s.answer 0x1A tag (.released c.serial true 1
        (some (r.charge + if 1920 ≤ r.residue then 1 else 0)))) (h := h) hat hat' hr hmark hc ht hsat hk hroom cause
    rw [hrated'] at hexec
    refine ⟨_, hexec, ?_⟩
    generalize State.writeFinal _ _ _ _ _ = u at hclose ⊢
    obtain ⟨hqueue, hfree, hcalls, hidle, hcircuits, hcarrier, hcarriers, htells, -, hnumber, hplans, htime, htariffs⟩ :=
      hclose.released
    exact ⟨hqueue, hfree, hcalls, hidle, hcircuits, ⟨_, hcarrier, congrArg (· - 1) hopen, hrecorded, hsnapshot⟩,
      hcarriers, htells.after_answer, hnumber, hplans, htime, htariffs⟩
  · obtain ⟨hrated, -⟩ := State.ratingClose_stale (s := s.dropHeadRequest.withoutMessages) (h := h) hat hat' hr hmark howes
      ht hsat hk hroom cause
    have hexec := exec_callRelease_rated hp htake hn hanswered hrated
    obtain ⟨hrated', hsweep, k', hclose, hopen, hrecorded, hclosed, hpending⟩ := State.ratingClose_stale
      (s := s.answer 0x1A tag (.released c.serial true 2 (some (if 1920 ≤ r.residue then 1 else 0)))) (h := h) hat hat' hr
      hmark howes ht hsat hk hroom cause
    rw [hrated'] at hexec
    refine ⟨_, hexec, ?_⟩
    generalize State.writeFinal _ _ _ _ _ = u at hsweep hclose ⊢
    obtain ⟨hqueue, hfree, hcalls, hidle, hcircuits, hcarrier, hcarriers, htells, hperiods, hnumber, hplans, htime,
      htariffs⟩ := hclose.released
    refine ⟨hqueue, hfree, hcalls, hidle, hcircuits, ⟨_, hcarrier, congrArg (· - 1) hopen, hrecorded, hclosed, hpending⟩,
      hcarriers, htells.after_answer, ?_, hnumber, hplans, htime, htariffs⟩
    rw [hperiods, hsweep]
    cases hs : s.periods.sweep <;> simp [State.answer, hs, Sweep.caughtUp]

end Sys2Proof.Machine
end

section
/-! PROOFS. Period closes and the sweep: the statements of PERIOD CLOSE, of the period boundary, and of the sweep visit
(R159 to R164). -/

namespace Sys2Proof.Machine

open Sys2Proof

variable {s t u : State} {type : Byte} {tag : Tag} {p : List Byte}

/-! ### The start of a close -/

/-- The carriers of a part at the start of a close (R159). -/
def State.closedCarriers (s : State) : Table Carrier :=
  s.carriers.map fun e => if e.1 = 0 then e else (e.1, e.2.closePeriod (s.ratedOnCarrier e.1))

/-- The period fields of a part at the start of a close (R159). -/
def State.closedPeriods (s : State) (cause : PeriodCause) : Periods :=
  { s.periods with
    closed := some s.periods.number
    number := (s.periods.number + 1) % 4294967296
    sweep := some { cause := cause, nextHandle := 0, bySweep := 0, byTouch := 0, snapshotsLost := s.unreadSnapshots,
                    visitBeforeRequest := false, visitBeforeAdvance := false } }

/-- What the start of a close tells (R159). -/
def State.lossTold (s : State) : State := if s.unreadSnapshots = 0 then s else s.setFlag .snapshotLost

theorem State.closeStart_eq (s : State) (cause : PeriodCause) : s.closeStart cause =
    { s with carriers := s.closedCarriers, periods := s.closedPeriods cause, link := s.lossTold.link } := by
  unfold State.closeStart State.lossTold
  dsimp only
  split <;> rfl

theorem State.unreadSnapshots_eq (s : State) :
    s.unreadSnapshots = s.carriers.countP fun e => e.1 != 0 && !e.2.snapshot.read := List.countP_eq_length_filter.symm

theorem State.ratedOnCarrier_eq (s : State) (n : Nat) :
    s.ratedOnCarrier n = s.calls.countP fun x => x.2.rating.isSome && x.2.carrier == n := List.countP_eq_length_filter.symm

/-! ### The requests and the boundary -/

/-- What PERIOD CLOSE replies when it starts a close (R161). -/
def State.closingBody (s : State) : Body :=
  .periodClosing s.periods.number ((s.periods.number + 1) % 4294967296) s.unreadSnapshots
    (s.closedCarriers.map fun e => e.2.snapshot.pendingCalls).sum

/-- A part on which PERIOD CLOSE has started a close, with what it has told (R161): a visit is due before the next
request (R162). -/
def State.closeRequested (s told : State) : State :=
  { s with
    carriers := s.closedCarriers
    periods := { s.closedPeriods .request with
      sweep := (s.closedPeriods .request).sweep.map fun sw => { sw with visitBeforeRequest := true } }
    link := told.link }

theorem periodClose_idle (h : s.periods.sweep = none) : periodClose s = (s.closingBody, s.closeStart .request) := by
  unfold periodClose
  rw [h, Option.isSome_none, if_neg Bool.false_ne_true]
  dsimp only
  rw [State.closeStart_eq]
  rfl

theorem exec_periodClose_idle (h : s.takesNow 0x30 tag []) (hsweep : s.periods.sweep = none) :
    exec (.periodClose tag []) s = .next (s.closeRequested (if s.unreadSnapshots = 0 then s.answer 0x30 tag s.closingBody
      else (s.answer 0x30 tag s.closingBody).setFlag .snapshotLost)) := by
  refine congrArg Host.Outcome.next ((State.serve_operands h (show parseEmpty [] = .ok () from rfl)
    fun s _ => periodClose s).trans ?_)
  rw [State.serve_of_takesNow h, periodClose_idle (s := s.dropHeadRequest.withoutMessages) hsweep, State.closeStart_eq]
  unfold State.lossTold
  have hreply : ∀ loss : State → State, _ := fun loss => congrArg (fun l : List Message =>
      s.closeRequested (loss { s with link := { s.link with requests := s.link.requests.tail, sendList := l } }))
    (List.append_nil (s.link.sendList ++ [{ code := 0x30, tag := tag, body := s.closingBody }]))
  by_cases hunread : s.unreadSnapshots = 0
  · rw [if_pos hunread, if_pos (show s.dropHeadRequest.withoutMessages.unreadSnapshots = 0 from hunread)]
    exact hreply id
  · rw [if_neg hunread, if_neg (show ¬ s.dropHeadRequest.withoutMessages.unreadSnapshots = 0 from hunread)]
    exact hreply (State.setFlag · .snapshotLost)

theorem Table.find_map_entry {α : Type} (t : Table α) (n : Nat) (f : Nat → α → α) :
    Table.find (t.map fun e => (e.1, f e.1 e.2)) n = (Table.find t n).map (f n) := by
  induction t with
  | nil => rfl
  | cons e es ih =>
    rw [List.map_cons, Table.find_cons, ih, Table.find_cons]
    split
    · rename_i hn
      rw [Option.map_some, hn]
    · rfl

theorem State.closedCarriers_eq (s : State) : s.closedCarriers = s.carriers.map fun e =>
    (e.1, if e.1 = 0 then e.2 else e.2.closePeriod (s.ratedOnCarrier e.1)) := by
  refine List.map_congr_left fun e _ => ?_
  split <;> rfl

/-- The account of a carrier after the start of a close (R159). -/
theorem State.find_closedCarriers (s : State) (n : Nat) : Table.find s.closedCarriers n =
    (Table.find s.carriers n).map fun k => if n = 0 then k else k.closePeriod (s.ratedOnCarrier n) := by
  rw [State.closedCarriers_eq]
  exact Table.find_map_entry s.carriers n fun m k => if m = 0 then k else k.closePeriod (s.ratedOnCarrier m)

/-- A boundary is taken off its mark (R160). -/
def State.boundaryTaken (s : State) : State := { s with periods := { s.periods with boundaryWaiting := false } }

theorem exec_periodBoundary_idle (hlow : s.resetLow = false) (hwaiting : s.periods.boundaryWaiting = true)
    (hsweep : s.periods.sweep = none) : exec .periodBoundary s = .next (s.boundaryTaken.closeStart .boundary) := by
  show execPeriodBoundary s = _
  simp [execPeriodBoundary, State.boundaryTaken, hlow, hwaiting, hsweep]

theorem exec_periodBoundary_deferred (hlow : s.resetLow = false) (hwaiting : s.periods.boundaryWaiting = true) {sw : Sweep}
    (hsweep : s.periods.sweep = some sw) : exec .periodBoundary s =
      .next { s with periods := { s.periods with boundaryWaiting := false, deferred := true } } := by
  show execPeriodBoundary s = _
  simp [execPeriodBoundary, hlow, hwaiting, hsweep]

/-- Settles O43: PERIOD CLOSE by whether a sweep is in flight, and so the boundary. -/
theorem periodClosesStart : Obligations.PeriodClosesStart := by
  unfold Obligations.PeriodClosesStart
  refine ⟨fun s tag h => ⟨fun hsweep => ?_, fun hsweep => ⟨_, exec_periodClose_idle h hsweep, ?_⟩⟩,
    fun s hlow hwaiting => ⟨fun hsweep => ?_, fun hsweep => ⟨_, exec_periodBoundary_idle hlow hwaiting hsweep, ?_⟩⟩⟩
  · refine request_reply (f := fun (_ : Unit) s => periodClose s) h rfl ?_
    exact if_pos hsweep
  · dsimp only
    rw [← s.unreadSnapshots_eq]
    refine ⟨?_, rfl, rfl, rfl⟩
    show s.closedCarriers = _
    unfold State.closedCarriers
    simp only [State.ratedOnCarrier_eq]
    rfl
  · obtain ⟨sw, hsweep⟩ := Option.isSome_iff_exists.mp hsweep
    exact exec_periodBoundary_deferred hlow hwaiting hsweep
  · rw [State.closeStart_eq]
    refine ⟨rfl, rfl, rfl, rfl, ⟨_, rfl, rfl, rfl, rfl, rfl⟩, fun c k hc hk => ?_, ?_, rfl⟩
    · refine ⟨_, (s.boundaryTaken.find_closedCarriers c).trans (by rw [show Table.find s.boundaryTaken.carriers c = some k from hk,
        Option.map_some, if_neg hc]), rfl, rfl, rfl⟩
    · show s.boundaryTaken.lossTold.link.sendList = _
      unfold State.lossTold
      split <;> rfl

/-! ### The sweep -/

/-- The context of a handle is not stale: a visit passes by it (R162). -/
def State.passes (s : State) (h : Nat) : Prop :=
  ∀ c r, s.call h = some c → c.rating = some r → s.periods.closed ≠ some r.mark

/-- A sweep after the visit of a handle (R162). -/
def Sweep.visited (sw : Sweep) : Sweep :=
  { sw with nextHandle := sw.nextHandle + 1, visitBeforeRequest := false, visitBeforeAdvance := false }

theorem State.visitCall_of_passes {h : Nat} (hp : s.passes h) : s.visitCall h = s := by
  unfold State.visitCall
  split
  · rfl
  · rename_i c hc
    split
    · rfl
    · rename_i r hr
      exact if_neg (hp c r hc hr)

theorem State.visitCall_of_stale {h : Nat} {c : Call} {r : Rating} (hc : s.call h = some c) (hr : c.rating = some r)
    (hclosed : s.periods.closed = some r.mark) : s.visitCall h = s.catchUp h c r false := by
  unfold State.visitCall
  rw [hc]
  dsimp only
  rw [hr]
  dsimp only
  rw [if_pos hclosed]

theorem exec_sweepVisit {sw : Sweep} (hlow : s.resetLow = false) (hsweep : s.periods.sweep = some sw) {v : State}
    (hv : s.visitCall sw.nextHandle = v) {counted : Sweep} (hcounted : v.periods.sweep = some counted)
    (hnext : counted.nextHandle = sw.nextHandle) :
    exec .sweepVisit s = .next (if 8191 ≤ sw.nextHandle then v.endSweep counted.visited
      else { v with periods := { v.periods with sweep := some counted.visited } }) := by
  show execSweepVisit s = _
  unfold execSweepVisit State.sweepVisit
  rw [hlow, if_neg (by decide), hsweep]
  dsimp only
  rw [hv, hcounted, Option.getD_some, ← hnext]
  rfl

/-- A visit before the last handle that passes by (R162). -/
theorem exec_sweepVisit_passing {sw : Sweep} (hlow : s.resetLow = false) (hsweep : s.periods.sweep = some sw)
    (hlt : sw.nextHandle < 8191) (hp : s.passes sw.nextHandle) :
    exec .sweepVisit s = .next { s with periods := { s.periods with sweep := some sw.visited } } := by
  rw [exec_sweepVisit hlow hsweep (State.visitCall_of_passes hp) hsweep rfl, if_neg (by omega)]

/-- The visit of a stale context (R162, R163). -/
theorem exec_sweepVisit_stale {sw : Sweep} {c : Call} {r : Rating} (hlow : s.resetLow = false)
    (hsweep : s.periods.sweep = some sw) (hc : s.call sw.nextHandle = some c) (hr : c.rating = some r)
    (hclosed : s.periods.closed = some r.mark) {f : Account → Account} {q : RecordQueue} {l : Link}
    (hdone : s.catchUp sw.nextHandle c r false = s.caughtUp sw.nextHandle c r false f q l) :
    exec .sweepVisit s = .next (if 8191 ≤ sw.nextHandle then
        (s.caughtUp sw.nextHandle c r false f q l).endSweep { sw.visited with bySweep := sw.bySweep + 1 }
      else { s.caughtUp sw.nextHandle c r false f q l with
        periods := { s.periods with sweep := some { sw.visited with bySweep := sw.bySweep + 1 } } }) := by
  refine exec_sweepVisit (counted := { sw with bySweep := sw.bySweep + 1 }) hlow hsweep
    ((State.visitCall_of_stale hc hr hclosed).trans hdone) ?_ rfl
  show s.periods.sweep.map _ = _
  rw [hsweep]
  rfl

/-- The end of a sweep with no boundary deferred (R164). -/
theorem State.endSweep_of_not_deferred (h : s.periods.deferred = false) (sw : Sweep) :
    s.endSweep sw = { s.sweepTold sw with periods := { s.periods with sweep := none } } := by
  have hperiods : (s.sweepTold sw).periods = s.periods := by unfold State.sweepTold; rw [State.raiseIf_periods]; rfl
  have hnone : ({ s.periods with sweep := none, deferred := false } : Periods) = { s.periods with sweep := none } := by
    rw [← h]
  rw [State.endSweep_eq, h, hperiods]
  exact congrArg (fun ps : Periods => ({ s.sweepTold sw with periods := ps } : State)) hnone

theorem State.endSweep_of_deferred (h : s.periods.deferred = true) (sw : Sweep) :
    s.endSweep sw = State.closeStart { s.sweepTold sw with
      periods := { (s.sweepTold sw).periods with sweep := none, deferred := false } } .boundary := if_pos h

/-- A snapshot that the end of a sweep completes (R164). -/
def Carrier.completed (k : Carrier) : Carrier := { k with snapshot := { k.snapshot with complete := true } }

theorem State.sweepTold_carriers (s : State) (sw : Sweep) :
    (s.sweepTold sw).carriers = Table.mapAll s.carriers Carrier.completed := by
  unfold State.sweepTold
  rw [State.raiseIf_carriers]
  rfl

theorem State.sweepTold_flag (s : State) (sw : Sweep) : (s.sweepTold sw).flag .period = true := by
  unfold State.sweepTold
  rw [State.flag_raiseIf, State.flag_setFlag, decide_eq_true rfl, Bool.or_true]

theorem State.sweepTold_frame (s : State) (sw : Sweep) :
    ∃ ks l, s.sweepTold sw = { s with carriers := ks, link := l } := by
  unfold State.sweepTold
  cases s.enabled .period <;> exact ⟨_, _, rfl⟩

theorem State.sweepTold_sendList (s : State) (sw : Sweep) (h : s.enabled .period = true) :
    ∃ tag, (s.sweepTold sw).link.sendList = s.link.sendList ++ [{
      code := codePeriod, tag := tag
      body := .noticePeriod (s.periods.closed.getD 0) s.periods.number sw.cause sw.bySweep sw.byTouch sw.snapshotsLost
        s.time.seconds s.clock }] := by
  unfold State.sweepTold
  rw [h]
  exact ⟨_, rfl⟩

/-- What the end of a sweep leaves of a part whose carriers have been read (R164). -/
theorem State.sweepTold_find {n : Nat} {k : Carrier} (hk : Table.find s.carriers n = some k) (sw : Sweep) :
    Table.find (s.sweepTold sw).carriers n = some k.completed := by
  rw [State.sweepTold_carriers, Table.find_mapAll, hk, Option.map_some]

theorem State.sweepTold_complete {n : Nat} {k : Carrier} {sw : Sweep} (hk : Table.find (s.sweepTold sw).carriers n = some k) :
    k.snapshot.complete = true := by
  rw [State.sweepTold_carriers, Table.find_mapAll] at hk
  obtain ⟨x, -, hx⟩ := Option.map_eq_some_iff.mp hk
  rw [← hx]
  rfl

/-- The end of a sweep on a part `u` that has told of the record queue alone (R164). -/
theorem State.sweepTold_spec {n : Nat} {k : Carrier} (hk : Table.find u.carriers n = some k)
    (henabled : u.enabled .period = s.enabled .period) (htold : s.TellsOnly u (· = codeQueue)) (sw : Sweep) :
    let t := u.sweepTold sw
    t.records = u.records ∧ t.calls = u.calls ∧ Table.find t.carriers n = some k.completed ∧
      (∀ j x, Table.find t.carriers j = some x → x.snapshot.complete = true) ∧ t.flag .period = true ∧
      (s.enabled .period = true → ∃ told tag, t.link.sendList = s.link.sendList ++ told ++ [{
        code := codePeriod, tag := tag
        body := .noticePeriod (u.periods.closed.getD 0) u.periods.number sw.cause sw.bySweep sw.byTouch sw.snapshotsLost
          u.time.seconds u.clock }] ∧ ∀ m ∈ told, m.code = codeQueue) := by
  obtain ⟨ks, l, hframe⟩ := u.sweepTold_frame sw
  refine ⟨by rw [hframe], by rw [hframe], State.sweepTold_find hk sw, fun j x hx => State.sweepTold_complete hx,
    u.sweepTold_flag sw, fun hon => ?_⟩
  obtain ⟨told, hlist, hcodes⟩ := htold
  obtain ⟨tag, hreport⟩ := u.sweepTold_sendList sw (henabled.trans hon)
  exact ⟨told, tag, hreport.trans (by rw [hlist]), hcodes⟩

/-- A visit before the last handle catches up a stale context whose record finds room (R143, R156, R162). -/
theorem sweepVisit_appends {sw : Sweep} {c : Call} {r : Rating} (hlow : s.resetLow = false)
    (hsweep : s.periods.sweep = some sw) (hc : s.call sw.nextHandle = some c) (hr : c.rating = some r)
    (hclosed : s.periods.closed = some r.mark) (hstale : r.mark ≠ s.periods.number)
    (howes : 0 < r.charge ∨ 0 < r.billed) (hroom : s.records.queue.length < 2048) :
    ∃ q l, let u := s.caughtUp sw.nextHandle c r false (·.addRecorded r.charge) q l
      exec .sweepVisit s = .next (if 8191 ≤ sw.nextHandle then
          u.endSweep { sw.visited with bySweep := sw.bySweep + 1 }
        else { u with periods := { s.periods with sweep := some { sw.visited with bySweep := sw.bySweep + 1 } } }) ∧
      q.queue = s.records.queue ++ [partialRecord sw.nextHandle c r] ∧ s.TellsOnly u (· = codeQueue) ∧
      u.enabled .period = s.enabled .period := by
  obtain ⟨q, l, hdone, hqueue, htold⟩ := State.catchUp_appending (h := sw.nextHandle) (c := c) hstale howes hroom false
  refine ⟨q, l, exec_sweepVisit_stale hlow hsweep hc hr hclosed hdone, hqueue, htold, ?_⟩
  have htells := s.tells_catchUp sw.nextHandle c r false
  rw [hdone] at htells
  unfold State.enabled
  rw [htells.enables]

theorem Rating.caughtUp_owing {r : Rating} (howes : 0 < r.charge ∨ 0 < r.billed) (n : Nat) : r.caughtUp n =
    { r with charge := 0, billed := 0, sequence := (r.sequence + 1) % 4294967296, mark := n } := by
  unfold Rating.caughtUp
  rw [if_pos ((Rating.owesPartial_iff r).mpr howes)]
  rfl

theorem Rating.caughtUp_owing_nothing {r : Rating} (hc : r.charge = 0) (hb : r.billed = 0) (n : Nat) :
    r.caughtUp n = { r with mark := n } := by
  have howes : ¬ r.owesPartial = true := mt (Rating.owesPartial_iff r).mp (by omega)
  unfold Rating.caughtUp
  rw [if_neg howes]
  obtain ⟨⟩ := r
  cases hc
  cases hb
  rfl

/-- What the end of a sweep reports (R164). -/
theorem State.sweepTold_link (s : State) (sw : Sweep) : (s.sweepTold sw).link =
    ((s.setFlag .period).raiseIf (s.enabled .period) codePeriod (.noticePeriod (s.periods.closed.getD 0) s.periods.number
      sw.cause sw.bySweep sw.byTouch sw.snapshotsLost s.time.seconds s.clock)).link := by
  unfold State.sweepTold
  cases s.enabled .period <;> rfl

/-- A part whose sweep ends, before a deferred boundary starts the next close (R164). -/
def State.sweepEnded (s : State) (sw : Sweep) : State :=
  { s.sweepTold sw with periods := { (s.sweepTold sw).periods with sweep := none, deferred := false } }

theorem State.sweepEnded_unread (s : State) (sw : Sweep) : (s.sweepEnded sw).unreadSnapshots = s.unreadSnapshots := by
  rw [State.unreadSnapshots_eq, State.unreadSnapshots_eq, show (s.sweepEnded sw).carriers = _ from s.sweepTold_carriers sw,
    Table.mapAll, List.countP_map]
  rfl

theorem State.sweepEnded_carriers (s : State) (sw : Sweep) : (s.sweepEnded sw).closedCarriers =
    s.carriers.map fun e => (e.1, if e.1 = 0 then e.2.completed else e.2.closePeriod (s.ratedOnCarrier e.1)) := by
  obtain ⟨ks, l, hframe⟩ := s.sweepTold_frame sw
  have hrated : ∀ n, (s.sweepEnded sw).ratedOnCarrier n = s.ratedOnCarrier n := fun n => by
    unfold State.sweepEnded
    rw [hframe]
    rfl
  rw [State.closedCarriers_eq, show (s.sweepEnded sw).carriers = _ from s.sweepTold_carriers sw, Table.mapAll, List.map_map]
  simp only [hrated]
  rfl

/-- Settles O44: the visit by what it finds, and the end of the sweep. -/
theorem sweepVisitsTheHandles : Obligations.SweepVisitsTheHandles := by
  unfold Obligations.SweepVisitsTheHandles
  intro s sw hlow hsweep passed moved notice
  refine ⟨fun hlt hp => exec_sweepVisit_passing hlow hsweep hlt hp, fun c r k hle hc hr hclosed hstale hk =>
    ⟨fun howes hroom hend => ?_, fun hcharge hbilled hlt => ?_, fun howes hfull hlt => ?_⟩, fun hlast hp closed hclosed =>
    ⟨fun hdef => ?_, fun hdef => ?_⟩⟩
  · obtain ⟨q, l, hexec, hqueue, htold, henabled⟩ := sweepVisit_appends hlow hsweep hc hr hclosed hstale howes hroom
    have hcall := (State.call_caughtUp hc r false (·.addRecorded r.charge) q l (c := c)).trans
      (by rw [Rating.caughtUp_owing howes])
    have hothers := fun h hh => State.call_caughtUp_of_ne (s := s) (m := h) (h := sw.nextHandle) hh c r false
      (·.addRecorded r.charge) q l
    have hcarrier := State.carrier_caughtUp hk sw.nextHandle r false (·.addRecorded r.charge) q l
    rcases Nat.lt_or_eq_of_le hle with hlt | heq
    · rw [if_neg (by omega)] at hexec
      exact ⟨_, hexec, hqueue, hcall, hothers, ⟨_, hcarrier, rfl, rfl, satAdd_eq_min ..⟩, fun _ => rfl, fun h => by omega⟩
    · have hdef : s.periods.deferred = false := hend.resolve_left (by omega)
      rw [if_pos (by omega), State.endSweep_of_not_deferred (s := State.caughtUp ..) hdef] at hexec
      obtain ⟨hrecords, hcalls, hfind, hcomplete, hflag, hreport⟩ := State.sweepTold_spec hcarrier (henabled := henabled)
        htold { sw.visited with bySweep := sw.bySweep + 1 }
      refine ⟨_, hexec, (congrArg RecordQueue.queue hrecords).trans hqueue, (State.call_congr hcalls _).trans hcall,
        fun h hh => (State.call_congr hcalls _).trans (hothers h hh), ⟨_, hfind, rfl, rfl, satAdd_eq_min ..⟩,
        fun h => by omega, fun _ => ⟨rfl, hflag, hcomplete, fun hon => ?_⟩⟩
      obtain ⟨told, tag', hlist, hcodes⟩ := hreport hon
      refine ⟨told, tag', hlist.trans ?_, hcodes⟩
      rw [show (s.caughtUp sw.nextHandle c r false (·.addRecorded r.charge) q l).periods.closed = some r.mark from hclosed]
      rfl
  · rw [exec_sweepVisit_stale hlow hsweep hc hr hclosed (State.catchUp_owing_nothing (by omega) false),
      if_neg (by omega)]
    unfold State.caughtUp
    rw [Rating.caughtUp_owing_nothing hcharge hbilled]
    rfl
  · have hexec := exec_sweepVisit_stale hlow hsweep hc hr hclosed
      (State.catchUp_dropping (h := sw.nextHandle) (c := c) hstale howes hfull false)
    rw [if_neg (by omega)] at hexec
    have hrecords : ({ s.records with dropped := satAdd max32 s.records.dropped 1 } : RecordQueue) =
        { s.records with dropped := min (s.records.dropped + 1) max32 } := by rw [satAdd_eq_min]
    generalize ({ s.records with dropped := satAdd max32 s.records.dropped 1 } : RecordQueue) = q at hexec hrecords
    have hcall := State.call_caughtUp hc r false (·.addOverflow r.charge) q (s.setFlag .overflow).link (c := c)
    rw [Rating.caughtUp_owing howes] at hcall
    exact ⟨_, hexec, hrecords, hcall, fun h hh => State.call_caughtUp_of_ne hh c r false (·.addOverflow r.charge) q
      (s.setFlag .overflow).link, ⟨_, State.carrier_caughtUp hk sw.nextHandle r false (·.addOverflow r.charge) q
      (s.setFlag .overflow).link, rfl, rfl, rfl, satAdd_eq_min .., satAdd_eq_min ..⟩, rfl, rfl⟩
  · rw [exec_sweepVisit hlow hsweep (State.visitCall_of_passes hp) hsweep rfl, if_pos (by omega),
      State.endSweep_of_not_deferred hdef]
    unfold State.sweepTold
    rw [hclosed]
    cases s.enabled .period <;> rfl
  · have hexec := exec_sweepVisit hlow hsweep (State.visitCall_of_passes hp) hsweep rfl
    rw [if_pos (by omega), State.endSweep_of_deferred hdef,
      show ({ s.sweepTold sw.visited with
        periods := { (s.sweepTold sw.visited).periods with sweep := none, deferred := false } } : State) =
          s.sweepEnded sw.visited from rfl, State.closeStart_eq] at hexec
    refine ⟨_, hexec, ?_⟩
    dsimp only
    rw [← State.unreadSnapshots_eq]
    obtain ⟨ks, l, hframe⟩ := s.sweepTold_frame sw.visited
    refine ⟨?_, ?_, ?_, ?_⟩
    · unfold State.closedPeriods
      rw [State.sweepEnded_unread]
      unfold State.sweepEnded
      rw [hframe]
    · rw [State.sweepEnded_carriers]
      simp only [State.ratedOnCarrier_eq]
      rfl
    · have hlink := s.sweepTold_link sw.visited
      rw [hclosed] at hlink
      unfold State.lossTold
      rw [State.sweepEnded_unread]
      by_cases hunread : s.unreadSnapshots = 0
      · rw [if_pos hunread, if_pos hunread]
        exact hlink
      · rw [if_neg hunread, if_neg hunread]
        exact congrArg (fun l : Link => { l with flags := l.flags ||| (1#14 <<< Flag.bit .snapshotLost) }) hlink
    · unfold State.sweepEnded
      rw [hframe]

end Sys2Proof.Machine
end

section
/-! PROOFS. The statements of the carrier requests and of the reading requests (R153 to R155, and the reads of every
chapter). -/

namespace Sys2Proof.Machine

open Sys2Proof

variable {s t u : State} {type : Byte} {tag : Tag} {p : List Byte}

/-! ### Carriers written and deleted -/

/-- What an evaluation of a cap tells (R155). -/
def State.capTold (s : State) (c : Nat) (k : Carrier) (cause : CapCause) : State :=
  if k.capHolds = true ∧ k.capReached = false then
    (s.setFlag .capped).raiseIf (s.enabled .capped && k.cappedNotice) codeCapped
      (.noticeCapped c k.cap k.account.accumulator cause s.time.seconds)
  else s

/-- An evaluation of a cap writes cap reached, and tells (R155). -/
theorem State.evaluateCap_told {c : Nat} {k : Carrier} (h : Table.find s.carriers c = some k) (cause : CapCause) :
    s.evaluateCap c cause = { s.capTold c k cause with
      carriers := Table.modify s.carriers c fun k => { k with capReached := k.capHolds } } := by
  unfold State.evaluateCap State.capTold
  rw [h]
  simp only [Bool.and_eq_true, Bool.not_eq_true']
  split
  · show State.raiseIf _ (s.enabled .capped && k.cappedNotice) _ _ = _
    cases s.enabled .capped && k.cappedNotice <;> rfl
  · rfl

/-- A carrier record put in place and its cap evaluated (R153, R155). -/
def State.putCarrier (s : State) (c : Nat) (k : Carrier) : State :=
  State.evaluateCap { s with carriers := Table.put s.carriers c k } c .capWritten

theorem State.replied_putCarrier (m : List Message) (c : Nat) (k : Carrier) :
    (s.putCarrier c k).replied m = (s.replied m).putCarrier c k := State.replied_evaluateCap _ m _ _

/-- A written carrier, the others, and what is told (R153, R155). -/
theorem State.putCarrier_spec (s : State) (c : Nat) (k : Carrier) :
    Table.find (s.putCarrier c k).carriers c = some { k with capReached := k.capHolds } ∧
      (∀ j, j ≠ c → Table.find (s.putCarrier c k).carriers j = Table.find s.carriers j) ∧
      { s.putCarrier c k with carriers := s.carriers } = s.capTold c k .capWritten := by
  have hput : Table.find (Table.put s.carriers c k) c = some k := by rw [Table.find_put, if_pos rfl]
  unfold State.putCarrier
  rw [State.evaluateCap_told (s := { s with carriers := Table.put s.carriers c k }) hput]
  refine ⟨?_, fun j hj => ?_, ?_⟩
  · dsimp only
    rw [Table.find_modify_self, hput, Option.map_some]
  · dsimp only
    rw [Table.find_modify_ne _ _ hj, Table.find_put_ne _ _ hj]
  · unfold State.capTold
    split
    · show ({ State.raiseIf _ (s.enabled .capped && k.cappedNotice) _ _ with carriers := s.carriers } : State) = _
      cases s.enabled .capped && k.cappedNotice <;> rfl
    · rfl

theorem State.carrierInGroup_iff (c : Nat) : s.carrierInGroup c = true ↔ ∃ e ∈ s.groups, e.2.defn.carrier = c := by
  simp only [State.carrierInGroup, List.any_eq_true, beq_iff_eq]

theorem carrierWrite_defines {o : CarrierOperands} (hzero : o.carrier ≠ 0) (hk : Table.find s.carriers o.carrier = none) :
    carrierWrite o s = (.carrierWritten false false (Carrier.fresh o).capHolds 0,
      s.putCarrier o.carrier (Carrier.fresh o)) := by
  unfold carrierWrite
  rw [if_neg hzero, hk]
  rfl

theorem carrierWrite_changes {o : CarrierOperands} {k : Carrier} (hzero : o.carrier ≠ 0)
    (hk : Table.find s.carriers o.carrier = some k) :
    carrierWrite o s = (.carrierWritten true k.capReached (k.rewritten o).capHolds k.account.accumulator,
      s.putCarrier o.carrier (k.rewritten o)) := by
  unfold carrierWrite
  rw [if_neg hzero, hk]
  rfl

/-- A carrier defined anew has charged nothing that a cap could hold it for (R153, R155). -/
theorem Carrier.fresh_capHolds (o : CarrierOperands) : (Carrier.fresh o).capHolds = false :=
  decide_eq_false fun h => h.1 (Nat.le_zero.mp h.2)

theorem carrierDelete_eq {c : Nat} {k : Carrier} (hzero : c ≠ 0) (hk : Table.find s.carriers c = some k) :
    carrierDelete c s = if 0 < k.openCalls ∨ s.carrierInGroup c = true then (.result .objectInUse, s)
      else (.carrierDeleted k.account k.snapshot, { s with carriers := Table.erase s.carriers c }) := by
  unfold carrierDelete
  rw [if_neg hzero, hk]
  dsimp only
  by_cases hopen : 0 < k.openCalls
  · rw [if_pos hopen, if_pos (.inl hopen)]
    rfl
  · by_cases hgroup : s.carrierInGroup c = true
    · rw [if_neg hopen, if_pos hgroup, if_pos (.inr hgroup)]
      rfl
    · rw [if_neg hopen, if_neg hgroup, if_neg (not_or.mpr ⟨hopen, hgroup⟩)]

/-- Settles O42: the carrier put in place on the answer, or erased from it. -/
theorem carriersWrittenAndDeleted : Obligations.CarriersWrittenAndDeleted := by
  unfold Obligations.CarriersWrittenAndDeleted
  refine ⟨fun s tag p o hp htake => ⟨fun hzero => ?_, fun hzero hk => ?_, fun k hzero hk => ?_⟩,
    fun s tag p c k hp htake hzero hk => ⟨fun hused => ?_, fun hopen hgroups => ?_⟩, fun s tag p hp htake => ?_⟩
  · refine request_reply (f := carrierWrite) htake hp ?_
    exact if_pos hzero
  · have hrun := carrierWrite_defines (s := s.dropHeadRequest.withoutMessages) hzero hk
    rw [Carrier.fresh_capHolds] at hrun
    obtain ⟨hself, hothers, htold⟩ := (s.answer 0x2C tag (.carrierWritten false false false 0)).putCarrier_spec o.carrier
      (Carrier.fresh o)
    rw [State.capTold, if_neg (by rw [Carrier.fresh_capHolds]; exact fun h => Bool.false_ne_true h.1)] at htold
    rw [Carrier.fresh_capHolds] at hself
    exact ⟨_, request_effect (op := fun t => t.putCarrier o.carrier (Carrier.fresh o)) htake hp
      (fun t m => State.replied_putCarrier m _ _) hrun, hself, hothers, htold⟩
  · obtain ⟨hself, hothers, htold⟩ := (s.answer 0x2C tag (.carrierWritten true k.capReached (k.rewritten o).capHolds
      k.account.accumulator)).putCarrier_spec o.carrier (k.rewritten o)
    exact ⟨_, request_effect (op := fun t => t.putCarrier o.carrier (k.rewritten o)) htake hp
      (fun t m => State.replied_putCarrier m _ _)
      (carrierWrite_changes (s := s.dropHeadRequest.withoutMessages) hzero hk), hself, hothers, htold⟩
  · refine request_reply (f := carrierDelete) htake hp ((carrierDelete_eq (s := s.dropHeadRequest.withoutMessages) hzero
      hk).trans (if_pos ?_))
    exact hused.imp_right (State.carrierInGroup_iff (s := s) c).mpr
  · refine ⟨_, request_effect (f := carrierDelete) (op := fun t => { t with carriers := Table.erase t.carriers c }) htake hp
      (fun _ _ => rfl) ((carrierDelete_eq (s := s.dropHeadRequest.withoutMessages) hzero hk).trans (if_neg ?_)),
      Table.find_erase_self _ _, fun j hj => (Table.find_erase _ _ _).trans (if_neg hj), rfl⟩
    refine not_or.mpr ⟨by omega, fun hgroup => ?_⟩
    obtain ⟨e, he, hcarrier⟩ := (State.carrierInGroup_iff (s := s) c).mp hgroup
    exact hgroups e he hcarrier
  · refine request_reply (f := carrierDelete) htake hp ?_
    exact if_pos rfl

end Sys2Proof.Machine
end

section
/-! PROOFS. The statements of the reading requests: each replies with what stands (R24, R31, R47, R48, R51, R70, R105,
R110, R120, R127, R129, R135, R165, R180). -/

namespace Sys2Proof.Machine

open Sys2Proof

variable {s t u : State} {type : Byte} {tag : Tag} {p : List Byte}

/-! ### What the reads reply -/

theorem groupRead_of {g : Nat} {grp : Group} (h : Table.find s.groups g = some grp) : groupRead g s =
    (.groupRead grp.defn grp.members grp.members.length grp.busyCount (grp.members.countP s.available) grp.rotary
      grp.overflowCount, s) := by
  unfold groupRead State.availableCount
  rw [h]
  dsimp only
  rw [← List.countP_eq_length_filter]

theorem prefixLookup_routed {d x : List Nat} {plan : Nat} (h : s.lookup d = .routed x plan) :
    prefixLookup d s = (.lookupRouted x plan s.prefixes.length, s) := by
  unfold prefixLookup
  rw [h]

theorem prefixLookup_noMatch {d : List Nat} (h : s.lookup d = .noMatch) :
    prefixLookup d s = (.lookupUnroutable none s.prefixes.length, s) := by
  unfold prefixLookup
  rw [h]

theorem prefixLookup_planUndefined {d x : List Nat} {plan : Nat} (h : s.lookup d = .planUndefined x plan) :
    prefixLookup d s = (.lookupUnroutable (some (x, plan)) s.prefixes.length, s) := by
  unfold prefixLookup
  rw [h]

theorem planRead_of {n : Nat} {x : Plan} (h : Table.find s.plans n = some x) : planRead n s =
    (.planRead ((numberEntries x.entries 0).map fun c => (⟨c.group, c.role⟩, c.number)) x.ceiling x.stickyGroup
      (x.candidateOrder.map Candidate.group) (s.prefixes.countP fun e => e.plan == n)
      (s.calls.countP fun e => !e.2.answered && e.2.plan == n), s) := by
  unfold planRead
  rw [h]
  dsimp only
  rw [State.prefixesOnPlan, State.seizedOnPlan, State.countCalls, ← List.countP_eq_length_filter,
    ← List.countP_eq_length_filter]

theorem callRead_of {h : Nat} {c : Call} (hc : s.call h = some c) : callRead h s = (.callRead h c, s) := by
  unfold callRead
  rw [hc]

theorem groupReport_of {g : Nat} {grp : Group} (h : Table.find s.groups g = some grp) (clear : Bool) :
    groupReport g clear s = (.groupReport g grp.level grp.history grp.overflowCount grp.current grp.previous
      s.monitor.samplesInInterval s.monitor.statsInterval s.monitor.hold,
      if clear then s.countStats g fun _ => Stats.zero else s) := by
  unfold groupReport
  rw [h]

theorem tariffRead_of {n : Nat} {e : Tariff} (h : Table.find s.tariffs n = some e) : tariffRead n s =
    (.tariffRead e (s.groups.countP fun x => x.2.defn.tariff == some n)
      (s.calls.countP fun x => x.2.rating.any fun r => r.tariff == n) s.band (e.active.rate s.band), s) := by
  unfold tariffRead
  rw [h]
  dsimp only
  rw [State.groupsOnTariff_eq, State.ratingsOnTariff_eq]

theorem carrierReport_of {n : Nat} {k : Carrier} (h : Table.find s.carriers n = some k) : carrierReport n s =
    (.carrierReport k.admin k.cap k.capReached k.cappedNotice k.openCalls k.account s.periods.number, s) := by
  unfold carrierReport
  rw [h]

theorem State.groupsAt_eq (s : State) (l : Level) : s.groupsAt l = s.groups.countP fun e => e.2.level == l :=
  List.countP_eq_length_filter.symm

/-! ### The numbers of a plan's entries -/

/-- The number of an entry counts on from `next` over the ALTERNATE entries before it (R48). -/
theorem numberEntries_getElem? : ∀ (es : List PlanEntry) (next i : Nat) (e : PlanEntry), es[i]? = some e →
    ∃ c, (numberEntries es next)[i]? = some c ∧ c.group = e.group ∧ c.role = e.role ∧
      c.number = if e.role = .alternate then some (next + (es.take i).countP fun y => y.role == .alternate) else none
  | [], _, _, _, he => absurd he (by simp)
  | x :: xs, next, 0, e, he => by
    cases Option.some.inj he
    cases hrole : x.role <;> simp [numberEntries, hrole]
  | x :: xs, next, i + 1, e, he => by
    cases hrole : x.role
    · obtain ⟨c, hc, hrest⟩ := numberEntries_getElem? xs next i e he
      refine ⟨c, by simpa [numberEntries, hrole] using hc, ?_⟩
      simpa [List.take_succ_cons, List.countP_cons, hrole] using hrest
    · obtain ⟨c, hc, hrest⟩ := numberEntries_getElem? xs (next + 1) i e he
      refine ⟨c, by simpa [numberEntries, hrole] using hc, ?_⟩
      simpa [List.take_succ_cons, List.countP_cons, hrole, Nat.add_assoc, Nat.add_comm 1] using hrest

/-! ### The earliest pending version -/

theorem earliestStaged_cons_none {e : Nat × Tariff} (es : List (Nat × Tariff)) (h : e.2.staged = none) :
    earliestStaged (e :: es) = earliestStaged es := by
  rw [earliestStaged, h]

theorem earliestStaged_cons_some {e : Nat × Tariff} (es : List (Nat × Tariff)) {v : PendingVersion}
    (h : e.2.staged = some v) : earliestStaged (e :: es) = some (v.effective.earlier (earliestStaged es)) := by
  rw [earliestStaged, h]

theorem earliestStaged_of_none : ∀ (ts : List (Nat × Tariff)), (∀ e ∈ ts, e.2.staged = none) → earliestStaged ts = none
  | [], _ => rfl
  | e :: es, h => by
    rw [earliestStaged_cons_none es (h e List.mem_cons_self)]
    exact earliestStaged_of_none es fun x hx => h x (List.mem_cons_of_mem _ hx)

theorem Instant.reachedBy_refl (i : Instant) : i.reachedBy i = true := by
  simp [Instant.reachedBy]

theorem Instant.reachedBy_iff (i j : Instant) :
    i.reachedBy j = true ↔ i.day < j.day ∨ (i.day = j.day ∧ i.time ≤ j.time) := by
  simp [Instant.reachedBy]

/-- The earlier of an instant and another comes before both (R127). -/
theorem Instant.earlier_reachedBy (i j : Instant) :
    (i.earlier (some j)).reachedBy i = true ∧ (i.earlier (some j)).reachedBy j = true := by
  by_cases h : i.reachedBy j = true
  · rw [show i.earlier (some j) = i from if_pos h]
    exact ⟨i.reachedBy_refl, h⟩
  · rw [show i.earlier (some j) = j from if_neg h]
    refine ⟨?_, j.reachedBy_refl⟩
    rw [Instant.reachedBy_iff] at h ⊢
    omega

theorem Instant.reachedBy_trans {i j k : Instant} (h : i.reachedBy j = true) (h' : j.reachedBy k = true) :
    i.reachedBy k = true := by
  rw [Instant.reachedBy_iff] at h h' ⊢
  omega

/-- The earliest pending version is one of the pending versions (R127). -/
theorem earliestStaged_mem : ∀ (ts : List (Nat × Tariff)) {i : Instant}, earliestStaged ts = some i →
    ∃ f ∈ ts, ∃ w, f.2.staged = some w ∧ w.effective = i
  | [], _, h => nomatch h
  | e :: es, i, h => by
    have hlater : ∀ {j}, earliestStaged es = some j → j = i → ∃ f ∈ e :: es, ∃ w, f.2.staged = some w ∧ w.effective = i := by
      rintro j hj rfl
      obtain ⟨f, hf, hw⟩ := earliestStaged_mem es hj
      exact ⟨f, List.mem_cons_of_mem _ hf, hw⟩
    cases hstaged : e.2.staged with
    | none =>
      rw [earliestStaged_cons_none es hstaged] at h
      exact hlater h rfl
    | some v =>
      rw [earliestStaged_cons_some es hstaged] at h
      have hi := Option.some.inj h
      cases hrest : earliestStaged es with
      | none =>
        rw [hrest] at hi
        exact ⟨e, List.mem_cons_self, v, hstaged, hi⟩
      | some j =>
        rw [hrest, Instant.earlier] at hi
        split at hi
        · exact ⟨e, List.mem_cons_self, v, hstaged, hi⟩
        · exact hlater hrest hi

/-- The earliest pending version comes before every other (R127). -/
theorem earliestStaged_reachedBy : ∀ (ts : List (Nat × Tariff)) {e : Nat × Tariff} {v : PendingVersion}, e ∈ ts →
    e.2.staged = some v → ∃ i, earliestStaged ts = some i ∧ i.reachedBy v.effective = true
  | [], _, _, he, _ => absurd he List.not_mem_nil
  | x :: xs, e, v, he, hv => by
    rcases List.mem_cons.mp he with rfl | hmem
    · refine ⟨_, earliestStaged_cons_some xs hv, ?_⟩
      cases earliestStaged xs with
      | none => exact Instant.reachedBy_refl _
      | some j => exact (Instant.earlier_reachedBy _ j).1
    · obtain ⟨j, hj, hreached⟩ := earliestStaged_reachedBy xs hmem hv
      cases hx : x.2.staged with
      | none => exact ⟨j, (earliestStaged_cons_none xs hx).trans hj, hreached⟩
      | some w =>
        refine ⟨_, earliestStaged_cons_some xs hx, ?_⟩
        rw [hj]
        exact Instant.reachedBy_trans (Instant.earlier_reachedBy _ j).2 hreached

/-! ### The statement -/

theorem exec_monitorRead (h : s.takesNow 0x20 tag []) : exec (.monitorRead tag []) s =
    .next (s.answer 0x20 tag (.monitorRead s.monitor (s.groups.countP fun e => e.2.level == .clear)
      (s.groups.countP fun e => e.2.level == .busy) (s.groups.countP fun e => e.2.level == .congested))) := by
  refine request_reply (parse := parseEmpty) (a := ()) (f := fun _ s => (.monitorRead s.monitor (s.groupsAt .clear)
    (s.groupsAt .busy) (s.groupsAt .congested), s)) h rfl ?_
  rw [State.groupsAt_eq, State.groupsAt_eq, State.groupsAt_eq]
  rfl

theorem exec_guardRead (h : s.takesNow 0x23 tag []) :
    exec (.guardRead tag []) s = .next (s.answer 0x23 tag (.guardRead s.guard s.monitor.hold)) :=
  request_reply (parse := parseEmpty) (a := ()) (f := fun _ s => (.guardRead s.guard s.monitor.hold, s)) h rfl rfl

/-- What CLOCK READ replies (R127). -/
def State.clockReading (s : State) : Body :=
  .clockRead s.time.seconds s.clock s.slot s.band (s.tariffs.filter fun e => e.2.staged.isSome).length
    (earliestStaged s.tariffs)

theorem State.clockReading_eq (s : State) : s.clockReading =
    .clockRead s.time.seconds s.clock (s.time.timeOfDay / 1800) (s.bandMap.getD (s.time.timeOfDay / 1800) 0)
      (s.tariffs.countP fun e => e.2.staged.isSome) (earliestStaged s.tariffs) := by
  rw [List.countP_eq_length_filter]
  rfl

theorem exec_clockRead (h : s.takesNow 0x25 tag []) :
    exec (.clockRead tag []) s = .next (s.answer 0x25 tag s.clockReading) :=
  request_reply (parse := parseEmpty) (a := ()) (f := fun _ s => (s.clockReading, s)) h rfl rfl

theorem exec_bandMapRead (h : s.takesNow 0x27 tag []) : exec (.bandMapRead tag []) s = .next (s.answer 0x27 tag
    (.bandMapRead s.bandMap (s.time.timeOfDay / 1800) (s.bandMap.getD (s.time.timeOfDay / 1800) 0))) :=
  request_reply (parse := parseEmpty) (a := ()) (f := fun _ s => (.bandMapRead s.bandMap s.slot s.band, s)) h rfl rfl

theorem exec_queueRead (h : s.takesNow 0x35 tag []) : exec (.queueRead tag []) s = .next (s.answer 0x35 tag
    (.queueRead s.records.queue.length s.records.mode s.records.ae s.records.af s.records.almostEmpty
      s.records.almostFull
      (if s.recordInTransmission then s.records.queue.head?.map fun r => (r.serial, r.sequence) else none)
      s.records.queue.head? s.records.dropped s.records.lost s.records.lastLost)) :=
  request_reply (parse := parseEmpty) (a := ()) (f := fun _ s => queueRead s) h rfl rfl

/-- Settles O55: each read on the part without its request. -/
theorem readingRequestsOnlyReply : Obligations.ReadingRequestsOnlyReply := by
  unfold Obligations.ReadingRequestsOnlyReply
  refine ⟨fun s tag p => ⟨?span, ?group, ?lookup, ?unroutable, ?plan, ?call, ?report, ?tariff, ?carrier, ?monitor, ?guard,
    ?clock, ?bands, ?queue⟩, fun x i e he => ?numbers, fun s => ⟨earliestStaged_of_none _, fun e he v hv => ?earliest⟩⟩
  case span =>
    intro sp hp h
    refine request_reply (f := spanReport) h hp ?_
    unfold spanReport Scope.circuits
    rw [List.map_map]
    rfl
  case group =>
    intro g grp hp hg h
    refine request_reply (f := groupRead) h hp ?_
    exact groupRead_of (s := s.dropHeadRequest.withoutMessages) hg
  case lookup =>
    intro d x plan hp hl h
    refine request_reply (f := prefixLookup) h hp ?_
    exact prefixLookup_routed (s := s.dropHeadRequest.withoutMessages) hl
  case unroutable =>
    intro d hp h
    refine ⟨fun hl => ?_, fun x plan hl => ?_⟩ <;> refine request_reply (f := prefixLookup) h hp ?_
    · exact prefixLookup_noMatch (s := s.dropHeadRequest.withoutMessages) hl
    · exact prefixLookup_planUndefined (s := s.dropHeadRequest.withoutMessages) hl
  case plan =>
    intro plan x hp hx h
    refine request_reply (f := planRead) h hp ?_
    exact planRead_of (s := s.dropHeadRequest.withoutMessages) hx
  case call =>
    intro n c hp hc h
    refine request_reply (f := callRead) h hp ?_
    exact callRead_of (s := s.dropHeadRequest.withoutMessages) hc
  case report =>
    intro g clear grp hp h hg
    cases clear
    · refine request_reply (f := fun (o : Nat × Bool) => groupReport o.1 o.2) h hp ?_
      exact groupReport_of (s := s.dropHeadRequest.withoutMessages) hg false
    · refine request_effect (f := fun (o : Nat × Bool) => groupReport o.1 o.2)
        (op := fun t => t.countStats g fun _ => Stats.zero) h hp (fun _ _ => rfl) ?_
      exact groupReport_of (s := s.dropHeadRequest.withoutMessages) hg true
  case tariff =>
    intro n e hp he h
    refine request_reply (f := tariffRead) h hp ?_
    exact tariffRead_of (s := s.dropHeadRequest.withoutMessages) he
  case carrier =>
    intro n k hp hk h
    refine request_reply (f := carrierReport) h hp ?_
    exact carrierReport_of (s := s.dropHeadRequest.withoutMessages) hk
  case monitor => exact exec_monitorRead
  case guard => exact exec_guardRead
  case clock =>
    intro h
    rw [exec_clockRead h, State.clockReading_eq]
  case bands => exact exec_bandMapRead
  case queue => exact exec_queueRead
  case numbers =>
    obtain ⟨c, hc, hgroup, hrole, hnumber⟩ := numberEntries_getElem? x.entries 0 i e he
    exact ⟨c, hc, hgroup, hrole, hnumber.trans (by rw [Nat.zero_add])⟩
  case earliest =>
    obtain ⟨i, hi, hreached⟩ := earliestStaged_reachedBy s.tariffs he hv
    exact ⟨i, hi, hreached, earliestStaged_mem s.tariffs hi⟩

end Sys2Proof.Machine
end

section
/-! PROOFS. The activation of the pending versions that the clock has reached: the statement of the pending switch and of
CLOCK SET (R126, R132). -/

namespace Sys2Proof.Machine

open Sys2Proof

variable {s t u : State} {type : Byte} {tag : Tag} {p : List Byte}

/-! ### Flags and notices -/

theorem State.setFlag_setFlag (s : State) (f : Flag) : (s.setFlag f).setFlag f = s.setFlag f := by
  unfold State.setFlag
  dsimp only
  rw [BitVec.or_assoc, BitVec.or_self]

theorem State.setFlag_raiseIf (s : State) (f : Flag) (on : Bool) (k : Nat) (b : Body) :
    (s.setFlag f).raiseIf on k b = (s.raiseIf on k b).setFlag f := by cases on <;> rfl

/-! ### What is told of the versions that are activated -/

/-- The pending versions of a table that a clock has reached, with their instants (R132). -/
def reachedVersions (ts : List (Nat × Tariff)) (clock : Instant) : List (Nat × Instant) :=
  ts.filterMap fun e => (e.2.staged.filter fun v => v.effective.reachedBy clock).map fun v => (e.1, v.effective)

/-- The body of a TARIFF notice (R132). -/
def State.tariffNotice (s : State) (cause : TariffCause) (clock : Instant) (e : Nat × Instant) : Body :=
  .noticeTariff e.1 e.2 cause clock s.time.seconds (s.groups.countP fun x => x.2.defn.tariff == some e.1)
    (s.calls.countP fun x => x.2.rating.any fun r => r.tariff == e.1)

/-- One activation as it is told: the flag, and the notice (R132). -/
def State.tellTariff (s : State) (cause : TariffCause) (clock : Instant) (told : State) (e : Nat × Instant) : State :=
  (told.setFlag .tariff).raiseIf (s.enabled .tariff) codeTariff (s.tariffNotice cause clock e)

/-- The flag is set once, by the first activation (R132). -/
theorem State.tellTariff_flagged (s : State) (cause : TariffCause) (clock : Instant) :
    ∀ (rs : List (Nat × Instant)) (told : State), rs.foldl (s.tellTariff cause clock) (told.setFlag .tariff) =
      rs.foldl (fun u e => u.raiseIf (s.enabled .tariff) codeTariff (s.tariffNotice cause clock e)) (told.setFlag .tariff)
  | [], _ => rfl
  | e :: rs, told => by
    have hstep : s.tellTariff cause clock (told.setFlag .tariff) e =
        (told.setFlag .tariff).raiseIf (s.enabled .tariff) codeTariff (s.tariffNotice cause clock e) := by
      rw [State.tellTariff, State.setFlag_setFlag]
    rw [List.foldl_cons, List.foldl_cons, hstep, State.setFlag_raiseIf]
    exact State.tellTariff_flagged s cause clock rs _

theorem State.tariffsTold_eq (s told : State) (cause : TariffCause) (clock : Instant) :
    s.tariffsTold told cause clock = (reachedVersions s.tariffs clock).foldl (s.tellTariff cause clock) told := by
  unfold State.tariffsTold
  change (if reachedVersions s.tariffs clock = [] then _ else (reachedVersions s.tariffs clock).foldl _ _) = _
  cases reachedVersions s.tariffs clock with
  | nil => rfl
  | cons e rs =>
    have hlater := State.tellTariff_flagged s cause clock rs
      (told.raiseIf (s.enabled .tariff) codeTariff (s.tariffNotice cause clock e))
    rw [← State.setFlag_raiseIf] at hlater
    rw [if_neg (List.cons_ne_nil e rs)]
    exact hlater.symm

/-! ### The activation -/

/-- A tariff after its pending version is activated (R132). -/
def Tariff.activated (e : Tariff) : Tariff :=
  match e.staged with
  | none => e
  | some v => { active := v.version, staged := none }

theorem State.activateTariff_eq {cause : TariffCause} {n : Nat} {e : Tariff} {v : PendingVersion}
    (he : Table.find s.tariffs n = some e) (hv : e.staged = some v) :
    s.activateTariff cause n = { s.tellTariff cause s.clock s (n, v.effective) with
      tariffs := Table.modify s.tariffs n fun _ => { active := v.version, staged := none } } := by
  unfold State.activateTariff State.tellTariff State.tariffNotice
  rw [he, Option.bind_some, hv, State.groupsOnTariff_eq, State.ratingsOnTariff_eq]
  dsimp only
  show State.raiseIf _ (s.enabled .tariff) _ _ = _
  cases s.enabled .tariff <;> rfl

theorem State.tellTariff_withTariffs (s told : State) (cause : TariffCause) (clock : Instant) (e : Nat × Instant)
    (ts : Table Tariff) : s.tellTariff cause clock { told with tariffs := ts } e =
      { s.tellTariff cause clock told e with tariffs := ts } := by
  unfold State.tellTariff
  cases s.enabled .tariff <;> rfl

theorem State.foldl_tellTariff_withTariffs (s : State) (cause : TariffCause) (clock : Instant) (ts : Table Tariff) :
    ∀ (rs : List (Nat × Instant)) (told : State), rs.foldl (s.tellTariff cause clock) { told with tariffs := ts } =
      { rs.foldl (s.tellTariff cause clock) told with tariffs := ts }
  | [], _ => rfl
  | e :: rs, told => by
    rw [List.foldl_cons, List.foldl_cons, State.tellTariff_withTariffs]
    exact State.foldl_tellTariff_withTariffs s cause clock ts rs _

/-- An activation tells of tariffs alone. -/
theorem State.tellTariff_frame (s told : State) (cause : TariffCause) (clock : Instant) (e : Nat × Instant) :
    ∃ l, s.tellTariff cause clock told e = { told with link := l } ∧ l.enables = told.link.enables := by
  unfold State.tellTariff
  cases s.enabled .tariff <;> exact ⟨_, rfl, rfl⟩

/-- Two parts with one clock, groups, calls and enables tell the same of a tariff. -/
theorem State.tellTariff_congr (he : t.link.enables = s.link.enables) (hg : t.groups = s.groups) (hc : t.calls = s.calls)
    (ht : t.time = s.time) : t.tellTariff = s.tellTariff := by
  funext cause clock told e
  unfold State.tellTariff State.tariffNotice State.enabled
  rw [he, hg, hc, ht]

/-- Activations one after another (R126, R132). -/
theorem State.foldl_activateTariff (cause : TariffCause) : ∀ (rs : List (Nat × Instant)) (s : State),
    (rs.map Prod.fst).Nodup →
    (∀ e ∈ rs, ∃ x v, Table.find s.tariffs e.1 = some x ∧ x.staged = some v ∧ v.effective = e.2) →
    ∃ ts, (rs.map Prod.fst).foldl (State.activateTariff cause) s =
        { rs.foldl (s.tellTariff cause s.clock) s with tariffs := ts } ∧
      ∀ n, Table.find ts n = if n ∈ rs.map Prod.fst then (Table.find s.tariffs n).map Tariff.activated
        else Table.find s.tariffs n
  | [], s, _, _ => ⟨s.tariffs, rfl, fun _ => rfl⟩
  | e :: rs, s, hnodup, hall => by
    obtain ⟨x, v, hx, hv, heff⟩ := hall e List.mem_cons_self
    obtain ⟨hnotin, hnodup'⟩ := List.nodup_cons.mp hnodup
    have hstep := State.activateTariff_eq (cause := cause) hx hv
    rw [heff] at hstep
    obtain ⟨l, hframe, henables⟩ := s.tellTariff_frame s cause s.clock e
    have hfind : ∀ n, Table.find (s.activateTariff cause e.1).tariffs n =
        if n = e.1 then some x.activated else Table.find s.tariffs n := by
      intro n
      rw [hstep, Tariff.activated, hv]
      dsimp only
      split
      · rename_i hn
        rw [hn, Table.find_modify_self, hx, Option.map_some]
      · rename_i hn
        rw [Table.find_modify_ne _ _ hn]
    have hrest : ∀ e' ∈ rs, e'.1 ≠ e.1 := fun e' he' heq => hnotin (heq ▸ List.mem_map_of_mem he')
    obtain ⟨ts, hdone, hts⟩ := State.foldl_activateTariff cause rs (s.activateTariff cause e.1) hnodup' fun e' he' => by
      rw [hfind, if_neg (hrest e' he')]
      exact hall e' (List.mem_cons_of_mem _ he')
    refine ⟨ts, ?_, fun n => ?_⟩
    · have hsame : (s.activateTariff cause e.1).tellTariff = s.tellTariff := by
        rw [hstep, hframe]
        exact State.tellTariff_congr henables rfl rfl rfl
      have hclock : (s.activateTariff cause e.1).clock = s.clock := by rw [hstep, hframe]; rfl
      rw [List.map_cons, List.foldl_cons, hdone, hsame, hclock, hstep, State.foldl_tellTariff_withTariffs]
      rfl
    · rw [hts, hfind]
      by_cases hn : n = e.1
      · rw [if_neg (hn ▸ hnotin), if_pos hn, if_pos (hn ▸ List.mem_cons_self), hn, hx, Option.map_some]
      · simp only [List.map_cons, List.mem_cons, hn, if_false, false_or]

/-! ### What is activated -/

theorem mem_reachedVersions {ts : List (Nat × Tariff)} {clock : Instant} {r : Nat × Instant} :
    r ∈ reachedVersions ts clock ↔
      ∃ e ∈ ts, ∃ v, e.2.staged = some v ∧ v.effective.reachedBy clock = true ∧ r = (e.1, v.effective) := by
  unfold reachedVersions
  simp only [List.mem_filterMap, Option.map_eq_some_iff, Option.filter_eq_some_iff]
  grind

theorem map_fst_reachedVersions (ts : List (Nat × Tariff)) (clock : Instant) :
    (reachedVersions ts clock).map Prod.fst = (ts.filter fun e => e.2.reachedBy clock).map fun e => e.1 := by
  induction ts with
  | nil => rfl
  | cons e es ih =>
    unfold reachedVersions at ih ⊢
    cases hstaged : e.2.staged with
    | none => simpa [List.filterMap_cons, List.filter_cons, Tariff.reachedBy, hstaged] using ih
    | some v => by_cases hreached : v.effective.reachedBy clock = true <;>
        simpa [List.filterMap_cons, List.filter_cons, Tariff.reachedBy, hstaged, hreached] using ih

theorem nodup_reachedVersions {ts : Table Tariff} (hr : Table.rising ts = true) (clock : Instant) :
    ((reachedVersions ts clock).map Prod.fst).Nodup := by
  rw [map_fst_reachedVersions]
  have hsorted := ((Table.rising_iff ts).mp hr).filter fun e => e.2.reachedBy clock
  exact (List.pairwise_map.mpr (hsorted.imp fun h => Nat.ne_of_lt h))

/-- The activation of what the clock has reached: the tariffs, and what is told (R126, R132). -/
theorem State.activateReached_spec (hr : Table.rising s.tariffs = true) (cause : TariffCause) :
    ∃ ts, s.activateReached cause = { s.tariffsTold s cause s.clock with tariffs := ts } ∧
      activatedBy s.tariffs ts s.clock := by
  obtain ⟨ts, hdone, hts⟩ := State.foldl_activateTariff cause (reachedVersions s.tariffs s.clock) s
    (nodup_reachedVersions hr s.clock) fun r hmem => by
      obtain ⟨e, he, v, hv, -, rfl⟩ := mem_reachedVersions.mp hmem
      exact ⟨e.2, v, Table.find_of_mem hr he, hv, rfl⟩
  rw [map_fst_reachedVersions] at hdone
  refine ⟨ts, hdone.trans (by rw [State.tariffsTold_eq]), fun tf e he => ⟨fun v hv hreached => ?_, fun hnone => ?_⟩⟩
  · have hmem : tf ∈ (reachedVersions s.tariffs s.clock).map Prod.fst :=
      List.mem_map.mpr ⟨_, mem_reachedVersions.mpr ⟨_, Table.mem_of_find he, v, hv, hreached, rfl⟩, rfl⟩
    rw [hts, if_pos hmem, he, Option.map_some, Tariff.activated, hv]
  · have hmem : tf ∉ (reachedVersions s.tariffs s.clock).map Prod.fst := by
      intro hmem
      obtain ⟨r, hr', rfl⟩ := List.mem_map.mp hmem
      obtain ⟨x, hx, v, hv, hreached, rfl⟩ := mem_reachedVersions.mp hr'
      rw [Table.find_of_mem hr hx] at he
      cases he
      rw [hnone v hv] at hreached
      cases hreached
    rw [hts, if_neg hmem, he]

theorem State.tariffsTold_frame (s told : State) (cause : TariffCause) (clock : Instant) :
    ∃ l, s.tariffsTold told cause clock = { told with link := l } := by
  rw [State.tariffsTold_eq]
  induction reachedVersions s.tariffs clock generalizing told with
  | nil => exact ⟨told.link, rfl⟩
  | cons e rs ih =>
    obtain ⟨l, hstep, -⟩ := s.tellTariff_frame told cause clock e
    rw [List.foldl_cons, hstep]
    exact ih _

theorem State.flag_tariffsTold (s : State) (told : State) (cause : TariffCause) (clock : Instant) :
    (s.tariffsTold told cause clock).flag .tariff = (told.flag .tariff || !(reachedVersions s.tariffs clock).isEmpty) := by
  rw [State.tariffsTold_eq]
  induction reachedVersions s.tariffs clock generalizing told with
  | nil => rw [List.foldl_nil, List.isEmpty_nil, Bool.not_true, Bool.or_false]
  | cons e rs ih =>
    rw [List.foldl_cons, ih, State.tellTariff, State.flag_raiseIf, State.flag_setFlag]
    simp

/-- What is told stands in the link alone. -/
theorem State.tariffsTold_link (s : State) {told told' : State} (h : told'.link = told.link) (cause : TariffCause)
    (clock : Instant) : (s.tariffsTold told' cause clock).link = (s.tariffsTold told cause clock).link := by
  rw [State.tariffsTold_eq, State.tariffsTold_eq]
  induction reachedVersions s.tariffs clock generalizing told told' with
  | nil => exact h
  | cons e rs ih =>
    refine ih ?_
    unfold State.tellTariff State.raiseIf State.raise State.setFlag
    split <;> simp only [h]

/-- Two parts with one clock, tariffs, groups, calls and enables tell the same of their tariffs. -/
theorem State.tariffsTold_congr (hts : t.tariffs = s.tariffs) (he : t.link.enables = s.link.enables)
    (hg : t.groups = s.groups) (hc : t.calls = s.calls) (hsec : t.time.seconds = s.time.seconds) :
    t.tariffsTold = s.tariffsTold := by
  funext told cause clock
  unfold State.tariffsTold State.enabled
  rw [hts, he, hg, hc, hsec]

theorem State.tells_tariffsTold (s told : State) (cause : TariffCause) (clock : Instant) :
    told.Tells (s.tariffsTold told cause clock) := by
  rw [State.tariffsTold_eq]
  induction reachedVersions s.tariffs clock generalizing told with
  | nil => exact .refl told
  | cons e rs ih =>
    exact ((told.tells_setFlag .tariff).trans (State.tells_raiseIf ..)).trans (ih (s.tellTariff cause clock told e))

/-! ### CLOCK SET -/

theorem State.replied_activateTariff (s : State) (m : List Message) (cause : TariffCause) (n : Nat) :
    (s.activateTariff cause n).replied m = (s.replied m).activateTariff cause n := by
  unfold State.activateTariff
  rw [show (s.replied m).tariffs = s.tariffs from rfl]
  split
  · rfl
  · exact State.replied_raiseIf _ m ..

theorem State.replied_activateReached (s : State) (m : List Message) (cause : TariffCause) :
    (s.activateReached cause).replied m = (s.replied m).activateReached cause := by
  unfold State.activateReached
  rw [show (s.replied m).reachedTariffs = s.reachedTariffs from rfl]
  induction s.reachedTariffs generalizing s with
  | nil => rfl
  | cons n ns ih => rw [List.foldl_cons, List.foldl_cons, ih, State.replied_activateTariff]

/-- The part with its clock set (R126). -/
def State.withClock (s : State) (i : Instant) : State := { s with time := { s.time with timeOfDay := i.time, day := i.day } }

theorem clockSet_eq (i : Instant) (s : State) : clockSet i s =
    (.clockSet s.clock i s.time.seconds (i.time / 1800) (s.bandMap.getD (i.time / 1800) 0)
      (s.tariffs.countP fun e => e.2.staged.any fun v => v.effective.reachedBy i),
      (s.withClock i).activateReached .clockSet) := by
  have hcount : (s.withClock i).reachedTariffs.length =
      s.tariffs.countP fun e => e.2.staged.any fun v => v.effective.reachedBy i := by
    unfold State.reachedTariffs
    rw [List.length_map, ← List.countP_eq_length_filter]
    rfl
  rw [← hcount]
  rfl

/-! ### The statement -/

theorem exec_pendingTariffSwitch (h : s.resetLow = false) :
    exec .pendingTariffSwitch s = .next (s.activateReached .advance) := by
  show execPendingTariffSwitch s = _
  unfold execPendingTariffSwitch
  rw [h, if_neg Bool.false_ne_true]

/-- The flag is set where a pending version is reached (R126, R132). -/
theorem State.tariffsTold_flag_iff (s : State) (cause : TariffCause) (clock : Instant) :
    (s.tariffsTold s cause clock).flag .tariff = true ↔ s.flag .tariff = true ∨
      ∃ e ∈ s.tariffs, ∃ v, e.2.staged = some v ∧ v.effective.reachedBy clock = true := by
  rw [State.flag_tariffsTold, Bool.or_eq_true, Bool.not_eq_true', List.isEmpty_eq_false_iff_exists_mem]
  refine or_congr_right ⟨fun ⟨r, hr⟩ => ?_, fun ⟨e, he, v, hv, hreached⟩ => ⟨_, mem_reachedVersions.mpr
    ⟨e, he, v, hv, hreached, rfl⟩⟩⟩
  obtain ⟨e, he, v, hv, hreached, -⟩ := mem_reachedVersions.mp hr
  exact ⟨e, he, v, hv, hreached⟩

/-- The effect of CLOCK SET on the answer (R126, R132). -/
theorem State.clockSet_effect (hr : Table.rising s.tariffs = true) (code : Nat) (tag : Tag) (body : Body) (i : Instant) :
    let t := ((s.answer code tag body).withClock i).activateReached .clockSet
    t.time = { seconds := s.time.seconds, timeOfDay := i.time, day := i.day } ∧ activatedBy s.tariffs t.tariffs i ∧
      (∃ after, t.link.sendList = s.link.sendList ++ { code := code, tag := tag, body := body } :: after) ∧
      t.link = (s.tariffsTold (s.answer code tag body) .clockSet i).link ∧
      { t with time := s.time, tariffs := s.tariffs, link := s.link, periods := s.periods } = s := by
  obtain ⟨ts, hdone, hactivated⟩ := State.activateReached_spec (s := (s.answer code tag body).withClock i) hr .clockSet
  have hsame : ((s.answer code tag body).withClock i).tariffsTold = s.tariffsTold :=
    State.tariffsTold_congr rfl rfl rfl rfl rfl
  have hlink := s.tariffsTold_link (told' := (s.answer code tag body).withClock i) (told := s.answer code tag body) rfl
    .clockSet i
  obtain ⟨l, hframe⟩ := s.tariffsTold_frame ((s.answer code tag body).withClock i) .clockSet i
  have htells := s.tells_tariffsTold (s.answer code tag body) .clockSet i
  rw [hsame, show ((s.answer code tag body).withClock i).clock = i from rfl] at hdone
  dsimp only
  rw [hdone]
  refine ⟨by rw [hframe]; rfl, hactivated, ?_, hlink, by rw [hframe]; rfl⟩
  obtain ⟨after, hlist⟩ := htells.after_answer
  exact ⟨after, (congrArg Link.sendList hlink).trans hlist⟩

/-- Settles O38: the activation on the part, and on the part whose clock is set. -/
theorem tariffsActivatedWhenReached : Obligations.TariffsActivatedWhenReached := by
  unfold Obligations.TariffsActivatedWhenReached
  refine ⟨fun s hlow hr => ?_, fun s tag p i hp h hr => ?_⟩
  · obtain ⟨ts, hdone, hactivated⟩ := State.activateReached_spec hr .advance
    obtain ⟨l, hframe⟩ := s.tariffsTold_frame s .advance s.clock
    refine ⟨_, (exec_pendingTariffSwitch hlow).trans (congrArg _ hdone), hactivated, s.tariffsTold_flag_iff _ _, rfl, ?_⟩
    rw [hframe]
  · have hexec := request_effect (op := fun t => (t.withClock i).activateReached .clockSet) h hp
      (fun t m => State.replied_activateReached (t.withClock i) m .clockSet)
      (clockSet_eq i s.dropHeadRequest.withoutMessages)
    exact ⟨_, hexec, State.clockSet_effect hr ..⟩

end Sys2Proof.Machine
end

section
/-! PROOFS. The forced block: the circuits that it clears one after another, and its statement (R5, R8, R10, R11, R67,
R68). -/

namespace Sys2Proof.Machine

open Sys2Proof

variable {s t u : State} {type : Byte} {tag : Tag} {p : List Byte}

/-! ### What a list of circuits loses -/

/-- The part with the circuits, calls, groups, carriers and spans of another. -/
def State.withTablesOf (s c : State) : State :=
  { s with circuits := c.circuits, calls := c.calls, groups := c.groups, carriers := c.carriers, spans := c.spans }

/-- The call on a circuit that is cleared, with its handle (R8). -/
def State.lostCall (s : State) (n : Nat) : Option (Nat × Call) :=
  match (s.circuit n).usage with
  | .outgoing h => (s.call h).map fun c => (h, c)
  | _ => none

theorem State.lostCall_eq_some {n : Nat} {e : Nat × Call} :
    s.lostCall n = some e ↔ (s.circuit n).usage = .outgoing e.1 ∧ s.call e.1 = some e.2 := by
  obtain ⟨h, c⟩ := e
  unfold State.lostCall
  cases (s.circuit n).usage with
  | idle => simp
  | incoming => simp
  | outgoing h' =>
    simp only [Option.map_eq_some_iff, Prod.mk.injEq, Usage.outgoing.injEq]
    constructor
    · rintro ⟨c', hc, rfl, rfl⟩
      exact ⟨rfl, hc⟩
    · rintro ⟨rfl, hc⟩
      exact ⟨c, hc, rfl, rfl⟩

/-- The calls on circuits that are cleared (R8). -/
def State.lostCalls (s : State) (ns : List Nat) : List (Nat × Call) := ns.filterMap s.lostCall

/-- The circuits of a list that are in use (R8). -/
def State.busyCircuitsIn (s : State) (ns : List Nat) : List Nat := ns.filter fun n => (s.circuit n).usage.busy

/-- A lost call is told (R8, R93). -/
def State.tellLostCall (s : State) (e : Nat × Call) : State := s.raise codeCallLost (.noticeLost e.1 e.2.serial none)

/-- Every call on circuits of a list names its circuit, and none is rated (R60). -/
def State.clearable (s : State) (ns : List Nat) : Prop :=
  ∀ n h, n ∈ ns → (s.circuit n).usage = .outgoing h → ∃ c, s.call h = some c ∧ c.circuit = n ∧
    (c.answeredAt = none ∨ c.rating = none)

/-- What clearing the circuits of a list has made of a part (R8, R10, R67). -/
structure State.Cleared (s t : State) (sp : Nat) (ns : List Nat) : Prop where
  circuits : ∀ m, t.circuit m = if m ∈ ns then { s.circuit m with usage := .idle } else s.circuit m
  calls : ∀ h, t.call h = if ((s.lostCalls ns).any fun e => e.1 == h) = true then none else s.call h
  groups : ∀ g, Table.find t.groups g = (Table.find s.groups g).map fun grp => { grp with
    busyCount := grp.busyCount - (s.busyCircuitsIn ns).countP fun n => (s.circuit n).group == some g }
  carriers : ∀ k, Table.find t.carriers k = (Table.find s.carriers k).map fun x => { x with
    openCalls := x.openCalls - (s.lostCalls ns).countP fun e => e.2.carrier == k }
  others : ∀ m, m ≠ sp → t.span m = s.span m
  span : t.span sp = (s.span sp).leave ((s.busyCircuitsIn ns).map positionOf)
  told : t.withTablesOf s = (s.lostCalls ns).foldl State.tellLostCall s

theorem State.foldl_tellLostCall_withTablesOf (c : State) : ∀ (l : List (Nat × Call)) (s : State),
    l.foldl State.tellLostCall (s.withTablesOf c) = (l.foldl State.tellLostCall s).withTablesOf c
  | [], _ => rfl
  | e :: l, s => State.foldl_tellLostCall_withTablesOf c l (s.tellLostCall e)

/-- Clearing no circuit does nothing. -/
theorem State.Cleared.nil (s : State) (sp : Nat) : s.Cleared s sp [] where
  circuits _ := rfl
  calls _ := rfl
  groups _ := (congrFun Option.map_id _).symm
  carriers _ := (congrFun Option.map_id _).symm
  others _ _ := rfl
  span := (Span.leave_nil _).symm
  told := rfl

theorem State.lostCalls_cons (s : State) (n : Nat) (ns : List Nat) :
    s.lostCalls (n :: ns) = s.lostCalls [n] ++ s.lostCalls ns := List.filterMap_append (l := [n])

/-- Clearing one circuit leaves the others and their calls (R8). -/
theorem State.Cleared.later {sp n : Nat} {ns : List Nat} (h : s.Cleared t sp [n]) (hn : n ∉ ns)
    (hs : s.clearable (n :: ns)) :
    (∀ m ∈ ns, t.circuit m = s.circuit m) ∧ t.lostCalls ns = s.lostCalls ns ∧ t.clearable ns := by
  have hcircuit : ∀ m ∈ ns, t.circuit m = s.circuit m := fun m hm => by
    rw [h.circuits, if_neg]
    rintro hmem
    rw [List.mem_singleton.mp hmem] at hm
    exact hn hm
  have hcall : ∀ m ∈ ns, ∀ k, (s.circuit m).usage = .outgoing k → t.call k = s.call k := fun m hm k hk => by
    obtain ⟨c, hc, hcm, -⟩ := hs m k (List.mem_cons_of_mem _ hm) hk
    rw [h.calls, if_neg]
    rw [List.any_eq_true]
    rintro ⟨e, he, hek⟩
    obtain ⟨j, hj, hej⟩ := List.mem_filterMap.mp he
    rw [List.mem_singleton.mp hj] at hej
    obtain ⟨husage, hcall⟩ := State.lostCall_eq_some.mp hej
    obtain ⟨c', hc', hcn, -⟩ := hs n _ List.mem_cons_self husage
    rw [beq_iff_eq.mp hek, hc] at hc'
    cases hc'
    exact hn (hcn.symm.trans hcm ▸ hm)
  refine ⟨hcircuit, List.filterMap_congr fun m hm => ?_, fun m k hm hk => ?_⟩
  · unfold State.lostCall
    rw [hcircuit m hm]
    split
    · rename_i k hk
      rw [hcall m hm k hk]
    · rfl
  · rw [hcircuit m hm] at hk
    rw [hcall m hm k hk]
    exact hs m k (List.mem_cons_of_mem _ hm) hk

/-- Clearing one circuit and then the others (R8). -/
theorem State.Cleared.cons {sp n : Nat} {ns : List Nat} (hn : n ∉ ns) (hs : s.clearable (n :: ns))
    (h : s.Cleared t sp [n]) (h' : t.Cleared u sp ns) : s.Cleared u sp (n :: ns) := by
  obtain ⟨hcircuit, hlost, -⟩ := h.later hn hs
  have hbusy : t.busyCircuitsIn ns = s.busyCircuitsIn ns := List.filter_congr fun m hm => by rw [hcircuit m hm]
  have hbusycons : s.busyCircuitsIn (n :: ns) = s.busyCircuitsIn [n] ++ s.busyCircuitsIn ns := List.filter_append [n] ns
  constructor
  case circuits =>
    intro m
    rw [h'.circuits, h.circuits]
    by_cases hmn : m = n
    · subst hmn
      rw [if_neg hn, if_pos List.mem_cons_self, if_pos List.mem_cons_self]
    · simp only [List.mem_cons, List.not_mem_nil, or_false, hmn, if_false, false_or]
  case calls =>
    intro k
    rw [h'.calls, h.calls, hlost, s.lostCalls_cons n ns, List.any_append]
    simp only [Bool.or_eq_true]
    by_cases h1 : ((s.lostCalls [n]).any fun e => e.1 == k) = true <;>
      by_cases h2 : ((s.lostCalls ns).any fun e => e.1 == k) = true <;> simp [h1, h2]
  case groups =>
    intro g
    have hcount : ((t.busyCircuitsIn ns).countP fun m => (t.circuit m).group == some g) =
        (s.busyCircuitsIn ns).countP fun m => (s.circuit m).group == some g := by
      rw [hbusy]
      exact List.countP_congr fun m hm => by rw [hcircuit m (List.mem_of_mem_filter hm)]
    rw [h'.groups, h.groups, hcount, hbusycons, List.countP_append, Option.map_map]
    exact congrArg (Option.map · _) (funext fun grp => by simp only [Function.comp, Nat.sub_sub])
  case carriers =>
    intro k
    rw [h'.carriers, h.carriers, hlost, s.lostCalls_cons n ns, List.countP_append, Option.map_map]
    exact congrArg (Option.map · _) (funext fun x => by simp only [Function.comp, Nat.sub_sub])
  case others => exact fun m hm => (h'.others m hm).trans (h.others m hm)
  case span => rw [h'.span, h.span, Span.leave_leave, hbusy, hbusycons, List.map_append]
  case told =>
    rw [s.lostCalls_cons n ns, List.foldl_append, ← h.told, State.foldl_tellLostCall_withTablesOf, ← hlost, ← h'.told]
    rfl

/-! ### One circuit cleared -/

theorem State.lostCalls_singleton (s : State) (n : Nat) : s.lostCalls [n] = (s.lostCall n).toList := by
  unfold State.lostCalls
  cases h : s.lostCall n <;> simp [h]

theorem State.busyCircuitsIn_busy {n : Nat} (h : (s.circuit n).usage.busy = true) : s.busyCircuitsIn [n] = [n] := by
  unfold State.busyCircuitsIn
  simp [h]

theorem State.busyCircuitsIn_idle {n : Nat} (h : (s.circuit n).usage = .idle) : s.busyCircuitsIn [n] = [] := by
  unfold State.busyCircuitsIn
  simp [h, Usage.busy]

theorem State.lostCalls_idle {n : Nat} (h : (s.circuit n).usage = .idle) : s.lostCalls [n] = [] := by
  rw [State.lostCalls_singleton, State.lostCall, h]
  rfl

theorem State.lostCalls_incoming {n : Nat} (h : (s.circuit n).usage = .incoming) : s.lostCalls [n] = [] := by
  rw [State.lostCalls_singleton, State.lostCall, h]
  rfl

theorem State.lostCalls_outgoing {n h : Nat} {c : Call} (hu : (s.circuit n).usage = .outgoing h) (hc : s.call h = some c) :
    s.lostCalls [n] = [(h, c)] := by
  rw [State.lostCalls_singleton, State.lostCall, hu]
  dsimp only
  rw [hc]
  rfl

/-- A busy circuit that falls idle is one busy member less (R2). -/
theorem State.makeIdle_find_groups {n : Nat} (h : (s.circuit n).usage.busy = true) (g : Nat) :
    Table.find (s.makeIdle n).groups g = (Table.find s.groups g).map fun grp => { grp with
      busyCount := grp.busyCount - (s.busyCircuitsIn [n]).countP fun m => (s.circuit m).group == some g } := by
  have hafter : ∀ k, busyAfter k (s.circuit n).usage .idle = k - 1 := fun k => by
    unfold busyAfter
    rw [h]
    rfl
  obtain ⟨-, -, hgroups, -⟩ := s.makeIdle_spec n
  rw [hgroups, State.setUsage_eq, State.busyCircuitsIn_busy h, List.countP_singleton]
  dsimp only
  unfold State.groupsWith
  cases hg : (s.circuit n).group with
  | none => exact (congrFun Option.map_id _).symm
  | some g' =>
    dsimp only
    by_cases hgg : g' = g
    · subst hgg
      rw [Table.find_modify_self, beq_self_eq_true, if_pos rfl]
      simp only [hafter]
    · rw [Table.find_modify_ne _ _ (Ne.symm hgg), if_neg (by simpa using hgg)]
      exact (congrFun Option.map_id _).symm

theorem State.cleared_idle {n : Nat} (h : (s.circuit n).usage = .idle) (sp : Nat) : s.Cleared s sp [n] where
  circuits m := by
    split
    · rename_i hm
      rw [List.mem_singleton.mp hm]
      generalize s.circuit n = c at h
      obtain ⟨⟩ := c
      cases h
      rfl
    · rfl
  calls _ := by rw [State.lostCalls_idle h]; rfl
  groups _ := by rw [State.busyCircuitsIn_idle h]; exact (congrFun Option.map_id _).symm
  carriers _ := by
    rw [State.lostCalls_idle h]
    exact (congrFun Option.map_id _).symm
  others _ _ := rfl
  span := by rw [State.busyCircuitsIn_idle h]; exact (Span.leave_nil _).symm
  told := by
    rw [State.lostCalls_idle h]
    rfl

theorem State.makeIdle_withTablesOf (s : State) (n : Nat) : (s.makeIdle n).withTablesOf s = s := by
  obtain ⟨-, -, -, cs, gs, ss, h⟩ := s.makeIdle_spec n
  rw [h]
  rfl

theorem State.cleared_incoming {n : Nat} (h : (s.circuit n).usage = .incoming) :
    s.Cleared (s.makeIdle n) (spanOf n) [n] where
  circuits m := by
    obtain ⟨hcircuit, -⟩ := s.makeIdle_spec n
    rw [hcircuit]
    by_cases hm : m = n
    · rw [if_pos hm, if_pos (List.mem_singleton.mpr hm), hm]
    · rw [if_neg hm, if_neg (mt List.mem_singleton.mp hm)]
  calls k := by
    rw [State.call_congr (s.makeIdle_calls n), State.lostCalls_incoming h]
    rfl
  groups g := State.makeIdle_find_groups (by rw [h]; rfl) g
  carriers k := by
    obtain ⟨-, -, -, cs, gs, ss, hframe⟩ := s.makeIdle_spec n
    rw [State.lostCalls_incoming h, hframe]
    exact (congrFun Option.map_id _).symm
  others m hm := (s.makeIdle_span n m).trans (if_neg hm)
  span := by
    rw [State.busyCircuitsIn_busy (by rw [h]; rfl)]
    exact (s.makeIdle_span n _).trans (if_pos rfl)
  told := by
    rw [State.lostCalls_incoming h, s.makeIdle_withTablesOf]
    rfl

theorem State.cleared_outgoing {n h : Nat} {c : Call} (hu : (s.circuit n).usage = .outgoing h) (hc : s.call h = some c) :
    s.Cleared (((s.makeIdle n).freeCall h c).tellLost h c none) (spanOf n) [n] := by
  have hlost : s.lostCalls [n] = [(h, c)] := State.lostCalls_outgoing hu hc
  have hbusy : (s.circuit n).usage.busy = true := by rw [hu]; rfl
  obtain ⟨hcircuit, -, -, cs, gs, ss, hframe⟩ := s.makeIdle_spec n
  have hgroups := State.makeIdle_find_groups hbusy
  have hspan := s.makeIdle_span n
  generalize s.makeIdle n = v at hcircuit hframe hgroups hspan ⊢
  have hcarriers : v.carriers = s.carriers := by rw [hframe]
  have hcalls : v.calls = s.calls := by rw [hframe]
  constructor
  case circuits =>
    intro m
    refine (hcircuit m).trans ?_
    by_cases hm : m = n
    · rw [if_pos hm, if_pos (List.mem_singleton.mpr hm), hm]
    · rw [if_neg hm, if_neg (mt List.mem_singleton.mp hm)]
  case calls =>
    intro k
    show Table.find (Table.erase v.calls h) k = _
    rw [hcalls, Table.find_erase, hlost]
    by_cases hk : k = h
    · subst hk
      simp
    · rw [if_neg hk, if_neg (by simpa using Ne.symm hk)]
      rfl
  case groups => exact hgroups
  case carriers =>
    intro k
    dsimp only [State.tellLost, State.raise, State.freeCall, State.closeCallOn, State.modifyCarrier]
    rw [hcarriers, hlost, List.countP_singleton]
    by_cases hk : c.carrier = k
    · subst hk
      rw [Table.find_modify_self, beq_self_eq_true, if_pos rfl]
    · rw [Table.find_modify_ne _ _ (Ne.symm hk), if_neg (by simpa using hk)]
      exact (congrFun Option.map_id _).symm
  case others => exact fun m hm => (hspan m).trans (if_neg hm)
  case span =>
    rw [State.busyCircuitsIn_busy hbusy]
    exact (hspan _).trans (if_pos rfl)
  case told =>
    rw [hlost, hframe]
    rfl

/-- One circuit of a forced block (R8). -/
theorem State.forceCircuit_cleared {n : Nat} (hs : s.clearable [n]) (tally : ForcedTally) :
    s.Cleared (s.forceCircuit tally n).1 (spanOf n) [n] ∧
      (s.forceCircuit tally n).2 = { lost := tally.lost + (s.lostCalls [n]).length
                                     cleared := tally.cleared + [n].countP fun m => (s.circuit m).usage == .incoming } := by
  unfold State.forceCircuit
  cases hu : (s.circuit n).usage with
  | idle =>
    refine ⟨State.cleared_idle hu _, ?_⟩
    rw [State.lostCalls_idle hu]
    simp [hu]
  | incoming =>
    refine ⟨State.cleared_incoming hu, ?_⟩
    rw [State.lostCalls_incoming hu]
    simp [hu]
  | outgoing h =>
    obtain ⟨c, hc, hcn, hunrated⟩ := hs n h List.mem_cons_self hu
    have hclosed : s.closeCall h c .forced true =
        ((s.makeIdle n).freeCall h c, { records := 0, finalCharge := none }) := by
      rw [s.closeCall_unrated hunrated, if_pos rfl, hcn]
      rfl
    dsimp only
    rw [hc]
    dsimp only
    rw [hclosed]
    refine ⟨State.cleared_outgoing hu hc, ?_⟩
    rw [State.lostCalls_outgoing hu hc]
    simp [hu]

/-- The circuits of one span that a forced block clears (R8). -/
theorem forceAll_cleared {sp : Nat} : ∀ (ns : List Nat) (s : State) (tally : ForcedTally), ns.Nodup →
    (∀ n ∈ ns, spanOf n = sp) → s.clearable ns →
    s.Cleared (forceAll ns s tally).1 sp ns ∧
      (forceAll ns s tally).2 = { lost := tally.lost + (s.lostCalls ns).length
                                  cleared := tally.cleared + ns.countP fun m => (s.circuit m).usage == .incoming }
  | [], s, _, _, _, _ => ⟨.nil s sp, rfl⟩
  | n :: ns, s, tally, hnodup, hspan, hs => by
    obtain ⟨hn, hnodup'⟩ := List.nodup_cons.mp hnodup
    obtain ⟨hone, htally⟩ := State.forceCircuit_cleared (fun m h hm => hs m h (List.mem_singleton.mp hm ▸ List.mem_cons_self))
      tally
    rw [hspan n List.mem_cons_self] at hone
    obtain ⟨hcircuit, hlost, hlater⟩ := hone.later hn hs
    obtain ⟨hrest, htally'⟩ := forceAll_cleared ns (s.forceCircuit tally n).1 (s.forceCircuit tally n).2 hnodup'
      (fun m hm => hspan m (List.mem_cons_of_mem _ hm)) hlater
    refine ⟨hone.cons hn hs hrest, htally'.trans ?_⟩
    have hcount : (ns.countP fun m => ((s.forceCircuit tally n).1.circuit m).usage == .incoming) =
        ns.countP fun m => (s.circuit m).usage == .incoming := List.countP_congr fun m hm => by rw [hcircuit m hm]
    have hsum : ((n :: ns).countP fun m => (s.circuit m).usage == .incoming) =
        ([n].countP fun m => (s.circuit m).usage == .incoming) + ns.countP fun m => (s.circuit m).usage == .incoming :=
      List.countP_append (l₁ := [n])
    rw [htally, hlost, s.lostCalls_cons n ns, List.length_append, hcount, hsum]
    simp only [Nat.add_assoc]

/-! ### The request -/

theorem State.enabled_foldl_tellLostCall (c : NoticeClass) : ∀ (l : List (Nat × Call)) (s : State),
    (l.foldl State.tellLostCall s).enabled c = s.enabled c
  | [], _ => rfl
  | e :: l, s => State.enabled_foldl_tellLostCall c l (s.tellLostCall e)

theorem State.drainTold_withTablesOf (s told c : State) (sp : Nat) (gone : List Nat) (cause : DrainCause) :
    (s.drainTold told sp gone cause).withTablesOf c = s.drainTold (told.withTablesOf c) sp gone cause := by
  unfold State.drainTold
  cases (s.span sp).watch with
  | none => rfl
  | some w =>
    dsimp only
    split
    · cases s.enabled .drain <;> rfl
    · rfl

/-- The completion of the watch that the cleared circuits have left (R8, R11). -/
theorem State.Cleared.completed {sp : Nat} {ns : List Nat} (h : s.Cleared t sp ns) (cause : DrainCause) :
    let gone := (s.busyCircuitsIn ns).map positionOf
    ∃ ss, (∀ m, m ≠ sp → State.span { s with spans := ss } m = s.span m) ∧
      State.span { s with spans := ss } sp = { s.span sp with watch := s.watchAfter sp gone } ∧
      (t.completeWatch sp cause).circuits = t.circuits ∧ (t.completeWatch sp cause).calls = t.calls ∧
      (t.completeWatch sp cause).groups = t.groups ∧ (t.completeWatch sp cause).carriers = t.carriers ∧
      (t.completeWatch sp cause).spans = ss ∧
      (t.completeWatch sp cause).withTablesOf s =
        s.drainTold ((s.lostCalls ns).foldl State.tellLostCall s) sp gone cause := by
  dsimp only
  have henabled : t.enabled .drain = s.enabled .drain :=
    (congrArg (State.enabled · .drain) h.told).trans (State.enabled_foldl_tellLostCall _ _ s)
  obtain ⟨ss, hdone, hothers, hself⟩ := State.completeWatch_left (s := { t with spans := s.spans }) (sp := sp)
    (gone := (s.busyCircuitsIn ns).map positionOf) (cs := t.circuits) (gs := t.groups) (ss := t.spans) h.span cause
  obtain ⟨hcongr, hafter⟩ := State.drainTold_congr (t := { t with spans := s.spans }) (s := s) (sp := sp) rfl henabled
    { t with spans := s.spans } ((s.busyCircuitsIn ns).map positionOf) cause
  rw [hcongr] at hdone
  rw [hafter] at hself
  obtain ⟨ss', l, hframe⟩ := t.completeWatch_frame sp cause
  refine ⟨ss, fun m hm => (hothers m hm).trans (h.others m hm), hself, by rw [hframe], by rw [hframe], by rw [hframe],
    by rw [hframe], ?_, ?_⟩
  · have hspans := congrArg State.spans hdone
    exact hspans
  · rw [← h.told]
    refine Eq.trans ?_ (State.drainTold_withTablesOf s { t with spans := s.spans } s ..)
    have htold := congrArg (fun u : State => u.withTablesOf s) hdone
    exact htold

/-! ### The circuits of the scope, blocked -/

theorem Scope.circuits_nodup (sc : Scope) : sc.circuits.Nodup :=
  List.Nodup.of_map positionOf (sc.positions_sublist.nodup List.nodup_range)

theorem State.circuit_blockAll (s : State) (ms : List Nat) (n : Nat) :
    (s.blockAll ms).circuit n = if n ∈ ms then { s.circuit n with localBlock := true } else s.circuit n := by
  rw [State.blockAll_eq]
  exact State.circuit_circuitsBlocked ..

theorem State.blockAll_usage (s : State) (ms : List Nat) (n : Nat) :
    ((s.blockAll ms).circuit n).usage = (s.circuit n).usage ∧ ((s.blockAll ms).circuit n).group = (s.circuit n).group := by
  rw [State.circuit_blockAll]
  split <;> exact ⟨rfl, rfl⟩

theorem State.blockAll_frame (s : State) (ms : List Nat) : ∃ cs, s.blockAll ms = { s with circuits := cs } :=
  ⟨_, s.blockAll_eq ms⟩

theorem State.call_blockAll (s : State) (ms : List Nat) : (s.blockAll ms).call = s.call := by
  rw [State.blockAll_eq]
  rfl

theorem State.blockAll_clearable {ns ms : List Nat} (h : s.clearable ns) : (s.blockAll ms).clearable ns := by
  intro n k hn hk
  rw [(s.blockAll_usage ms n).1] at hk
  rw [State.call_blockAll]
  exact h n k hn hk

theorem State.blockAll_lostCalls (s : State) (ns ms : List Nat) : (s.blockAll ms).lostCalls ns = s.lostCalls ns := by
  refine List.filterMap_congr fun n _ => ?_
  unfold State.lostCall
  rw [(s.blockAll_usage ms n).1, State.call_blockAll]

theorem State.blockAll_busyCircuitsIn (s : State) (ns ms : List Nat) :
    (s.blockAll ms).busyCircuitsIn ns = s.busyCircuitsIn ns :=
  List.filter_congr fun n _ => by rw [(s.blockAll_usage ms n).1]

/-- The effect of a forced block (R8). -/
def State.forced (s : State) (sc : Scope) : State :=
  (forceAll sc.circuits (s.blockAll sc.circuits) { lost := 0, cleared := 0 }).1.completeWatch sc.spanIndex .idle

/-- What a forced block of circuits without rated calls leaves (R5, R8, R10, R11, R67). -/
theorem State.forced_spec {sc : Scope} (hs : s.clearable sc.circuits) :
    let t := s.forced sc
    let busy := s.busyCircuitsIn sc.circuits
    let lost := s.lostCalls sc.circuits
    (∀ n, t.circuit n = if n ∈ sc.circuits then { s.circuit n with localBlock := true, usage := .idle } else s.circuit n) ∧
      (∀ h, t.call h = if (lost.any fun e => e.1 == h) then none else s.call h) ∧
      (∀ g, Table.find t.groups g = (Table.find s.groups g).map fun grp => { grp with
        busyCount := grp.busyCount - busy.countP fun n => (s.circuit n).group == some g }) ∧
      (∀ k, Table.find t.carriers k = (Table.find s.carriers k).map fun x => { x with
        openCalls := x.openCalls - lost.countP fun e => e.2.carrier == k }) ∧
      (∀ m, m ≠ sc.spanIndex → t.span m = s.span m) ∧
      t.span sc.spanIndex =
        { s.span sc.spanIndex with watch := s.watchAfter sc.spanIndex (busy.map positionOf) } ∧
      t.withTablesOf s = s.drainTold (lost.foldl State.tellLostCall s) sc.spanIndex (busy.map positionOf) .idle := by
  obtain ⟨hcleared, -⟩ := forceAll_cleared (sp := sc.spanIndex) sc.circuits (s.blockAll sc.circuits)
    { lost := 0, cleared := 0 } sc.circuits_nodup (fun n hn => Scope.spanOf_mem hn) (State.blockAll_clearable hs)
  have hblock := s.circuit_blockAll sc.circuits
  have hgroup := fun n => (s.blockAll_usage sc.circuits n).2
  have hlost := s.blockAll_lostCalls sc.circuits sc.circuits
  have hbusy := s.blockAll_busyCircuitsIn sc.circuits sc.circuits
  obtain ⟨cs, hframe⟩ := s.blockAll_frame sc.circuits
  obtain ⟨ss, hothers, hself, hcircuits, hcalls, hgroups, hcarriers, hspans, htold⟩ := hcleared.completed .idle
  unfold State.forced
  generalize s.blockAll sc.circuits = b at *
  generalize State.completeWatch _ _ _ = u at *
  obtain ⟨hdrain, hafter⟩ := State.drainTold_congr (s := s) (t := b) (sp := sc.spanIndex) (by rw [hframe]; rfl)
    (by rw [hframe]; rfl) ((s.lostCalls sc.circuits).foldl State.tellLostCall s)
    ((s.busyCircuitsIn sc.circuits).map positionOf) .idle
  refine ⟨fun n => ?_, fun h => ?_, fun g => ?_, fun k => ?_, fun m hm => ?_, ?_, ?_⟩
  · rw [State.circuit_congr hcircuits, hcleared.circuits, hblock]
    split <;> rfl
  · rw [State.call_congr hcalls, hcleared.calls, hlost, hframe]
    rfl
  · rw [hgroups, hcleared.groups, hbusy]
    simp only [hgroup]
    rw [hframe]
  · rw [hcarriers, hcleared.carriers, hlost, hframe]
  · exact ((State.span_congr (s := { b with spans := ss }) hspans m).trans (hothers m hm)).trans
      (State.span_congr (by rw [hframe]) m)
  · refine ((State.span_congr (s := { b with spans := ss }) hspans _).trans hself).trans ?_
    rw [hbusy, hafter, State.span_congr (s := s) (by rw [hframe])]
  · rw [hlost, hbusy] at htold
    have hkept := congrArg (fun v : State => v.withTablesOf s) htold
    refine hkept.trans ?_
    rw [State.drainTold_withTablesOf, ← State.foldl_tellLostCall_withTablesOf, hframe]
    rw [hframe] at hdrain
    exact hdrain

theorem State.replied_blockAll (s : State) (m : List Message) (ns : List Nat) :
    (s.blockAll ns).replied m = (s.replied m).blockAll ns := by
  rw [State.blockAll_eq, State.blockAll_eq, State.circuitsBlocked_congr (t := s.replied m) (s := s) rfl]
  rfl

theorem State.replied_forceCircuit (s : State) (m : List Message) (tally : ForcedTally) (n : Nat) :
    (s.replied m).forceCircuit tally n = ((s.forceCircuit tally n).1.replied m, (s.forceCircuit tally n).2) := by
  unfold State.forceCircuit
  rw [show (s.replied m).circuit n = s.circuit n from rfl]
  cases (s.circuit n).usage with
  | idle => rfl
  | incoming => exact congrArg (Prod.mk · _) (State.replied_makeIdle s m n).symm
  | outgoing h =>
    dsimp only
    rw [show (s.replied m).call h = s.call h from rfl]
    cases s.call h with
    | none => rfl
    | some c =>
      dsimp only
      rw [State.replied_closeCall]
      exact congrArg (Prod.mk · _) (State.replied_raise _ m _ _).symm

theorem forceAll_replied (m : List Message) : ∀ (ns : List Nat) (s : State) (tally : ForcedTally),
    forceAll ns (s.replied m) tally = ((forceAll ns s tally).1.replied m, (forceAll ns s tally).2)
  | [], _, _ => rfl
  | n :: ns, s, tally => by
    rw [forceAll, State.replied_forceCircuit]
    exact forceAll_replied m ns _ _

theorem State.replied_forced (s : State) (m : List Message) (sc : Scope) : (s.forced sc).replied m = (s.replied m).forced sc := by
  unfold State.forced
  rw [State.replied_completeWatch, ← State.replied_blockAll, forceAll_replied]

theorem exec_circuitBlockForced {sc : Scope} (hp : parseBlock p = .ok (sc, .forced)) (tag : Tag) (s : State) :
    exec (.circuitBlockForced tag p) s =
      request 0x04 tag p s fun p s => withOperands (parseBlock p) s fun o => blockForced o.1 s :=
  if_neg (by rw [namesOtherMode_of_parseBlock hp]; decide)

/-- A forced block of circuits without rated calls, as its effect on the answer (R8). -/
theorem exec_circuitBlockForced_clearable {sc : Scope} (hp : parseBlock p = .ok (sc, .forced)) (h : s.takesNow 0x04 tag p)
    (hs : s.clearable sc.circuits) : exec (.circuitBlockForced tag p) s =
      .next ((s.answer 0x04 tag (.forcedCleared (s.lostCalls sc.circuits).length
        (sc.circuits.countP fun n => (s.circuit n).usage == .incoming))).forced sc) := by
  have hs' : s.dropHeadRequest.withoutMessages.clearable sc.circuits := hs
  obtain ⟨-, htally⟩ := forceAll_cleared (sp := sc.spanIndex) sc.circuits
    (s.dropHeadRequest.withoutMessages.blockAll sc.circuits) { lost := 0, cleared := 0 } sc.circuits_nodup
    (fun n hn => Scope.spanOf_mem hn) (State.blockAll_clearable hs')
  have husage := fun n => (s.dropHeadRequest.withoutMessages.blockAll_usage sc.circuits n).1
  rw [State.blockAll_lostCalls, Nat.zero_add, Nat.zero_add] at htally
  simp only [husage] at htally
  refine (exec_circuitBlockForced hp tag s).trans (request_effect (op := fun t => t.forced sc) h hp
    (fun t m => t.replied_forced m sc) ?_)
  show blockForced sc _ = _
  unfold blockForced
  dsimp only
  rw [htally]
  rfl

/-! ### A rated call -/

/-- The forced block of one circuit with a call (R8, R67). -/
theorem forceAll_outgoing {n h : Nat} {c : Call} {report : CloseReport} (hu : (s.circuit n).usage = .outgoing h)
    (hc : s.call h = some c) (hn : c.circuit = n)
    (hrated : (s.blockAll [n]).ratingClose h c .forced = (u, report)) :
    forceAll [n] (s.blockAll [n]) { lost := 0, cleared := 0 } =
        (((u.makeIdle n).freeCall h c).tellLost h c none, { lost := 1, cleared := 0 }) := by
  have hforce : (s.blockAll [n]).forceCircuit { lost := 0, cleared := 0 } n =
      (((u.makeIdle n).freeCall h c).tellLost h c none, { lost := 1, cleared := 0 }) := by
    unfold State.forceCircuit
    rw [(s.blockAll_usage [n] n).1, hu]
    dsimp only
    rw [State.call_blockAll, hc]
    dsimp only
    rw [State.closeCall_eq, hrated, if_pos rfl, hn]
  unfold forceAll
  rw [hforce]
  rfl

/-- What the forced block of a circuit with a rated call leaves, after its rating close (R8, R67). -/
theorem State.RatedClose.forced {n h : Nat} {c : Call} {written : List Record} {k' : Carrier}
    (hu : (s.blockAll [n]).RatedClose u h c.carrier written k') (hw : (s.span (spanOf n)).watch = none) :
    let t := (((u.makeIdle n).freeCall h c).tellLost h c none).completeWatch (spanOf n) .idle
    t.circuit n = { s.circuit n with localBlock := true, usage := .idle } ∧
      (∀ m, m ≠ n → t.circuit m = s.circuit m) ∧ t.call h = none ∧ (∀ m, m ≠ h → t.call m = s.call m) ∧
      t.records.queue = s.records.queue ++ written ∧
      Table.find t.carriers c.carrier = some { k' with openCalls := k'.openCalls - 1 } ∧
      ∃ raised tag', t.link.sendList = s.link.sendList ++ (raised ++
        [{ code := codeCallLost, tag := tag', body := .noticeLost h c.serial none }]) := by
  obtain ⟨cs, ks, q, l, sw, hframe⟩ := hu.frame
  have hcircuits : ∀ m, u.circuit m = (s.blockAll [n]).circuit m := State.circuit_congr (by rw [hframe])
  have hspan : u.span (spanOf n) = s.span (spanOf n) := State.span_congr (by
    obtain ⟨cs', hblock⟩ := s.blockAll_frame [n]
    rw [hframe, hblock]) _
  obtain ⟨hcircuit, -, -, -⟩ := u.makeIdle_spec n
  have hwatch : ((((u.makeIdle n).freeCall h c).tellLost h c none).span (spanOf n)).watch = none := by
    refine (congrArg Span.watch (u.makeIdle_span n (spanOf n))).trans ?_
    rw [if_pos rfl, hspan, Span.leave_of_closed hw, hw]
  dsimp only
  rw [State.completeWatch_of_closed _ hwatch]
  have hcalls := u.makeIdle_calls n
  have hlink := u.makeIdle_link n
  obtain ⟨-, -, -, cs', gs', ss', hidle⟩ := u.makeIdle_spec n
  have hcarriers : (u.makeIdle n).carriers = u.carriers := by rw [hidle]
  have hrecords : (u.makeIdle n).records = u.records := by rw [hidle]
  generalize u.makeIdle n = v at hcircuit hcalls hlink hcarriers hrecords ⊢
  have hcall : ∀ m, ((v.freeCall h c).tellLost h c none).call m = if m = h then none else u.call m := fun m => by
    show Table.find (Table.erase v.calls h) m = _
    rw [hcalls, Table.find_erase]
    rfl
  refine ⟨?_, fun m hm => ?_, (hcall h).trans (if_pos rfl), fun m hm => ?_, ?_, ?_, ?_⟩
  · refine (hcircuit n).trans ?_
    rw [if_pos rfl, hcircuits, State.circuit_blockAll, if_pos List.mem_cons_self]
  · refine (hcircuit m).trans ?_
    rw [if_neg hm, hcircuits, State.circuit_blockAll, if_neg (mt List.mem_singleton.mp hm)]
  · rw [hcall, if_neg hm, hu.calls m hm, State.call_blockAll]
  · refine (congrArg RecordQueue.queue hrecords).trans (hu.queue.trans ?_)
    obtain ⟨cs', hblock⟩ := s.blockAll_frame [n]
    rw [hblock]
  · dsimp only [State.tellLost, State.raise, State.freeCall, State.closeCallOn, State.modifyCarrier]
    rw [hcarriers, Table.find_modify_self, hu.charged, Option.map_some]
  · obtain ⟨raised, hraised⟩ := hu.tells.sendList
    have hblocked : (s.blockAll [n]).link = s.link := by
      obtain ⟨cs', hblock⟩ := s.blockAll_frame [n]
      rw [hblock]
    refine ⟨raised, (v.freeCall h c).link.noticeCounter, ?_⟩
    show v.link.sendList ++ _ = _
    rw [hlink, hraised, hblocked, List.append_assoc]

/-- The rating close of a call on a circuit that has been blocked (R8, R144). -/
theorem State.ratingClose_blocked {h at_ : Nat} {c : Call} {r : Rating} {k : Carrier} (hat : c.answeredAt = some at_)
    (hat' : at_ < 4294967296) (hr : c.rating = some r) (hmark : r.mark = s.periods.number)
    (hc : r.charge < max32 - 1) (ht : r.totalCharge < max32 - 1) (hsat : r.saturated = false)
    (hk : Table.find s.carriers c.carrier = some k) (hroom : s.records.queue.length < 2048) (ns : List Nat) :
    let charge := r.charge + if 1920 ≤ r.residue then 1 else 0
    let final : Record :=
      { final := some { heldSeconds := (s.time.seconds + 4294967296 - at_) % 4294967296, cause := .forced },
        serial := c.serial, handle := h, sequence := r.sequence, carrier := c.carrier, group := c.group,
        circuit := c.circuit, tariff := r.tariff, factor := r.factor, period := s.periods.number,
        answerDay := r.answerDay, answerTime := r.answerTime, billed := r.billed, charge := charge, saturated := false }
    ∃ u, (s.blockAll ns).ratingClose h c .forced = (u, { records := 1, finalCharge := some charge }) ∧
      ∃ k', (s.blockAll ns).RatedClose u h c.carrier [final] k' ∧ k'.openCalls = k.openCalls ∧
        k'.account.recorded = min (k.account.recorded + charge) max48 ∧ k'.snapshot = k.snapshot := by
  obtain ⟨cs, hframe⟩ := s.blockAll_frame ns
  rw [hframe]
  exact ⟨_, State.ratingClose_current (s := { s with circuits := cs }) hat hat' hr hmark hc ht hsat hk hroom .forced⟩

/-- The forced block of one circuit with a rated call, as its effect on the answer (R8, R67). -/
theorem exec_circuitBlockForced_rated {n h : Nat} {c : Call} {report : CloseReport}
    (hp : parseBlock p = .ok (.circuit n, .forced)) (htake : s.takesNow 0x04 tag p)
    (hu : (s.circuit n).usage = .outgoing h) (hc : s.call h = some c) (hn : c.circuit = n)
    (hrated : (s.dropHeadRequest.withoutMessages.blockAll [n]).ratingClose h c .forced = (u, report)) :
    exec (.circuitBlockForced tag p) s =
      .next ((s.answer 0x04 tag (.forcedCleared 1 0)).forced (.circuit n)) := by
  have hforce := forceAll_outgoing (s := s.dropHeadRequest.withoutMessages) hu hc hn hrated
  refine (exec_circuitBlockForced hp tag s).trans (request_effect (op := fun t => t.forced (.circuit n)) htake hp
    (fun t m => t.replied_forced m _) ?_)
  show blockForced (.circuit n) _ = _
  unfold blockForced State.forced
  rw [show (Scope.circuit n).circuits = [n] from rfl, hforce]

/-- Settles O11: the circuits in scope cleared one after another; and the close of a rated call. -/
theorem forcedBlockClearsACircuit : Obligations.ForcedBlockClearsACircuit := by
  unfold Obligations.ForcedBlockClearsACircuit
  refine ⟨fun s tag p sc hp h hs => ⟨_, exec_circuitBlockForced_clearable hp h hs, ?_⟩, ?_⟩
  · obtain ⟨hcircuits, hcalls, hgroups, hcarriers, hothers, hself, htold⟩ := State.forced_spec
      (s := s.answer 0x04 tag (.forcedCleared (s.lostCalls sc.circuits).length
        (sc.circuits.countP fun n => (s.circuit n).usage == .incoming))) (sc := sc) hs
    exact ⟨hcircuits, hcalls, hgroups, hcarriers, hothers, hself, htold⟩
  · intro s tag p n h at_ c r k hp htake hw hu hc hn hat hat' hnow hr hmark hcharge htotal hsat hk hroom
    obtain ⟨u, hrated, -⟩ := State.ratingClose_blocked (s := s.dropHeadRequest.withoutMessages) (h := h) hat hat' hr hmark
      hcharge htotal hsat hk hroom [n]
    obtain ⟨u', hrated', k', hclose, hopen, hrecorded, hsnapshot⟩ := State.ratingClose_blocked
      (s := s.answer 0x04 tag (.forcedCleared 1 0)) (h := h) hat hat' hr hmark hcharge htotal hsat hk hroom [n]
    have hforced : (s.answer 0x04 tag (.forcedCleared 1 0)).forced (.circuit n) =
        (((u'.makeIdle n).freeCall h c).tellLost h c none).completeWatch (spanOf n) .idle := by
      unfold State.forced
      rw [show (Scope.circuit n).circuits = [n] from rfl,
        forceAll_outgoing (s := s.answer 0x04 tag (.forcedCleared 1 0)) hu hc hn hrated']
      rfl
    refine ⟨_, (exec_circuitBlockForced_rated hp htake hu hc hn hrated).trans (congrArg _ hforced), ?_⟩
    obtain ⟨hcircuit, hcircuits, hfree, hcalls, hqueue, hcarrier, raised, tag', hlist⟩ :=
      hclose.forced (s := s.answer 0x04 tag (.forcedCleared 1 0)) hw
    subst hn
    refine ⟨hcircuit, hcircuits, hfree, hcalls, hqueue, ⟨_, hcarrier, congrArg (· - 1) hopen, hrecorded, hsnapshot⟩, raised,
      tag', hlist.trans ?_⟩
    exact List.append_assoc ..

end Sys2Proof.Machine
end

section
/-! PROOFS. The link restart, and the receiver: the statements of the link break and of the frames received (R179, R183 to
R185, R191). -/

namespace Sys2Proof.Machine

open Sys2Proof

variable {s t u : State} {type : Byte} {tag : Tag} {p : List Byte}

/-! ### Records lost and flags restored -/

/-- Records that are lost are counted (R179). -/
theorem RecordQueue.foldl_lose : ∀ (rs : List Record) (q : RecordQueue), q.lost ≤ max32 →
    (rs.foldl RecordQueue.lose q).queue = q.queue ∧
      (rs.foldl RecordQueue.lose q).lost = min (q.lost + rs.length) max32
  | [], q, h => ⟨rfl, (Nat.min_eq_left h).symm⟩
  | r :: rs, q, h => by
    have hone : (q.lose r).lost = min (q.lost + 1) max32 := satAdd_eq_min ..
    obtain ⟨hqueue, hlost⟩ := RecordQueue.foldl_lose rs (q.lose r) (by rw [hone]; exact Nat.min_le_right ..)
    refine ⟨hqueue, hlost.trans ?_⟩
    rw [hone, List.length_cons]
    omega

/-- The flags that abandoned messages restore (R187, R191). -/
def State.restoredFlags (s : State) : BitVec 14 :=
  s.abandoned.foldl (fun f m => f ||| m.clearedFlags) s.link.flags

theorem foldl_clearedFlags (i : Nat) : ∀ (ms : List Message) (f : BitVec 14),
    (ms.foldl (fun f m => f ||| m.clearedFlags) f).getLsbD i = (f.getLsbD i || ms.any fun m => m.clearedFlags.getLsbD i)
  | [], f => by rw [List.foldl_nil, List.any_nil, Bool.or_false]
  | m :: ms, f => by rw [List.foldl_cons, foldl_clearedFlags i ms, BitVec.getLsbD_or, List.any_cons, Bool.or_assoc]

theorem State.restoredFlags_of_set {f : Flag} (h : s.flag f = true) : s.restoredFlags.getLsbD f.bit = true := by
  unfold State.restoredFlags
  rw [foldl_clearedFlags, show s.link.flags.getLsbD f.bit = true from h, Bool.true_or]

theorem State.restoredFlags_of_status {m : Message} {fl : BitVec 14} {d : Nat} {f : Flag} (hm : m ∈ s.abandoned)
    (hb : m.body = .status fl d) (hf : fl.getLsbD f.bit = true) : s.restoredFlags.getLsbD f.bit = true := by
  unfold State.restoredFlags
  rw [foldl_clearedFlags, Bool.or_eq_true]
  refine .inr (List.any_eq_true.mpr ⟨m, hm, ?_⟩)
  rw [Message.clearedFlags, hb]
  exact hf

/-! ### The link restart -/

/-- The part with its link emptied (R191). -/
def State.linkEmptied (s : State) : State :=
  { s with link := { s.link with
    requests := [], sendList := [], transmitter := none, assembly := none, received := [], lineBroken := true
    spaceMs := 0, flags := s.restoredFlags } }

/-- The head record of an abandoned RECORD notice leaves the queue and is lost (R179). -/
theorem State.loseHead_spec (h : s.records.queue ≠ []) :
    (s.loseHead).records.queue = s.records.queue.tail ∧ (s.loseHead).records.lost = satAdd max32 s.records.lost 1 ∧
      s.Tells s.loseHead ∧ ∃ q l, s.loseHead = { s with records := q, link := l } := by
  unfold State.loseHead
  obtain ⟨r, rest, hq⟩ := List.exists_cons_of_ne_nil h
  rw [hq]
  dsimp only
  have htells := State.tells_evaluateThresholds { s with records := { s.records with queue := rest }.lose r } .count
  obtain ⟨l, hdone⟩ := State.evaluateThresholds_spec { s with records := { s.records with queue := rest }.lose r } .count
  rw [hdone] at htells ⊢
  exact ⟨rfl, rfl, htells, _, l, rfl⟩

/-- A part whose head record is lost with an abandoned RECORD notice (R179). -/
def State.headLost (s : State) : State := if s.recordInTransmission then s.linkEmptied.loseHead else s.linkEmptied

theorem State.linkRestart_eq (s : State) : s.linkRestart =
    (s.headLost.loseAll (s.abandoned.flatMap Message.fetchedRecords)).setFlag .linkRestart := rfl

/-- What the loss of the head record leaves (R179). -/
theorem State.headLost_spec (h : s.recordInTransmission = true → s.records.queue ≠ []) (hlost : s.records.lost ≤ max32) :
    s.headLost.records.queue = (if s.recordInTransmission then s.records.queue.tail else s.records.queue) ∧
      s.headLost.records.lost = min (s.records.lost + if s.recordInTransmission then 1 else 0) max32 ∧
      s.linkEmptied.Tells s.headLost ∧ (s.recordInTransmission = false → s.headLost = s.linkEmptied) ∧
      ∃ q l, s.headLost = { s with records := q, link := l } := by
  unfold State.headLost
  cases hrecord : s.recordInTransmission with
  | false => exact ⟨rfl, (Nat.min_eq_left hlost).symm, .refl _, fun _ => rfl, _, _, rfl⟩
  | true =>
    obtain ⟨hqueue, hone, htells, q, l, hframe⟩ := State.loseHead_spec (s := s.linkEmptied) (h hrecord)
    refine ⟨hqueue, hone.trans (satAdd_eq_min ..), htells, nofun, q, l, ?_⟩
    exact hframe

theorem exec_linkBreak (hlow : s.resetLow = false) (hline : s.link.lineBroken = false) (ms : Nat) :
    exec (.linkBreak ms) s = if s.link.spaceMs + ms < 20 then
      .next { s with link := { s.link with spaceMs := s.link.spaceMs + ms } } else .next s.linkRestart := by
  show execLinkBreak ms s = _
  unfold execLinkBreak
  rw [hlow, hline, if_neg (by decide)]

/-- Settles O51: the space counted, and the restart that it reaches. -/
theorem linkBreakRestartsTheLink : Obligations.LinkBreakRestartsTheLink := by
  unfold Obligations.LinkBreakRestartsTheLink
  intro s ms hlow
  refine ⟨fun hline => ?_, fun hline hshort => (exec_linkBreak hlow hline ms).trans (if_pos hshort),
    fun hline hlong hlost hrecord => ⟨_, (exec_linkBreak hlow hline ms).trans (if_neg (by omega)), ?_⟩,
    fun hline => ?_, fun hline => ?_⟩
  · show execLinkBreak ms s = _
    unfold execLinkBreak
    rw [hline, Bool.or_true, if_pos rfl]
  · obtain ⟨hqueue, hhead, htells, hnone, q, l, hframe⟩ := State.headLost_spec hrecord hlost
    obtain ⟨hkept, hcount⟩ := RecordQueue.foldl_lose (s.abandoned.flatMap Message.fetchedRecords) s.headLost.records
      (by rw [hhead]; exact Nat.min_le_right ..)
    have hall : s.linkEmptied.Tells s.linkRestart :=
      htells.trans ((State.Tells.of_link rfl).trans (State.tells_setFlag (State.loseAll s.headLost _) .linkRestart))
    have hflag : ∀ f : Flag, s.restoredFlags.getLsbD f.bit = true → s.linkRestart.flag f = true := fun f hf => hall.flag hf
    have hrestart : s.linkRestart.flag .linkRestart = true := by
      rw [State.linkRestart_eq, State.flag_setFlag, decide_eq_true rfl, Bool.or_true]
    obtain ⟨more, flags, counter, hlink⟩ := hall
    refine ⟨by rw [hlink]; rfl, by rw [hlink]; rfl, by rw [hlink]; rfl, by rw [hlink]; rfl, by rw [hlink]; rfl,
      by rw [hlink]; rfl, by rw [hlink]; rfl, hrestart, fun f hf => hflag f (State.restoredFlags_of_set hf),
      fun m fl d f hm hb hf => hflag f (State.restoredFlags_of_status hm hb hf), hkept.trans hqueue, ?_,
      fun hno => ⟨?_, ?_, fun hf => ?_⟩, ?_⟩
    · refine hcount.trans ?_
      rw [hhead]
      show min (min _ max32 + (s.abandoned.flatMap Message.fetchedRecords).length) max32 =
        min (_ + (s.abandoned.flatMap Message.fetchedRecords).length) max32
      omega
    · rw [State.linkRestart_eq, hnone hno]
      rfl
    · rw [State.linkRestart_eq, hnone hno]
      rfl
    · rw [State.linkRestart_eq, hnone hno, show s.abandoned.flatMap Message.fetchedRecords = [] from hf]
      rfl
    · rw [State.linkRestart_eq, hframe]
      rfl
  · show execLineReturnsToMark s = _
    unfold execLineReturnsToMark
    rw [hlow, if_neg Bool.false_ne_true, hline]
    rfl
  · show execLineReturnsToMark s = _
    unfold execLineReturnsToMark
    rw [if_neg (by rw [hlow]; decide), if_neg (by rw [hline]; decide)]
    have hkept := congrArg (fun b : Bool => (.next { s with link := { s.link with lineBroken := b, spaceMs := 0 } } :
      Host.Outcome State Fault Refusal)) hline.symm
    exact hkept

end Sys2Proof.Machine
end

section
/-! PROOFS. The receiver: the frames of a message taken one after another, and frames that are not good: the statement of
the frames received (R183 to R185). -/

namespace Sys2Proof.Machine

open Sys2Proof

variable {s t u : State} {type : Byte} {tag : Tag} {p : List Byte}

/-! ### A frame on the wire -/

/-- The type byte of a message gives back its type and whether more frames follow (R183). -/
theorem frameType_bits (h : isMessageType type = true) (more : Bool) :
    frameType type more &&& 0xBF = type ∧ (frameType type more).getLsbD 6 = more := by
  have hclear : type.getLsbD 6 = false := by simpa [isMessageType] using h
  constructor
  · refine BitVec.eq_of_getLsbD_eq fun i hi => ?_
    unfold frameType
    interval_cases i <;> cases more <;> simp [BitVec.getLsbD_eq_getElem] <;> simpa using hclear
  · cases more <;> simp [frameType]

theorem State.acceptContent_frame (s : State) (more : Bool) :
    s.acceptContent (frameType type more :: be 2 tag.toNat ++ p) = s.acceptFrame (frameType type more) tag p := by
  have htag : BitVec.ofNat 16 (bytesToNat (be 2 tag.toNat)) = tag := by
    rw [bytesToNat_be, Nat.mod_eq_of_lt (show tag.toNat < 256 ^ 2 from tag.isLt), BitVec.ofNat_toNat,
      BitVec.setWidth_eq]
  show s.acceptFrame _ (BitVec.ofNat 16 (bytesToNat (be 2 tag.toNat))) p = _
  rw [htag]

/-! ### A frame judged -/

/-- A frame that goes on with the message being assembled (R184). -/
theorem State.acceptFrame_joins (h : isMessageType type = true) {a : Request} (ha : s.link.assembly = some a)
    (ht : a.type = type) (hg : a.tag = tag) (more : Bool) : s.acceptFrame (frameType type more) tag p =
      if more then s.setAssembly (some (a.join p)) else (s.setAssembly none).arrive (a.join p) := by
  obtain ⟨htype, hmore⟩ := frameType_bits h more
  unfold State.acceptFrame
  have hpair : (if a.type = type ∧ a.tag = tag then (a.join p, s) else (Request.ofPayload type tag p, s.frameError)) =
      (a.join p, s) := if_pos (And.intro ht hg)
  rw [htype, ha]
  dsimp only
  rw [hpair, hmore]

/-- The part that a message of its own begins on: another that was being assembled is discarded (R184). -/
def State.judgedFresh (s : State) : State := if s.link.assembly = none then s else s.frameError

theorem State.acceptFrame_begins (h : isMessageType type = true)
    (ha : ∀ a, s.link.assembly = some a → a.type ≠ type ∨ a.tag ≠ tag) (more : Bool) :
    s.acceptFrame (frameType type more) tag p =
      if more then s.judgedFresh.setAssembly (some (Request.ofPayload type tag p))
      else (s.judgedFresh.setAssembly none).arrive (Request.ofPayload type tag p) := by
  obtain ⟨htype, hmore⟩ := frameType_bits h more
  unfold State.acceptFrame State.judgedFresh
  rw [htype, hmore]
  cases hs : s.link.assembly with
  | none =>
    dsimp only
    rw [if_pos rfl]
  | some a =>
    have hpair : (if a.type = type ∧ a.tag = tag then (a.join p, s) else (Request.ofPayload type tag p, s.frameError)) =
        (Request.ofPayload type tag p, s.frameError) :=
      if_neg fun hsame => (ha a hs).elim (absurd hsame.1) (absurd hsame.2)
    dsimp only
    rw [hpair, if_neg (Option.some_ne_none a)]

theorem Request.join_whole {a : Request} (h : a.payload.length + p.length ≤ 4096) :
    a.join p = { a with payload := a.payload ++ p } := by
  unfold Request.join
  rw [List.take_of_length_le (by rw [List.length_append]; exact h), decide_eq_false (by omega), Bool.or_false]

/-! ### The frames of a message -/

theorem State.receive_frame (hp : p.length ≤ 1024) (more : Bool) (rest : List Byte) (fuel : Nat) :
    State.receive (fuel + 1) (s.setReceived (frame type more tag p ++ rest)) =
      State.receive fuel ((s.setReceived rest).acceptFrame (frameType type more) tag p) := by
  rw [State.receive, show (s.setReceived (frame type more tag p ++ rest)).link.received = frame type more tag p ++ rest from rfl,
    judgeFrame_frame hp]
  dsimp only
  rw [State.acceptContent_frame]
  rfl

theorem State.receive_nothing (h : s.link.received = []) (fuel : Nat) : State.receive (fuel + 1) s = s.setReceived [] := by
  rw [State.receive, h]
  rfl

theorem State.arrive_setReceived (s : State) (r : Request) (bs : List Byte) :
    (s.setReceived bs).arrive r = (s.arrive r).setReceived bs := by
  unfold State.arrive
  by_cases hroom : s.link.requests.length < requestCapacity
  · rw [if_pos hroom]
    exact if_pos hroom
  rw [if_neg hroom]
  refine (if_neg hroom).trans ?_
  by_cases hsend : s.link.sendList.length < 64
  · dsimp only
    rw [if_pos hsend]
    exact if_pos hsend
  · dsimp only
    rw [if_neg hsend]
    exact if_neg hsend

/-- A request with further bytes at the end of its payload. -/
def Request.extended (a : Request) (p : List Byte) : Request := { a with payload := a.payload ++ p }

/-- The part takes the next frame of a message as the continuation of `a`, and is `u` but for the assembly, whatever
bytes have been received (R184). -/
def State.TakesFrames (s u : State) (type : Byte) (tag : Tag) (a : Request) : Prop :=
  ∀ (bs : List Byte) (more : Bool) (p : List Byte), a.payload.length + p.length ≤ 4096 →
    (s.setReceived bs).acceptFrame (frameType type more) tag p =
      if more then (u.setReceived bs).setAssembly (some (a.extended p))
      else ((u.setReceived bs).setAssembly none).arrive (a.extended p)

theorem State.takesFrames_joins (h : isMessageType type = true) {a : Request} (ha : s.link.assembly = some a)
    (ht : a.type = type) (hg : a.tag = tag) : s.TakesFrames s type tag a := by
  intro bs more p hp
  rw [State.acceptFrame_joins (s := s.setReceived bs) h ha ht hg, Request.join_whole hp]
  rfl

theorem State.takesFrames_begins (h : isMessageType type = true)
    (ha : ∀ a, s.link.assembly = some a → a.type ≠ type ∨ a.tag ≠ tag) :
    s.TakesFrames s.judgedFresh type tag { type := type, tag := tag, payload := [], overlong := false } := by
  intro bs more p hp
  have hwhole : Request.ofPayload type tag p =
      Request.extended { type := type, tag := tag, payload := [], overlong := false } p := by
    have hlen : p.length ≤ 4096 := by simpa using hp
    unfold Request.ofPayload
    rw [List.take_of_length_le hlen, decide_eq_false (by omega)]
    rfl
  have hfresh : (s.setReceived bs).judgedFresh = s.judgedFresh.setReceived bs := by
    unfold State.judgedFresh
    cases hs : s.link.assembly with
    | none => exact if_pos hs
    | some a => exact if_neg (Option.some_ne_none a ∘ hs.symm.trans)
  rw [State.acceptFrame_begins (s := s.setReceived bs) h ha, hwhole, hfresh]

theorem State.receive_arrived (s : State) (r : Request) (fuel : Nat) :
    State.receive (fuel + 1) (((s.setReceived []).setAssembly none).arrive r) =
      ((s.setAssembly none).arrive r).setReceived [] := by
  have hswap : ((s.setReceived []).setAssembly none).arrive r = ((s.setAssembly none).arrive r).setReceived [] :=
    State.arrive_setReceived (s.setAssembly none) r []
  rw [hswap, State.receive_nothing rfl]
  rfl

/-- The last frame of a message completes it (R184). -/
theorem State.receive_last {a : Request} (htakes : s.TakesFrames u type tag a) (hp : p.length ≤ 1024)
    (hlen : a.payload.length + p.length ≤ 4096) (fuel : Nat) :
    State.receive (fuel + 2) (s.setReceived (frame type false tag p)) =
      ((u.setAssembly none).arrive (a.extended p)).setReceived [] := by
  have hone := State.receive_frame (s := s) (type := type) (tag := tag) hp false [] (fuel + 1)
  rw [List.append_nil, htakes [] false p hlen] at hone
  exact hone.trans (State.receive_arrived u (a.extended p) fuel)

/-- The frames of a message, taken one after another, complete it (R184). -/
theorem State.receive_frames (h : isMessageType type = true) :
    ∀ (k fuel : Nat) (p : List Byte) (s u : State) (a : Request), s.TakesFrames u type tag a →
      a.type = type → a.tag = tag → a.payload.length + p.length ≤ 4096 → p.length ≤ 1024 * (k + 1) → k + 2 ≤ fuel →
      State.receive fuel (s.setReceived (framesFrom k type tag p)) =
        ((u.setAssembly none).arrive (a.extended p)).setReceived [] := by
  intro k
  induction k with
  | zero =>
    intro fuel p s u a htakes _ _ hlen hp hfuel
    obtain ⟨fuel, rfl⟩ := Nat.exists_eq_add_of_le' hfuel
    exact State.receive_last htakes (by omega) hlen fuel
  | succ k ih =>
    intro fuel p s u a htakes ht hg hlen hp hfuel
    obtain ⟨fuel, rfl⟩ := Nat.exists_eq_add_of_le' (show 2 ≤ fuel by omega)
    by_cases hshort : p.length ≤ 1024
    · rw [framesFrom, if_pos hshort]
      exact State.receive_last htakes hshort hlen fuel
    have htake : (p.take 1024).length = 1024 := by rw [List.length_take]; omega
    have hdrop : (p.drop 1024).length = p.length - 1024 := List.length_drop
    have hjoined : (a.extended (p.take 1024)).payload.length = a.payload.length + 1024 := by
      simp only [Request.extended, List.length_append, htake]
    rw [framesFrom, if_neg hshort, State.receive_frame (by rw [htake]), htakes _ true _ (by omega), if_pos rfl]
    have hrest := ih (fuel + 1) (p.drop 1024) (u.setAssembly (some (a.extended (p.take 1024)))) _ _
      (State.takesFrames_joins h rfl ht hg) ht hg (by omega) (by omega) (by omega)
    refine hrest.trans ?_
    have hall : (a.extended (p.take 1024)).extended (p.drop 1024) = a.extended p := by
      simp only [Request.extended, List.append_assoc, List.take_append_drop]
    rw [hall]
    rfl

theorem framesFrom_length (k : Nat) : ∀ p : List Byte, p.length + 8 ≤ (framesFrom k type tag p).length := by
  induction k with
  | zero => exact fun p => by rw [framesFrom, frame_length, Nat.add_comm]
  | succ k ih =>
    intro p
    rw [framesFrom]
    split
    · rw [frame_length, Nat.add_comm]
    · have hrest := ih (p.drop 1024)
      rw [List.length_drop] at hrest
      rw [List.length_append, frame_length, List.length_take]
      omega

/-! ### The command of the bytes received -/

/-- The line of the part is at mark, and no bytes wait to be judged. -/
def State.atMark (s : State) : State := { s with link := { s.link with spaceMs := 0 } }

/-- The bytes are judged with none before them (R184). -/
theorem exec_frameReceived {bs : List Byte} (hlow : s.resetLow = false) (hbreak : s.link.lineBroken = false)
    (hnone : s.link.received = []) (hbs : bs ≠ []) :
    exec (.frameReceived bs) s = .next (State.receive (bs.length + 1) (s.atMark.setReceived bs)) := by
  show execFrameReceived bs s = _
  unfold execFrameReceived
  rw [if_neg (by rw [hlow, hbreak]; decide)]
  unfold State.takeBytes
  dsimp only
  rw [if_neg hbs]
  have hall : s.link.received ++ bs = bs := by rw [hnone, List.nil_append]
  rw [hall]
  rfl

theorem State.arrive_of_room {r : Request} (h : s.link.requests.length < 64) :
    s.arrive r = { s with link := { s.link with requests := s.link.requests ++ [r] } } := if_pos h

/-- The frames of a whole message queue the request that it completes (R184, R185). -/
theorem exec_frameReceived_frames {a : Request} (h : isMessageType type = true) (hp : a.payload.length + p.length ≤ 4096)
    (hlow : s.resetLow = false) (hbreak : s.link.lineBroken = false) (hnone : s.link.received = [])
    (htakes : s.atMark.TakesFrames u type tag a) (ht : a.type = type) (hg : a.tag = tag) :
    exec (.frameReceived (frames type tag p)) s =
      .next (((u.setAssembly none).arrive (a.extended p)).setReceived []) := by
  have hlong : p.length + 8 ≤ (frames type tag p).length := framesFrom_length _ p
  rw [exec_frameReceived hlow hbreak hnone (List.ne_nil_of_length_pos (by omega))]
  exact congrArg _ (State.receive_frames h _ _ p _ u a htakes ht hg hp (by omega) (by omega))

/-! ### Frames that are not good -/

/-- A frame that is judged bad, with no other start byte after it, is discarded with the message being assembled
(R184). -/
theorem exec_frameReceived_bad {bs : List Byte} (hlow : s.resetLow = false) (hbreak : s.link.lineBroken = false)
    (hnone : s.link.received = []) (hbad : judgeFrame bs = .bad bs) (hno : ∀ b ∈ bs, b ≠ 0xC3) :
    exec (.frameReceived (0xC3 :: bs)) s = .next (s.atMark.frameError.setReceived []) := by
  rw [exec_frameReceived hlow hbreak hnone (List.cons_ne_nil _ _)]
  have hseek : seekFrame (s.atMark.setReceived (0xC3 :: bs)).link.received = .bad bs := (if_pos rfl).trans hbad
  rw [State.receive, hseek]
  dsimp only [List.length_cons]
  have hrest : seekFrame ((s.atMark.setReceived (0xC3 :: bs)).frameError.setReceived bs).link.received = .waiting [] :=
    seekFrame_of_no_start hno
  rw [State.receive, hrest]
  rfl

/-- The two frames that are not good: a length out of range, or another CRC (R184). -/
theorem frameError_atMark (hnone : s.link.received = []) : s.atMark.frameError.setReceived [] =
    let e := s.setFlag .frameError
    { e with link := { e.link with assembly := none, spaceMs := 0 } } :=
  congrArg (fun bs => { s.setFlag .frameError with
    link := { (s.setFlag .frameError).link with assembly := none, spaceMs := 0, received := bs } }) hnone.symm

/-- A message that is complete on a line at mark joins the queue, which has room for it (R184, R185). -/
theorem arrived_atMark {r : Request} (hnone : s.link.received = []) (hroom : s.link.requests.length < 64) :
    ((s.atMark.setAssembly none).arrive r).setReceived [] =
      { s with link := { s.link with assembly := none, spaceMs := 0, requests := s.link.requests ++ [r] } } := by
  rw [State.arrive_of_room (s := s.atMark.setAssembly none) hroom]
  exact congrArg (fun bs => { s with link := { s.link with
    assembly := none, spaceMs := 0, requests := s.link.requests ++ [r], received := bs } }) hnone.symm

theorem judgedFresh_atMark (s : State) : s.atMark.judgedFresh.setAssembly none =
    (if s.link.assembly = none then s else s.setFlag .frameError).atMark.setAssembly none := by
  unfold State.judgedFresh
  by_cases hs : s.link.assembly = none
  · rw [if_pos hs]
    exact congrArg (State.setAssembly · none) (if_pos hs)
  · rw [if_neg hs, if_neg (show ¬s.atMark.link.assembly = none from hs)]
    rfl

/-- Settles O52: the frames of a message are taken one after another, each as the continuation of the ones before it. -/
theorem receiverJudgesFrames : Obligations.ReceiverJudgesFrames := by
  refine ⟨fun s type tag payload h hp hlow hbreak hnone hroom => ⟨fun ha => ?_, fun a ha ht hg hlen => ?_⟩,
    fun s h l rest hlow hbreak hnone hlen hh hl hrest => ?_,
    fun s h l content c d hlow hbreak hnone hlen hmin hmax hcrc hno => ?_⟩
  · have htakes := State.takesFrames_begins (s := s.atMark) h ha
    rw [exec_frameReceived_frames h (by simpa using hp) hlow hbreak hnone htakes rfl rfl, judgedFresh_atMark]
    dsimp only
    split
    · rw [arrived_atMark hnone hroom]
      rfl
    · rw [arrived_atMark (s := s.setFlag .frameError) hnone hroom]
      rfl
  · have htakes := State.takesFrames_joins (s := s.atMark) h ha ht hg
    rw [exec_frameReceived_frames h hlen hlow hbreak hnone htakes ht hg, arrived_atMark hnone hroom]
    rfl
  · have hvalue : bytesToNat [h, l] < 3 ∨ 1027 < bytesToNat [h, l] := by simpa [bytesToNat] using hlen
    have hbad : judgeFrame (h :: l :: rest) = .bad (h :: l :: rest) := if_pos hvalue
    rw [exec_frameReceived_bad hlow hbreak hnone hbad (by simpa using ⟨hh, hl, hrest⟩), frameError_atMark hnone]
  · have hvalue : bytesToNat [h, l] = content.length := by simpa [bytesToNat] using hlen
    have hbad : judgeFrame (h :: l :: (content ++ [c, d])) = .bad (h :: l :: (content ++ [c, d])) := by
      unfold judgeFrame
      dsimp only
      rw [hvalue, if_neg (by omega), if_neg (by simp), List.take_left, List.drop_left, if_neg]
      simpa [bytesToNat] using hcrc
    refine (exec_frameReceived_bad hlow hbreak hnone hbad hno).trans ?_
    rw [frameError_atMark hnone]

end Sys2Proof.Machine
end

section
/-! PROOFS. The sample of the congestion monitor: one group after another, the rollover, and the guard (R98 to R104,
R114). -/

namespace Sys2Proof.Machine

open Sys2Proof

variable {s t u : State}

/-! ### The sample of one group -/

/-- A defined group after a sample. -/
def State.sampledGroup (s : State) (grp : Group) : Group := grp.sampled (s.availableCount grp)

/-- The notice of a sample of one group (R101). -/
def State.levelTold (s : State) (e : Nat × Group) : Option Body :=
  if (s.sampledGroup e.2).level ≠ e.2.level ∧ (s.enabled .level && e.2.defn.levelNotice) = true then
    some (.noticeLevel e.1 e.2.level (s.sampledGroup e.2).level) else none

theorem State.raiseIf_bodies (s : State) (on : Bool) (k : Nat) (b : Body) : (s.raiseIf on k b).link.sendList.map Message.body =
    s.link.sendList.map Message.body ++ (if on then [b] else []) := by
  cases on
  · exact (List.append_nil _).symm
  · exact List.map_append

/-- The groups of some entries have been sampled, and nothing else. -/
structure State.Sampled (s t : State) (es : List (Nat × Group)) : Prop where
  groups : ∀ g, Table.find t.groups g =
    if g ∈ es.map Prod.fst then (Table.find s.groups g).map s.sampledGroup else Table.find s.groups g
  flag : t.flag .level = true ↔ s.flag .level = true ∨ ∃ e ∈ es, (s.sampledGroup e.2).level ≠ e.2.level
  sends : t.link.sendList.map Message.body = s.link.sendList.map Message.body ++ es.filterMap s.levelTold
  frame : ∃ gs l, t = { s with groups := gs, link := l } ∧ l.requests = s.link.requests ∧ l.enables = s.link.enables

theorem State.Sampled.nil (s : State) : s.Sampled s [] :=
  ⟨fun _ => rfl, ⟨.inl, fun h => h.elim id fun ⟨_, he, _⟩ => (List.not_mem_nil he).elim⟩, (List.append_nil _).symm,
    s.groups, s.link, rfl, rfl, rfl⟩

theorem State.sampleGroup_of_same {g : Nat} {grp : Group} (h : Table.find s.groups g = some grp)
    (hsame : (s.sampledGroup grp).level = grp.level) :
    s.sampleGroup g = s.modifyGroup g fun _ => s.sampledGroup grp := by
  unfold State.sampleGroup
  rw [h]
  exact if_pos hsame

theorem State.sampleGroup_of_changed {g : Nat} {grp : Group} (h : Table.find s.groups g = some grp)
    (hne : (s.sampledGroup grp).level ≠ grp.level) :
    s.sampleGroup g = ((s.modifyGroup g fun _ => s.sampledGroup grp).setFlag .level).raiseIf
      (s.enabled .level && grp.defn.levelNotice) codeLevel (.noticeLevel g grp.level (s.sampledGroup grp).level) := by
  unfold State.sampleGroup
  rw [h]
  exact if_neg hne

/-- The sample of one group (R99 to R102). -/
theorem State.sampled_one {e : Nat × Group} (h : Table.find s.groups e.1 = some e.2) : s.Sampled (s.sampleGroup e.1) [e] := by
  have hgroups : ∀ g, Table.find (s.modifyGroup e.1 fun _ => s.sampledGroup e.2).groups g =
      if g ∈ [e].map Prod.fst then (Table.find s.groups g).map s.sampledGroup else Table.find s.groups g := by
    intro g
    rw [List.map_singleton, State.find_modifyGroup]
    by_cases hg : g = e.1
    · rw [if_pos (List.mem_singleton.mpr hg), hg, h]
      simp
    · rw [if_neg (hg ∘ List.mem_singleton.mp)]
      simp [hg]
  by_cases hsame : (s.sampledGroup e.2).level = e.2.level
  · rw [State.sampleGroup_of_same h hsame]
    refine ⟨hgroups, ⟨.inl, fun hor => hor.elim id fun ⟨e', he', hne⟩ => ?_⟩, ?_, _, s.link, rfl, rfl, rfl⟩
    · rw [List.mem_singleton.mp he'] at hne
      exact absurd hsame hne
    · have hquiet : s.levelTold e = none := if_neg fun hne => hne.1 hsame
      rw [List.filterMap_cons_none hquiet]
      exact (List.append_nil _).symm
  · rw [State.sampleGroup_of_changed h hsame]
    refine ⟨?groups, ?flag, ?sends, ?frame⟩
    case groups => simpa using hgroups
    case flag =>
      rw [State.flag_raiseIf, State.flag_setFlag, decide_eq_true rfl, Bool.or_true]
      exact ⟨fun _ => .inr ⟨e, List.mem_singleton_self e, hsame⟩, fun _ => rfl⟩
    case sends =>
      rw [State.raiseIf_bodies]
      refine congrArg (_ ++ ·) ?_
      cases hon : s.enabled .level && e.2.defn.levelNotice with
      | false =>
        have hquiet : s.levelTold e = none := if_neg fun hne => Bool.false_ne_true (hon.symm.trans hne.2)
        rw [List.filterMap_cons_none hquiet]
        rfl
      | true =>
        have htold : s.levelTold e = some (.noticeLevel e.1 e.2.level (s.sampledGroup e.2).level) :=
          if_pos ⟨hsame, hon⟩
        rw [List.filterMap_cons_some htold]
        rfl
    case frame =>
      cases s.enabled .level && e.2.defn.levelNotice <;> exact ⟨_, _, rfl, rfl, rfl⟩

/-- Samples of groups one after another. -/
theorem State.Sampled.cons {e : Nat × Group} {es : List (Nat × Group)} (h : s.Sampled t [e]) (hrest : t.Sampled u es)
    (hnew : e.1 ∉ es.map Prod.fst) : s.Sampled u (e :: es) := by
  obtain ⟨gs, l, hframe, hrequests, henables⟩ := h.frame
  have hgroup : t.sampledGroup = s.sampledGroup := by rw [hframe]; rfl
  have htold : t.levelTold = s.levelTold := by
    funext e
    unfold State.levelTold State.enabled
    rw [hgroup, hframe, henables]
  refine ⟨fun g => ?_, ?_, ?_, ?_⟩
  · rw [hrest.groups, h.groups, hgroup]
    by_cases hg : g = e.1
    · rw [if_neg (hg ▸ hnew), if_pos (by simp [hg]), if_pos (by simp [hg])]
    · have hmem : g ∈ (e :: es).map Prod.fst ↔ g ∈ es.map Prod.fst := by simp [hg]
      rw [if_neg (show g ∉ [e].map Prod.fst from hg ∘ List.mem_singleton.mp)]
      exact if_congr hmem.symm rfl rfl
  · rw [hrest.flag, h.flag, hgroup]
    simp [or_assoc]
  · rw [hrest.sends, h.sends, htold, List.append_assoc, ← List.filterMap_append]
    rfl
  · obtain ⟨gs', l', hframe', hrequests', henables'⟩ := hrest.frame
    exact ⟨gs', l', by rw [hframe', hframe], hrequests'.trans (by rw [hframe, hrequests]),
      henables'.trans (by rw [hframe, henables])⟩

/-- Every defined group is sampled (R98). -/
theorem State.foldl_sampleGroup_sampled : ∀ (es : List (Nat × Group)) (s : State), (es.map Prod.fst).Nodup →
    (∀ e ∈ es, Table.find s.groups e.1 = some e.2) → s.Sampled ((es.map Prod.fst).foldl State.sampleGroup s) es
  | [], s, _, _ => .nil s
  | e :: es, s, hnodup, hall => by
    obtain ⟨hnew, hnodup'⟩ := List.nodup_cons.mp hnodup
    have hone := State.sampled_one (hall e List.mem_cons_self)
    refine hone.cons (State.foldl_sampleGroup_sampled es _ hnodup' fun e' he' => ?_) hnew
    have hne : e'.1 ∉ [e].map Prod.fst := fun heq =>
      hnew (List.mem_singleton.mp heq ▸ List.mem_map_of_mem he')
    rw [hone.groups, if_neg hne]
    exact hall e' (List.mem_cons_of_mem _ he')

/-! ### The level -/

/-- The median of the shifted history, spelled out (R100). -/
theorem History.median_shift (h : History) (c : Level) : (h.shift c).median =
    if h.middle = h.newest then h.middle else if c = h.middle ∨ c = h.newest then c else .busy := by
  unfold History.shift History.median
  dsimp only
  by_cases hsame : h.middle = h.newest
  · rw [if_pos (.inl hsame), if_pos hsame]
  rw [if_neg hsame]
  by_cases hmiddle : h.middle = c
  · rw [if_pos (.inr hmiddle), if_pos (.inl hmiddle.symm), hmiddle]
  rw [if_neg (not_or.mpr ⟨hsame, hmiddle⟩)]
  by_cases hnewest : h.newest = c
  · rw [if_pos hnewest, if_pos (.inr hnewest.symm), hnewest]
  · rw [if_neg hnewest, if_neg (not_or.mpr ⟨hmiddle ∘ Eq.symm, hnewest ∘ Eq.symm⟩)]

/-! ### The rollover and the guard -/

/-- Whether the statistics roll over at this sample (R104). -/
def State.rolls (s : State) : Bool := decide (s.monitor.statsInterval ≤ s.monitor.samplesInInterval + 1)

theorem State.rollover_spec (s : State) : ∃ gs, s.rollover = { s with
      groups := gs
      monitor := { s.monitor with samplesInInterval := if s.rolls then 0 else s.monitor.samplesInInterval + 1 } } ∧
    ∀ g, Table.find gs g = (Table.find s.groups g).map fun grp => if s.rolls then grp.rolledOver else grp := by
  unfold State.rollover State.rolls
  dsimp only
  by_cases h : s.monitor.statsInterval ≤ s.monitor.samplesInInterval + 1
  · rw [if_pos h, decide_eq_true h]
    exact ⟨_, rfl, fun g => Table.find_mapAll ..⟩
  · rw [if_neg h, decide_eq_false h]
    exact ⟨s.groups, rfl, fun g => Option.map_id'.symm⟩

theorem Guard.evaluated_lastEval (g : Guard) (seconds congested depth : Nat) :
    (g.evaluated seconds congested depth).lastEval =
      some ⟨seconds, congested, depth, g.condition congested depth⟩ := by
  by_cases hauto : g.setting = .auto
  · rw [Guard.evaluated_auto hauto, Guard.autoStep_lastEval]
  · rw [Guard.evaluated_forced hauto]

theorem Guard.evaluated_setting (g : Guard) (seconds congested depth : Nat) :
    (g.evaluated seconds congested depth).setting = g.setting := by
  by_cases hauto : g.setting = .auto
  · rw [Guard.evaluated_auto hauto]
    unfold Guard.autoStep
    split <;> try rfl
    split <;> rfl
  · rw [Guard.evaluated_forced hauto]

/-- An evaluation tells of a change of state, and of nothing else (R117). -/
theorem State.evaluateGuard_told (s : State) (congested depth : Nat) :
    (s.evaluateGuard congested depth).flag .level = s.flag .level ∧
    (s.evaluateGuard congested depth).link.sendList.map Message.body = s.link.sendList.map Message.body ++
      let g := s.guard.evaluated s.time.seconds congested depth
      (if g.state ≠ s.guard.state ∧ s.enabled .guard = true
        then [Body.noticeGuard s.guard.state g.state s.guard.setting
          (if g.state = .guarded then .condition else .cleared) (some (congested, depth)) s.time.seconds]
        else []) := by
  unfold State.evaluateGuard State.reportGuard
  dsimp only
  by_cases hsame : (s.guard.evaluated s.time.seconds congested depth).state = s.guard.state
  · rw [if_pos hsame, if_neg fun h => h.1 hsame]
    exact ⟨rfl, (List.append_nil _).symm⟩
  rw [if_neg hsame]
  refine ⟨(State.flag_raiseIf ..).trans ((State.flag_setFlag ..).trans (by rw [decide_eq_false (by decide), Bool.or_false]; rfl)), ?_⟩
  rw [State.raiseIf_bodies]
  refine congrArg (_ ++ ·) ?_
  rw [Guard.evaluated_setting]
  have hen : State.enabled { s with guard := s.guard.evaluated s.time.seconds congested depth } .guard = s.enabled .guard :=
    rfl
  rw [hen]
  refine if_congr (by simp [hsame]) ?_ rfl
  cases (s.guard.evaluated s.time.seconds congested depth).state <;> rfl

/-! ### The sample -/

/-- A sample, part by part (R98 to R104, R114). -/
theorem State.sample_spec (hr : Table.rising s.groups = true) :
    ∃ (t : State) (gs : Table Group) (l : Link), s.Sampled t s.groups ∧ s.sample = { s with
        groups := gs
        monitor := { s.monitor with
          samplesInInterval := if s.rolls then 0 else s.monitor.samplesInInterval + 1
          nextSample := some ((s.time.seconds + s.monitor.sampleInterval) % 4294967296) }
        guard := s.guard.evaluated s.time.seconds (gs.countP fun e => e.2.level == .congested) s.link.requests.length
        link := l } ∧
      (∀ g, Table.find gs g = (Table.find t.groups g).map fun grp => if s.rolls then grp.rolledOver else grp) ∧
      s.sample.flag .level = t.flag .level ∧
      s.sample.link.sendList.map Message.body = t.link.sendList.map Message.body ++
        let g := s.guard.evaluated s.time.seconds (gs.countP fun e => e.2.level == .congested) s.link.requests.length
        (if g.state ≠ s.guard.state ∧ s.enabled .guard = true
          then [Body.noticeGuard s.guard.state g.state s.guard.setting
            (if g.state = .guarded then .condition else .cleared)
            (some ((gs.countP fun e => e.2.level == .congested), s.link.requests.length)) s.time.seconds]
          else []) := by
  have hsampled := State.foldl_sampleGroup_sampled s.groups s
    (List.pairwise_map.mpr (((Table.rising_iff _).mp hr).imp Nat.ne_of_lt)) fun e he => Table.find_of_mem hr he
  generalize hfold : (s.groups.map Prod.fst).foldl State.sampleGroup s = t at hsampled
  obtain ⟨gs₀, l₀, rfl, hrequests, henables⟩ := hsampled.frame
  obtain ⟨gs, hroll, hfind⟩ := State.rollover_spec { s with groups := gs₀, link := l₀ }
  have hsample : s.sample = State.evaluateGuard { s with
      groups := gs
      monitor := { s.monitor with
        samplesInInterval := if s.rolls then 0 else s.monitor.samplesInInterval + 1
        nextSample := some ((s.time.seconds + s.monitor.sampleInterval) % 4294967296) }
      link := l₀ } (gs.countP fun e => e.2.level == .congested) s.link.requests.length := by
    unfold State.sample
    dsimp only
    have hfold' : (s.groups.map fun e => e.1).foldl State.sampleGroup s = { s with groups := gs₀, link := l₀ } := hfold
    rw [hfold', hroll, State.groupsAt_eq, ← hrequests]
    rfl
  obtain ⟨l, hframe⟩ := State.evaluateGuard_frame { s with
    groups := gs
    monitor := { s.monitor with
      samplesInInterval := if s.rolls then 0 else s.monitor.samplesInInterval + 1
      nextSample := some ((s.time.seconds + s.monitor.sampleInterval) % 4294967296) }
    link := l₀ } (gs.countP fun e => e.2.level == .congested) s.link.requests.length
  obtain ⟨hflag, hsends⟩ := State.evaluateGuard_told { s with
    groups := gs
    monitor := { s.monitor with
      samplesInInterval := if s.rolls then 0 else s.monitor.samplesInInterval + 1
      nextSample := some ((s.time.seconds + s.monitor.sampleInterval) % 4294967296) }
    link := l₀ } (gs.countP fun e => e.2.level == .congested) s.link.requests.length
  refine ⟨_, gs, l, hsampled, hsample.trans hframe, hfind, (congrArg (State.flag · .level) hsample).trans hflag, ?_⟩
  rw [hsample, hsends]
  unfold State.enabled
  dsimp only
  rw [henables]

/-- Settles O32: the groups are sampled one after another, and the guard judges what the rollover leaves. -/
theorem sampleOfEveryGroup : Obligations.SampleOfEveryGroup := by
  intro s hlow hhold hdue hr
  obtain ⟨t, gs, l, hsampled, hsample, hfind, hflag, hsends⟩ := State.sample_spec hr
  have hexec : exec .sampleInstant s = .next s.sample := by
    show execSampleInstant s = _
    unfold execSampleInstant State.sampleDue
    rw [if_neg (by rw [hlow, hdue]; simp), hhold]
  have hmem {g : Nat} {grp : Group} (h : Table.find s.groups g = some grp) : g ∈ s.groups.map Prod.fst :=
    List.mem_map_of_mem (Table.mem_of_find h)
  have hof {g : Nat} {grp : Group} (h : Table.find s.groups g = some grp) :
      Table.find gs g = some (if s.rolls then (s.sampledGroup grp).rolledOver else s.sampledGroup grp) := by
    rw [hfind, hsampled.groups, if_pos (hmem h), h]
    rfl
  have hlevel {g : Nat} {grp : Group} (h : Table.find s.groups g = some grp) :
      (Table.find gs g).map (fun x => x.level) = some (s.sampledGroup grp).level := by
    rw [hof h]
    cases s.rolls <;> rfl
  refine ⟨_, hexec, ?_⟩
  have hgroups : s.sample.groups = gs := by rw [hsample]
  have hguard : s.sample.guard = s.guard.evaluated s.time.seconds (gs.countP fun e => e.2.level == .congested)
    s.link.requests.length := by rw [hsample]
  dsimp only
  rw [hgroups, hguard]
  refine ⟨fun g grp h => ?groups, fun g h => ?undefined, ?monitor, ?eval, ?flag, ?sends, ?frame⟩
  case groups =>
    rw [hof h]
    unfold State.sampledGroup Group.sampled
    dsimp only
    rw [History.median_shift]
    unfold State.rolls
    cases decide (s.monitor.statsInterval ≤ s.monitor.samplesInInterval + 1) <;> rfl
  case undefined =>
    rw [hfind, hsampled.groups, h]
    simp
  case monitor => rw [hsample]; rfl
  case eval =>
    rw [Guard.evaluated_lastEval]
    unfold Guard.condition
    rw [Bool.decide_or]
  case flag =>
    rw [hflag, hsampled.flag]
    refine or_congr_right ⟨fun ⟨e, he, hne⟩ => ?_, fun ⟨g, grp, grp', h, h', hne⟩ => ?_⟩
    · have h := Table.find_of_mem hr he
      obtain ⟨grp', h', hl⟩ := Option.map_eq_some_iff.mp (hlevel h)
      exact ⟨e.1, e.2, grp', h, h', hl ▸ hne⟩
    · have hl := hlevel h
      rw [h', Option.map_some, Option.some.injEq] at hl
      exact ⟨(g, grp), Table.mem_of_find h, hl ▸ hne⟩
  case sends =>
    rw [hsends, hsampled.sends]
    refine congrArg (· ++ _) (congrArg (_ ++ ·) (List.filterMap_congr fun e he => ?_))
    rw [hlevel (Table.find_of_mem hr he)]
    rfl
  case frame =>
    rw [hsample]

end Sys2Proof.Machine
end

section
/-! PROOFS. Glare: the circuit held, or given to the far end and the call rerouted (R17, R39 to R41, R91 to R93). -/

namespace Sys2Proof.Machine

open Sys2Proof

variable {s t u : State}

/-! ### What hunts change -/

/-- The glares that the groups have counted stand. -/
def State.SameGlares (s t : State) : Prop :=
  ∀ k, (Table.find t.groups k).map (fun grp => grp.current.glares) =
    (Table.find s.groups k).map fun grp => grp.current.glares

theorem State.sameGlares_modify (s : State) (g : Nat) {f : Group → Group}
    (hf : ∀ grp, (f grp).current.glares = grp.current.glares) : s.SameGlares (s.modifyGroup g f) := by
  intro k
  rw [State.find_modifyGroup]
  by_cases hk : k = g
  · rw [if_pos hk, hk, Option.map_map]
    exact congrArg (Option.map · _) (funext hf)
  · rw [if_neg hk]

/-- Hunts have counted in the groups, and nothing else. -/
structure State.Hunted (s t : State) : Prop where
  frame : ∃ gs, t = { s with groups := gs }
  glares : s.SameGlares t

/-- A hunt has seized a circuit that was available, and hunts have counted in the groups. -/
structure State.Seized (s t : State) (h n : Nat) : Prop where
  frame : ∃ cs gs, t = { s with circuits := cs, groups := gs }
  glares : s.SameGlares t
  free : s.available n = true
  circuits : ∀ m, t.circuit m = if m = n then { s.circuit n with usage := .outgoing h } else s.circuit m

theorem State.Hunted.refl (s : State) : s.Hunted s := ⟨⟨s.groups, rfl⟩, fun _ => rfl⟩

theorem State.Hunted.trans (h : s.Hunted t) (h' : t.Hunted u) : s.Hunted u := by
  obtain ⟨gs, rfl⟩ := h.frame
  obtain ⟨gs', rfl⟩ := h'.frame
  exact ⟨⟨gs', rfl⟩, fun k => (h'.glares k).trans (h.glares k)⟩

theorem State.Hunted.seized {h n : Nat} (hunted : s.Hunted t) (hseized : t.Seized u h n) : s.Seized u h n := by
  obtain ⟨gs, rfl⟩ := hunted.frame
  obtain ⟨cs, gs', rfl⟩ := hseized.frame
  exact ⟨⟨cs, gs', rfl⟩, fun k => (hseized.glares k).trans (hunted.glares k), hseized.free, hseized.circuits⟩

theorem State.hunted_overflow (s : State) (g : Nat) : s.Hunted (s.modifyGroup g Group.afterOverflow) :=
  ⟨⟨_, rfl⟩, s.sameGlares_modify g fun _ => rfl⟩

theorem State.seized_hunt {n : Nat} (g q h : Nat) (ha : s.available n = true) :
    s.Seized ((s.modifyGroup g fun grp => grp.afterSeizure q).setUsage n (.outgoing h)) h n := by
  have hgroups : ∀ (v : State) (u : Usage), v.SameGlares (v.setUsage n u) := fun v u => by
    cases hg : (v.circuit n).group with
    | none => rw [v.setUsage_of_none hg]; exact fun _ => rfl
    | some k =>
      rw [v.setUsage_of_some hg]
      exact (v.setCircuit n { v.circuit n with usage := u }).sameGlares_modify k fun _ => rfl
  refine ⟨?_, fun k => (hgroups _ _ k).trans
    (s.sameGlares_modify g (f := fun grp => grp.afterSeizure q) (fun _ => rfl) k), ha, fun m => ?_⟩
  · rw [State.setUsage_eq]
    exact ⟨_, _, rfl⟩
  · rw [State.circuit_setUsage]
    rfl

/-! ### The outcomes of checks and hunts -/

theorem State.groupCheck_ne_seized (s : State) (cls : CallClass) (ceiling : Option Nat) (g : Nat) (role : Role) :
    s.groupCheck cls ceiling g role ≠ some .seized := by
  rw [State.groupCheck_eq]
  split_ifs <;> exact fun h => nomatch h

theorem State.check_ne_seized (s : State) (i : PassInput) (tried : List Nat) (c : Candidate) :
    s.check i tried c ≠ some .seized := by
  by_cases ht : c.group ∈ tried
  · rw [State.check_tried ht]
    exact fun h => nomatch h
  by_cases hb : i.incoming = some c.group
  · rw [State.check_backward ht hb]
    exact fun h => nomatch h
  rw [State.check_of_judged ht hb]
  cases hg : s.groupCheck i.cls i.ceiling c.group c.role with
  | some v => exact fun h => s.groupCheck_ne_seized i.cls i.ceiling c.group c.role (hg.trans h)
  | none => cases s.depthFails i.cls tried <;> exact fun h => nomatch h

theorem State.huntOutcome_ne_seized (s : State) (grp : Group) (cls : CallClass) (role : Role) :
    s.huntOutcome grp cls role ≠ .overflow .seized := by
  rcases s.huntOutcome_spec grp cls role with ⟨-, he⟩ | ⟨-, -, he⟩ | ⟨-, -, he⟩ <;> rw [he]
  · exact fun h => nomatch h
  · exact fun h => nomatch h
  · split <;> exact fun h => nomatch h

/-! ### A pass that leaves the sticky alternates -/

theorem State.moveSticky_of_not_moves {i : PassInput} (h : i.movesSticky = false) (s : State) (c : Candidate) (b : Bool) :
    s.moveSticky i c b = s := if_neg (by rw [h]; exact Bool.false_ne_true)

/-- What a pass with the handle `h` ends in: nothing seized, with a trace that says so, or one circuit seized. -/
def PassResult.Ends (r : PassResult) (s : State) (h : Nat) : Prop :=
  (r.seizure = none ∧ s.Hunted r.state ∧ ∀ e ∈ r.trace, e.2 ≠ .seized) ∨
    ∃ z, r.seizure = some z ∧ s.Seized r.state h z.circuit

theorem passFrom_ends {i : PassInput} {h : Nat} (hi : i.handle = some h) (hm : i.movesSticky = false)
    (cs : List Candidate) : ∀ (s : State) (tried : List Nat) (trace : List (Nat × Verdict)),
      (∀ e ∈ trace, e.2 ≠ .seized) → (passFrom i cs s tried trace).Ends s h := by
  have hnext {trace : List (Nat × Verdict)} {g : Nat} {v : Verdict} (htrace : ∀ e ∈ trace, e.2 ≠ .seized)
      (hv : v ≠ .seized) : ∀ e ∈ trace ++ [(g, v)], e.2 ≠ .seized := by
    intro e he
    rcases List.mem_append.mp he with he | he
    · exact htrace e he
    · rw [List.mem_singleton.mp he]
      exact hv
  induction cs with
  | nil => exact fun s tried trace htrace => .inl ⟨rfl, .refl s, htrace⟩
  | cons c cs ih =>
    intro s tried trace htrace
    cases hcheck : s.check i tried c with
    | some v =>
      have hv : v ≠ .seized := fun hv => s.check_ne_seized i tried c (hcheck.trans (congrArg some hv))
      by_cases hd : v = .depth
      · rw [passFrom, hcheck]
        dsimp only
        rw [if_pos hd]
        exact .inl ⟨rfl, .refl s, hnext htrace hv⟩
      · rw [passFrom_failed hcheck hd]
        exact ih s tried _ (hnext htrace hv)
    | none =>
      cases ho : s.huntOutcome (s.group c.group) i.cls c.role with
      | seized n q =>
        have hhandle : s.huntHandle i = h := by unfold State.huntHandle; rw [hi]; rfl
        rw [passFrom_seized hcheck ho, State.moveSticky_of_not_moves hm, hhandle]
        exact .inr ⟨_, rfl, State.seized_hunt c.group q h (s.huntOutcome_seized ho).1⟩
      | overflow v =>
        have hv : v ≠ .seized := fun hv => s.huntOutcome_ne_seized _ i.cls c.role (ho.trans (congrArg _ hv))
        rw [passFrom_overflow hcheck ho, State.moveSticky_of_not_moves hm]
        have hover := s.hunted_overflow c.group
        split
        · exact .inl ⟨rfl, hover, hnext htrace hv⟩
        · rcases ih (s.modifyGroup c.group Group.afterOverflow) (tried ++ [c.group]) _ (hnext (g := c.group) htrace hv) with
            ⟨hnone, hunted, hends⟩ | ⟨z, hz, hseized⟩
          · exact .inl ⟨hnone, hover.trans hunted, hends⟩
          · exact .inr ⟨z, hz, hover.seized hseized⟩

theorem State.pass_ends {i : PassInput} {h : Nat} (hi : i.handle = some h) (hm : i.movesSticky = false) (s : State)
    (tried : List Nat) : (s.pass i tried).Ends s h := by
  unfold State.pass
  split
  · exact .inl ⟨rfl, .refl s, fun _ he => (List.not_mem_nil he).elim⟩
  · exact passFrom_ends hi hm _ s tried [] fun _ he => (List.not_mem_nil he).elim

theorem PassResult.reason_ne_seized {r : PassResult} (h : ∀ e ∈ r.trace, e.2 ≠ .seized) : r.reason ≠ .seized := by
  unfold PassResult.reason
  cases hl : r.trace.getLast? with
  | none => exact fun h => nomatch h
  | some e => exact h e (List.mem_of_getLast? hl)

/-- With every candidate tried the reason of the pass is TRIED (R77). -/
theorem State.pass_reason_tried {i : PassInput} {tried : List Nat}
    (hall : ∀ x ∈ (s.plan i.plan).candidateOrder, x.group ∈ tried) : (s.pass i tried).reason = .tried := by
  unfold State.pass
  split
  · rfl
  · have hpass := passFrom_all_failed (s := s) (i := i) (verdict := fun _ => .tried) (s.plan i.plan).candidateOrder
      (fun x hx => ⟨State.check_tried (hall x hx), fun h => nomatch h⟩) [] []
    rw [List.append_nil] at hpass
    rw [hpass]
    exact (getLast_verdict _ fun _ => Verdict.tried).trans (by cases (s.plan i.plan).candidateOrder.getLast? <;> rfl)

/-! ### The reroute -/

/-- The call on a handle has been seized a circuit again (R92, R93). -/
structure State.Rerouted (s t : State) (h : Nat) (c : Call) (z : Seizure) (more : List Nat) : Prop where
  quoted : z.carrier = (s.group z.group).defn.carrier ∧ z.quote = s.quote z.group
  tried : (more = [] ∧ z.group = c.group ∧ z.role = c.role) ∨ ((∃ before, more = before ++ [z.group]) ∧ z.group ∉ c.tried)
  state : ∃ v, s.Seized v h z.circuit ∧
    t = (v.reseize h c z (c.tried ++ more)).raise codeCallRerouted (.noticeRerouted h c.serial z)

/-- The call on a handle has been closed for want of a route (R93). -/
structure State.Lost (s t : State) (h : Nat) (c : Call) (v : Verdict) : Prop where
  reason : v ≠ .seized ∧ ((∀ x ∈ (s.plan c.plan).candidateOrder, x.group ∈ c.tried) → v = .tried)
  state : ∃ w, s.Hunted w ∧ t = (w.afterClosing h c).tellLost h c (some v)

/-- The continuation of a glare reroute (R92, R93). -/
theorem State.glareContinue_spec {h : Nat} {c : Call} (hc : c.answeredAt = none) :
    (∃ z more, s.Rerouted (s.glareContinue h c) h c z more) ∨ ∃ v, s.Lost (s.glareContinue h c) h c v := by
  unfold State.glareContinue
  dsimp only
  have hobeys := s.pass_obeys (c.passInput h false) c.tried
  rcases s.pass_ends (i := c.passInput h false) rfl rfl c.tried with ⟨hnone, hunted, htrace⟩ | ⟨z, hz, hseized⟩
  · rw [hnone]
    dsimp only
    rw [State.closeCall_between hc]
    exact .inr ⟨_, ⟨PassResult.reason_ne_seized htrace, State.pass_reason_tried (i := c.passInput h false)⟩, _, hunted, rfl⟩
  · obtain ⟨before, role, n, q, hzeq, htried, ⟨more, rfl⟩, -, hnot, -⟩ := hobeys z hz
    rw [hz]
    dsimp only
    refine .inl ⟨z, more ++ [z.group], ⟨?_, ?_⟩, .inr ⟨⟨more, rfl⟩, fun hmem => hnot (List.mem_append_left _ hmem)⟩,
      _, hseized, ?_⟩
    · rw [hzeq]; rfl
    · rw [hzeq]; rfl
    · rw [htried, List.append_assoc]

/-- What a reroute ends in, told from the state before its own group overflowed (R92). -/
theorem State.Rerouted.of_overflow {g h : Nat} {c : Call} {z : Seizure} {more : List Nat}
    (hr : (s.modifyGroup g Group.afterOverflow).Rerouted t h c z more) : s.Rerouted t h c z more := by
  have hrouting := s.sameRouting_modifyGroup g (f := Group.afterOverflow) fun _ => ⟨rfl, rfl⟩
  obtain ⟨hcarrier, hquote⟩ := hr.quoted
  obtain ⟨v, hseized, hv⟩ := hr.state
  exact ⟨⟨hcarrier.trans (congrArg _ (hrouting.defn _)), hquote.trans (hrouting.quote _)⟩, hr.tried, v,
    (s.hunted_overflow g).seized hseized, hv⟩

theorem State.Lost.of_overflow {g h : Nat} {c : Call} {v : Verdict}
    (hl : (s.modifyGroup g Group.afterOverflow).Lost t h c v) : s.Lost t h c v := by
  obtain ⟨w, hunted, hw⟩ := hl.state
  exact ⟨hl.reason, w, (s.hunted_overflow g).trans hunted, hw⟩

/-- The re-hunt of the call's own group seizes a circuit (R91). -/
theorem State.glareReroute_own {h n q : Nat} {c : Call} (hg : s.groupCheck c.cls c.ceiling c.group c.role = none)
    (ho : s.huntOutcome (s.group c.group) c.cls c.role = .seized n q) :
    s.glareReroute h c = (((s.modifyGroup c.group fun grp => grp.afterSeizure q).setUsage n (.outgoing h)).reseize h c
      (s.seizureOf c.group c.role n q) c.tried).raise codeCallRerouted
        (.noticeRerouted h c.serial (s.seizureOf c.group c.role n q)) := by
  unfold State.glareReroute State.hunt
  rw [hg, ho]

/-- A reroute, by its two endings (R91 to R93). -/
theorem State.glareReroute_spec {h : Nat} {c : Call} (hc : c.answeredAt = none) :
    (∃ z more, s.Rerouted (s.glareReroute h c) h c z more) ∨ ∃ v, s.Lost (s.glareReroute h c) h c v := by
  cases hg : s.groupCheck c.cls c.ceiling c.group c.role with
  | some v =>
    have hcontinue : s.glareReroute h c = s.glareContinue h c := by unfold State.glareReroute; rw [hg]
    rw [hcontinue]
    exact State.glareContinue_spec hc
  | none =>
    cases ho : s.huntOutcome (s.group c.group) c.cls c.role with
    | seized n q =>
      rw [State.glareReroute_own hg ho]
      exact .inl ⟨s.seizureOf c.group c.role n q, [], ⟨rfl, rfl⟩, .inl ⟨rfl, rfl, rfl⟩, _,
        State.seized_hunt c.group q h (s.huntOutcome_seized ho).1, by rw [List.append_nil]; rfl⟩
    | overflow v =>
      have hcontinue : s.glareReroute h c = (s.modifyGroup c.group Group.afterOverflow).glareContinue h c := by
        unfold State.glareReroute State.hunt
        rw [hg, ho]
      rw [hcontinue]
      exact (State.glareContinue_spec hc).imp (fun ⟨z, more, hr⟩ => ⟨z, more, hr.of_overflow⟩)
        fun ⟨v, hl⟩ => ⟨v, hl.of_overflow⟩

/-! ### The reply goes out before the notices -/

theorem State.replied_hunt (m : List Message) (g : Nat) (cls : CallClass) (role : Role) (h : Nat) :
    (s.replied m).hunt g cls role h = ((s.hunt g cls role h).1, (s.hunt g cls role h).2.replied m) := by
  unfold State.hunt
  have ho : (s.replied m).huntOutcome ((s.replied m).group g) cls role = s.huntOutcome (s.group g) cls role :=
    State.huntOutcome_congr rfl rfl _ _ _
  rw [ho]
  cases s.huntOutcome (s.group g) cls role with
  | seized n q =>
    exact congrArg (Prod.mk _) (State.replied_setUsage (s := s.modifyGroup g fun grp => grp.afterSeizure q) m n _).symm
  | overflow v => rfl

theorem State.replied_moveSticky (m : List Message) (i : PassInput) (c : Candidate) (b : Bool) :
    (s.moveSticky i c b).replied m = (s.replied m).moveSticky i c b := by
  unfold State.moveSticky
  split <;> rfl

/-- The result of a pass with messages put before those of its state. -/
def PassResult.replied (r : PassResult) (m : List Message) : PassResult := { r with state := r.state.replied m }

theorem replied_passFrom (m : List Message) (i : PassInput) (cs : List Candidate) :
    ∀ (s : State) (tried : List Nat) (trace : List (Nat × Verdict)),
      passFrom i cs (s.replied m) tried trace = (passFrom i cs s tried trace).replied m := by
  have hsame (s : State) : s.SameRouting (s.replied m) := .of_frame rfl rfl rfl rfl rfl rfl
  induction cs with
  | nil => exact fun s tried trace => rfl
  | cons c cs ih =>
    intro s tried trace
    rw [passFrom, passFrom, (hsame s).check]
    cases s.check i tried c with
    | some v =>
      dsimp only
      split
      · rfl
      · exact ih s tried _
    | none =>
      dsimp only
      have hhandle : (s.replied m).huntHandle i = s.huntHandle i := rfl
      rw [hhandle, State.replied_hunt]
      rcases s.hunt c.group i.cls c.role (s.huntHandle i) with ⟨n | v, after⟩
      · dsimp only
        rw [(hsame s).seizureOf, ← State.replied_moveSticky]
        rfl
      · dsimp only
        rw [← State.replied_moveSticky]
        split
        · rfl
        · exact ih _ _ _

theorem State.replied_glareContinue (m : List Message) (h : Nat) (c : Call) :
    (s.glareContinue h c).replied m = (s.replied m).glareContinue h c := by
  have hpass : (s.replied m).pass (c.passInput h false) c.tried = (s.pass (c.passInput h false) c.tried).replied m := by
    unfold State.pass
    split
    · rfl
    · exact replied_passFrom m _ _ s _ _
  unfold State.glareContinue
  dsimp only
  rw [hpass]
  show State.replied (match (s.pass (c.passInput h false) c.tried).seizure with | some z => _ | none => _) m =
    match (s.pass (c.passInput h false) c.tried).seizure with | some z => _ | none => _
  cases (s.pass (c.passInput h false) c.tried).seizure with
  | some z =>
    refine (State.replied_raise ..).trans (congrArg (State.raise · _ _) ?_)
    rw [State.reseize_eq, State.reseize_eq]
    rfl
  | none =>
    refine (State.replied_raise ..).trans (congrArg (State.raise · _ _) ?_)
    exact (congrArg Prod.fst (State.replied_closeCall _ m h c .noRoute false)).symm

theorem State.replied_glareReroute (m : List Message) (h : Nat) (c : Call) :
    (s.glareReroute h c).replied m = (s.replied m).glareReroute h c := by
  have hsame : s.SameRouting (s.replied m) := .of_frame rfl rfl rfl rfl rfl rfl
  unfold State.glareReroute
  rw [hsame.groupCheck]
  cases s.groupCheck c.cls c.ceiling c.group c.role with
  | some v => exact State.replied_glareContinue m h c
  | none =>
    dsimp only
    rw [State.replied_hunt]
    rcases s.hunt c.group c.cls c.role h with ⟨n | v, after⟩
    · dsimp only
      rw [hsame.seizureOf]
      refine (State.replied_raise ..).trans (congrArg (State.raise · _ _) ?_)
      rw [State.reseize_eq, State.reseize_eq]
      rfl
    · exact State.replied_glareContinue m h c

/-! ### The circuit given to the far end -/

/-- The state after the far end has taken a circuit in glare (R17, R41). -/
def State.glareTaken (s : State) (n g : Nat) : State :=
  ((s.countStats g Stats.addGlare).setRemoteBlock n false).setUsage n .incoming

theorem State.replied_glareTaken (m : List Message) (n g : Nat) :
    (s.glareTaken n g).replied m = (s.replied m).glareTaken n g :=
  State.replied_setUsage _ m n .incoming

theorem State.glareTaken_spec {n g h : Nat} (hg : (s.circuit n).group = some g) (hu : (s.circuit n).usage = .outgoing h) :
    ∃ cs gs, s.glareTaken n g = { s with circuits := cs, groups := gs } ∧
      (∀ m, (s.glareTaken n g).circuit m =
        if m = n then { s.circuit n with usage := .incoming, remoteBlock := false } else s.circuit m) ∧
      (∀ k, Table.find gs k = (Table.find s.groups k).map fun x =>
        if k = g then { x with current := x.current.addGlare } else x) := by
  obtain ⟨cs, heq, hcircuit⟩ := State.takeIncoming_eq (s := s.countStats g Stats.addGlare) (n := n) hg
  refine ⟨cs, _, heq, fun m => (congrArg (State.circuit · m) heq).trans (hcircuit m), fun k => ?_⟩
  have hbusy : ∀ x : Group, { x with busyCount := busyAfter x.busyCount (s.circuit n).usage .incoming } = x := fun x => by
    rw [hu]; rfl
  have husage : ((s.countStats g Stats.addGlare).circuit n).usage = (s.circuit n).usage := rfl
  simp only [husage, hbusy]
  by_cases hk : k = g
  · rw [hk, Table.find_modify_self, State.countStats, State.find_modifyGroup, if_pos rfl, Option.map_map]
    simp only [if_true]
    rfl
  · rw [Table.find_modify_ne _ _ hk, State.countStats, State.find_modifyGroup, if_neg hk]
    simp [hk]

/-- A call after it has been seized a circuit again (R64). -/
def Call.reseized (c : Call) (z : Seizure) (tried : List Nat) : Call :=
  { c with group := z.group, circuit := z.circuit, role := z.role, carrier := z.carrier, quote := z.quote, tried := tried }

theorem State.call_reseize (s : State) (h k : Nat) (c : Call) (z : Seizure) (tried : List Nat) :
    (s.reseize h c z tried).call k = if k = h then (s.call h).map (Call.reseized · z tried) else s.call k := by
  rw [State.reseize_eq]
  exact (State.call_congr (s := s.modifyCall h (Call.reseized · z tried)) rfl k).trans (State.call_modifyCall ..)

/-- What a reroute that seizes has changed (R64, R92, R93). -/
theorem State.Rerouted.effects {h : Nat} {c : Call} {z : Seizure} {more : List Nat} (hr : s.Rerouted t h c z more)
    (hc : s.call h = some c) :
    (s.available z.circuit = true ∧ s.SameGlares t ∧
      ∀ m, t.circuit m = if m = z.circuit then { s.circuit z.circuit with usage := .outgoing h } else s.circuit m) ∧
    (∀ k, k ≠ h → t.call k = s.call k) ∧
    t.call h = some { c with
      group := z.group, circuit := z.circuit, role := z.role, carrier := z.carrier, quote := z.quote
      tried := c.tried ++ more } ∧
    t.carriers = (if c.carrier = z.carrier then s.carriers else
      Table.modify (Table.modify s.carriers c.carrier fun k => { k with openCalls := k.openCalls - 1 }) z.carrier
        fun k => { k with openCalls := k.openCalls + 1 }) ∧
    t.link = (s.raise codeCallRerouted (.noticeRerouted h c.serial z)).link ∧
    { t with circuits := s.circuits, groups := s.groups, carriers := s.carriers, calls := s.calls, link := s.link } = s := by
  obtain ⟨v, hseized, rfl⟩ := hr.state
  obtain ⟨cs, gs, rfl⟩ := hseized.frame
  have hcall := State.call_reseize { s with circuits := cs, groups := gs } h (c := c) (z := z) (tried := c.tried ++ more)
  have hself := (hcall h).trans (if_pos rfl)
  rw [show State.call { s with circuits := cs, groups := gs } h = some c from hc] at hself
  rw [State.reseize_eq] at hcall hself ⊢
  exact ⟨⟨hseized.free, hseized.glares, hseized.circuits⟩, fun k hk => (hcall k).trans (if_neg hk), hself, rfl, rfl, rfl⟩

/-- What a reroute that closes the call has changed (R67, R93). -/
theorem State.Lost.effects {h : Nat} {c : Call} {v : Verdict} (hl : s.Lost t h c v) :
    (s.SameGlares t ∧ ∀ m, t.circuit m = s.circuit m) ∧ (∀ k, k ≠ h → t.call k = s.call k) ∧ t.call h = none ∧
    t.carriers = Table.modify s.carriers c.carrier (fun k => { k with openCalls := k.openCalls - 1 }) ∧
    t.link = (s.raise codeCallLost (.noticeLost h c.serial (some v))).link ∧
    { t with circuits := s.circuits, groups := s.groups, carriers := s.carriers, calls := s.calls, link := s.link } = s := by
  obtain ⟨w, hunted, rfl⟩ := hl.state
  obtain ⟨gs, rfl⟩ := hunted.frame
  refine ⟨⟨hunted.glares, fun _ => rfl⟩, fun k hk => ?_, Table.find_erase_self _ _, rfl, rfl, rfl⟩
  exact (Table.find_erase s.calls k h).trans (if_neg hk)

/-! ### The seizure in glare -/

/-- The circuits that a group's glare control gives this exchange (R40). -/
theorem GlareControl.controls_iff (control : GlareControl) (n : Nat) : control.controls n = true ↔
    control = .all ∨ (control = .odd ∧ n % 2 = 1) ∨ (control = .even ∧ n % 2 = 0) := by
  have hparity : positionOf n % 2 = n % 2 := Nat.mod_mod_of_dvd n (by decide)
  unfold GlareControl.controls
  rw [hparity]
  cases control <;> simp

theorem incomingSeize_held {n g h : Nat} {c : Call} (hrow : s.seizeRow n = .glare g h c)
    (hcontrol : (s.group g).defn.glareControl.controls n = true) :
    incomingSeize n s = (.result .glareHeld, s.countStats g Stats.addGlare) := by
  unfold incomingSeize State.glare
  rw [hrow]
  exact if_pos hcontrol

theorem incomingSeize_given {n g h : Nat} {c : Call} (hrow : s.seizeRow n = .glare g h c)
    (hcontrol : (s.group g).defn.glareControl.controls n = false) :
    incomingSeize n s = (.result .acceptedGlare, (s.glareTaken n g).glareReroute h c) := by
  unfold incomingSeize State.glare
  rw [hrow]
  exact if_neg (by rw [hcontrol]; decide)

/-- The far end's circuit was not available to a hunt, and is not now; the others are as they were (R41). -/
theorem State.available_glareTaken {n g h : Nat} (hg : (s.circuit n).group = some g)
    (hu : (s.circuit n).usage = .outgoing h) :
    (s.glareTaken n g).available n = false ∧ ∀ m, (s.glareTaken n g).available m = s.available m := by
  obtain ⟨-, -, -, hcircuit, -⟩ := State.glareTaken_spec hg hu
  have hn : (s.glareTaken n g).available n = false := by
    unfold State.available Circuit.available
    rw [hcircuit, if_pos rfl]
    simp [Usage.busy]
  refine ⟨hn, fun m => ?_⟩
  by_cases hm : m = n
  · rw [hm, hn]
    unfold State.available Circuit.available
    rw [hu]
    simp [Usage.busy]
  · unfold State.available
    rw [hcircuit, if_neg hm]

/-- A hunt finds the groups as they were before the glare (R91). -/
theorem State.huntOutcome_glareTaken {n g h : Nat} (hg : (s.circuit n).group = some g)
    (hu : (s.circuit n).usage = .outgoing h) (k : Nat) (cls : CallClass) (role : Role) :
    (s.glareTaken n g).huntOutcome ((s.glareTaken n g).group k) cls role = s.huntOutcome (s.group k) cls role := by
  obtain ⟨cs, gs, heq, -, hgroups⟩ := State.glareTaken_spec hg hu
  have havail := (State.available_glareTaken hg hu).2
  have hgroup : (s.glareTaken n g).group k = s.group k ∨
      (s.glareTaken n g).group k = { s.group k with current := (s.group k).current.addGlare } := by
    unfold State.group
    rw [heq]
    dsimp only
    rw [hgroups]
    cases Table.find s.groups k with
    | none => exact .inl rfl
    | some x => by_cases hk : k = g <;> simp [hk]
  have hguard : (s.glareTaken n g).guard = s.guard := by rw [heq]
  have hcount : ∀ grp, (s.glareTaken n g).availableCount grp = s.availableCount grp := fun grp => by
    unfold State.availableCount; simp only [havail]
  have hsame : ∀ grp, (s.glareTaken n g).huntOutcome grp cls role = s.huntOutcome grp cls role := fun grp => by
    unfold State.huntOutcome State.reservationFails State.reservationInForce
    simp only [havail, hcount, hguard]
  rw [hsame]
  rcases hgroup with h | h <;> rw [h]
  rfl

theorem State.sameRouting_glareTaken (s : State) (n g : Nat) : s.SameRouting (s.glareTaken n g) := by
  have hcounted : s.SameRouting (s.countStats g Stats.addGlare) := s.sameRouting_modifyGroup g fun _ => ⟨rfl, rfl⟩
  have hcleared : (s.countStats g Stats.addGlare).SameRouting ((s.countStats g Stats.addGlare).setRemoteBlock n false) :=
    .of_frame rfl rfl rfl rfl rfl rfl
  exact (hcounted.trans hcleared).trans (State.sameRouting_setUsage _ n .incoming)

/-- What the own group's re-hunt has told (R91, R92). -/
theorem State.glareReroute_own_link {h n q : Nat} {c : Call} (hg : s.groupCheck c.cls c.ceiling c.group c.role = none)
    (ho : s.huntOutcome (s.group c.group) c.cls c.role = .seized n q) : (s.glareReroute h c).link =
      (s.raise codeCallRerouted (.noticeRerouted h c.serial (s.seizureOf c.group c.role n q))).link := by
  rw [State.glareReroute_own hg ho, State.reseize_eq, State.setUsage_eq]
  rfl

section

variable {n g h : Nat} {c : Call} (hg : (s.circuit n).group = some g) (hu : (s.circuit n).usage = .outgoing h)
  (hc : s.call h = some c) (hans : c.answeredAt = none)

include hg hu hc hans

/-- A reroute keeps the circuit that was taken, every other call, and all that is no circuit, group, carrier, call or
message (R41, R91 to R93). -/
theorem State.glareGiven_kept :
    ((s.glareTaken n g).glareReroute h c).circuit n = { s.circuit n with usage := .incoming, remoteBlock := false } ∧
    (s.glareTaken n g).SameGlares ((s.glareTaken n g).glareReroute h c) ∧
    (∀ k, k ≠ h → ((s.glareTaken n g).glareReroute h c).call k = s.call k) ∧
    { (s.glareTaken n g).glareReroute h c with
      circuits := s.circuits, groups := s.groups, carriers := s.carriers, calls := s.calls, link := s.link } = s := by
  obtain ⟨cs, gs, heq, hcircuit, -⟩ := State.glareTaken_spec hg hu
  have hself := (hcircuit n).trans (if_pos rfl)
  have hcalls : ∀ k, (s.glareTaken n g).call k = s.call k := State.call_congr (by rw [heq])
  have hframe {t : State} (h : { t with
      circuits := (s.glareTaken n g).circuits, groups := (s.glareTaken n g).groups
      carriers := (s.glareTaken n g).carriers, calls := (s.glareTaken n g).calls
      link := (s.glareTaken n g).link } = s.glareTaken n g) :
      { t with
        circuits := s.circuits, groups := s.groups, carriers := s.carriers, calls := s.calls, link := s.link } = s := by
    have hall := congrArg (fun u : State => { u with
      circuits := s.circuits, groups := s.groups, carriers := s.carriers, calls := s.calls, link := s.link }) (h.trans heq)
    exact hall
  rcases (s.glareTaken n g).glareReroute_spec (h := h) hans with ⟨z, more, hr⟩ | ⟨v, hl⟩
  · obtain ⟨⟨hfree, hsame, htook⟩, hothers, -, -, -, hkept⟩ := hr.effects ((hcalls h).trans hc)
    have hne : n ≠ z.circuit := fun hne => by
      rw [← hne, (State.available_glareTaken hg hu).1] at hfree
      cases hfree
    exact ⟨(htook n).trans ((if_neg hne).trans hself), hsame, fun k hk => (hothers k hk).trans (hcalls k), hframe hkept⟩
  · obtain ⟨⟨hsame, hstay⟩, hothers, -, -, -, hkept⟩ := hl.effects
    exact ⟨(hstay n).trans hself, hsame, fun k hk => (hothers k hk).trans (hcalls k), hframe hkept⟩

/-- The two endings of a reroute, told from the state before the glare (R91 to R93). -/
theorem State.glareGiven_outcome {t : State} (ht : (s.glareTaken n g).glareReroute h c = t) :
    (∃ (z : Seizure) (more : List Nat), z.circuit ≠ n ∧
      t.call h = some { c with
        group := z.group, circuit := z.circuit, role := z.role, carrier := z.carrier, quote := z.quote
        tried := c.tried ++ more } ∧
      z.carrier = (s.group z.group).defn.carrier ∧ z.quote = s.quote z.group ∧
      ((more = [] ∧ z.group = c.group ∧ z.role = c.role) ∨
        ((∃ before, more = before ++ [z.group]) ∧ z.group ∉ c.tried)) ∧
      (t.circuit z.circuit).usage = .outgoing h ∧ s.available z.circuit = true ∧
      (∀ m, m ≠ n → m ≠ z.circuit → t.circuit m = s.circuit m) ∧
      t.carriers = (if c.carrier = z.carrier then s.carriers else
        Table.modify (Table.modify s.carriers c.carrier fun k => { k with openCalls := k.openCalls - 1 }) z.carrier
          fun k => { k with openCalls := k.openCalls + 1 }) ∧
      t.link = (s.raise codeCallRerouted (.noticeRerouted h c.serial z)).link) ∨
    ∃ v, v ≠ .seized ∧ ((∀ x ∈ (s.plan c.plan).candidateOrder, x.group ∈ c.tried) → v = .tried) ∧
      t.call h = none ∧ (∀ m, m ≠ n → t.circuit m = s.circuit m) ∧
      t.carriers = Table.modify s.carriers c.carrier (fun k => { k with openCalls := k.openCalls - 1 }) ∧
      t.link = (s.raise codeCallLost (.noticeLost h c.serial (some v))).link := by
  obtain ⟨cs, gs, heq, hcircuit, -⟩ := State.glareTaken_spec hg hu
  obtain ⟨hbusy, havail⟩ := State.available_glareTaken hg hu
  have hrouting := s.sameRouting_glareTaken n g
  have hlink : ∀ k b, ((s.glareTaken n g).raise k b).link = (s.raise k b).link := fun k b => by rw [heq]; rfl
  have hcalls : ∀ k, (s.glareTaken n g).call k = s.call k := State.call_congr (by rw [heq])
  have hplan : (s.glareTaken n g).plan c.plan = s.plan c.plan := by rw [heq]; rfl
  subst ht
  rcases (s.glareTaken n g).glareReroute_spec (h := h) hans with ⟨z, more, hr⟩ | ⟨v, hl⟩
  · obtain ⟨⟨hfree, -, htook⟩, -, hcall, hmoved, htold, -⟩ := hr.effects ((hcalls h).trans hc)
    obtain ⟨hcarrier, hquote⟩ := hr.quoted
    have hne : z.circuit ≠ n := fun hne => by rw [hne, hbusy] at hfree; cases hfree
    refine .inl ⟨z, more, hne, hcall, hcarrier.trans (congrArg _ (hrouting.defn _)), hquote.trans (hrouting.quote _),
      hr.tried, ?_, (havail _).symm.trans hfree, fun m hm hmz => ?_, hrouting.carriers ▸ hmoved, htold.trans (hlink ..)⟩
    · rw [htook, if_pos rfl]
    · rw [htook, if_neg hmz, hcircuit, if_neg hm]
  · obtain ⟨⟨-, hstay⟩, -, hgone, hmoved, htold, -⟩ := hl.effects
    obtain ⟨hv, htried⟩ := hl.reason
    refine .inr ⟨v, hv, fun hall => htried (hplan ▸ hall), hgone, fun m hm => ?_, hrouting.carriers ▸ hmoved,
      htold.trans (hlink ..)⟩
    rw [hstay, hcircuit, if_neg hm]

omit hc hans

/-- The call stays in its own group where the re-hunt seizes a circuit of it (R91). -/
theorem State.glareGiven_own {m q : Nat} (hcheck : s.groupCheck c.cls c.ceiling c.group c.role = none)
    (hunt : s.huntOutcome (s.group c.group) c.cls c.role = .seized m q) :
    ((s.glareTaken n g).glareReroute h c).link = (s.raise codeCallRerouted (.noticeRerouted h c.serial
      { group := c.group, circuit := m, position := q, role := c.role
        carrier := (s.group c.group).defn.carrier, quote := s.quote c.group })).link := by
  obtain ⟨cs, gs, heq, -⟩ := State.glareTaken_spec hg hu
  have hrouting := s.sameRouting_glareTaken n g
  rw [State.glareReroute_own_link ((hrouting.groupCheck ..).trans hcheck)
    ((State.huntOutcome_glareTaken hg hu ..).trans hunt), hrouting.seizureOf, heq]
  rfl

/-- The glares are counted before the reroute, and it counts none (R39). -/
theorem State.glares_counted {grp : Group} (hgrp : Table.find s.groups g = some grp)
    (hsame : (s.glareTaken n g).SameGlares t) :
    (∃ grp', Table.find t.groups g = some grp' ∧ grp'.current.glares = min (grp.current.glares + 1) max32) ∧
    ∀ k x, k ≠ g → Table.find s.groups k = some x → ∃ x', Table.find t.groups k = some x' ∧
      x'.current.glares = x.current.glares := by
  obtain ⟨cs, gs, heq, -, hgroups⟩ := State.glareTaken_spec hg hu
  have hfind : ∀ k x, Table.find s.groups k = some x → ∃ x', Table.find t.groups k = some x' ∧
      x'.current.glares = (if k = g then { x with current := x.current.addGlare } else x).current.glares := by
    intro k x hx
    have hk := hsame k
    rw [heq] at hk
    dsimp only at hk
    rw [hgroups, hx] at hk
    obtain ⟨x', hx', hglares⟩ := Option.map_eq_some_iff.mp hk
    exact ⟨x', hx', hglares⟩
  refine ⟨?_, fun k x hk hx => ?_⟩
  · obtain ⟨grp', hgrp', hglares⟩ := hfind g grp hgrp
    rw [if_pos rfl] at hglares
    exact ⟨grp', hgrp', hglares.trans (satAdd_eq_min ..)⟩
  · obtain ⟨x', hx', hglares⟩ := hfind k x hx
    rw [if_neg hk] at hglares
    exact ⟨x', hx', hglares⟩

end

/-- Settles O13: a reroute ends in one of two ways, and each is told after the reply. -/
theorem glareHeldOrGivenUp : Obligations.GlareHeldOrGivenUp := by
  intro s tag p n g h c grp hp htakes hg hgrp hk hb hu hc hans control held
  have hgroup : s.group g = grp := by unfold State.group; rw [hgrp]; rfl
  have hanswered : c.answeredAt = none := Option.isSome_eq_false_iff.mp hans |> Option.isNone_iff_eq_none.mp
  have hrow : s.dropHeadRequest.withoutMessages.seizeRow n = .glare g h c := by
    rw [State.seizeRow_judged (s := s.dropHeadRequest.withoutMessages) hg (by exact hgroup ▸ hk) hb,
      show (s.dropHeadRequest.withoutMessages.circuit n).usage = .outgoing h from hu]
    dsimp only
    rw [show s.dropHeadRequest.withoutMessages.call h = some c from hc]
    exact if_neg (by rw [hans]; decide)
  have hiff : (s.group g).defn.glareControl.controls n = true ↔ held := by
    rw [GlareControl.controls_iff, hgroup]
  refine ⟨fun hheld => ?held, fun hgiven => ?given⟩
  case held =>
    exact request_effect (op := fun t => t.countStats g Stats.addGlare) htakes hp (fun _ _ => rfl)
      (incomingSeize_held hrow (hiff.mpr hheld))
  case given =>
    have hcontrol : (s.group g).defn.glareControl.controls n = false := by
      rw [Bool.eq_false_iff]; exact mt hiff.mp hgiven
    have hexec : exec (.incomingSeize tag p) s =
        .next (((s.answer 0x08 tag (.result .acceptedGlare)).glareTaken n g).glareReroute h c) :=
      request_effect (op := fun t => (t.glareTaken n g).glareReroute h c) htakes hp
        (fun t m => by rw [State.replied_glareReroute, State.replied_glareTaken]) (incomingSeize_given hrow hcontrol)
    obtain ⟨hself, hsame, hothers, hframe⟩ :=
      State.glareGiven_kept (s := s.answer 0x08 tag (.result .acceptedGlare)) hg hu hc hanswered
    have houtcome := State.glareGiven_outcome (s := s.answer 0x08 tag (.result .acceptedGlare)) hg hu hc hanswered rfl
    have hown := fun m q => State.glareGiven_own (s := s.answer 0x08 tag (.result .acceptedGlare)) (c := c) (m := m) (q := q)
      hg hu
    obtain ⟨hglares, hglares'⟩ := State.glares_counted (s := s.answer 0x08 tag (.result .acceptedGlare)) hg hu hgrp hsame
    refine ⟨_, hexec, ?_⟩
    generalize ((s.answer 0x08 tag (.result .acceptedGlare)).glareTaken n g).glareReroute h c = t at *
    refine ⟨hself, hglares, hglares', hothers, houtcome, hown, ?_⟩
    have hkept := congrArg (fun u : State => { u with link := s.link }) hframe
    exact hkept

end Sys2Proof.Machine
end

section
/-! PROOFS. The device restart: the calls closed one after another, the circuits idled, the watches closed, and a sweep
in flight carried to its end first (R3, R12, R72, R169, R190). -/

namespace Sys2Proof.Machine

open Sys2Proof

variable {s t u : State}

/-! ### What the rating close of a call leaves -/

/-- What of a carrier the rating of its calls leaves: its open calls, and whether its snapshot has been read. -/
def Carrier.standing (k : Carrier) : Nat × Bool := (k.openCalls, k.snapshot.read)

/-- The open calls of every carrier, and what has been read of them, stand. -/
def State.SameStanding (s t : State) : Prop :=
  ∀ k, (Table.find t.carriers k).map Carrier.standing = (Table.find s.carriers k).map Carrier.standing

theorem State.sameStanding_modifyCarrier (s : State) (c : Nat) {f : Carrier → Carrier}
    (hf : ∀ k, (f k).standing = k.standing) : s.SameStanding (s.modifyCarrier c f) := by
  intro k
  rw [State.find_modifyCarrier]
  by_cases hk : k = c
  · rw [if_pos hk, hk, Option.map_map]
    exact congrArg (Option.map · _) (funext hf)
  · rw [if_neg hk]

/-- The rating of the call on a handle: that call, accounts, records, counts of the sweep and notices (R68). -/
structure State.Accounted (s t : State) (h : Nat) : Prop where
  calls : ∀ m, m ≠ h → t.call m = s.call m
  standing : s.SameStanding t
  records : ∃ q e f d, t.records = { s.records with queue := q, almostEmpty := e, almostFull := f, dropped := d }
  sweep : s.periods.sweep = none → t.periods.sweep = none
  tells : s.Tells t
  frame : ∃ cs ks q l sw, t =
    { s with calls := cs, carriers := ks, records := q, link := l, periods := { s.periods with sweep := sw } }

theorem State.Accounted.refl (s : State) (h : Nat) : s.Accounted s h :=
  ⟨fun _ _ => rfl, fun _ => rfl, ⟨_, _, _, _, rfl⟩, id, .refl s, _, _, _, _, _, rfl⟩

theorem State.Accounted.trans {h : Nat} (hs : s.Accounted t h) (ht : t.Accounted u h) : s.Accounted u h where
  calls m hm := (ht.calls m hm).trans (hs.calls m hm)
  standing k := (ht.standing k).trans (hs.standing k)
  records := by
    obtain ⟨q, e, f, d, hq⟩ := hs.records
    obtain ⟨q', e', f', d', hq'⟩ := ht.records
    exact ⟨q', e', f', d', by rw [hq', hq]⟩
  sweep := ht.sweep ∘ hs.sweep
  tells := hs.tells.trans ht.tells
  frame := by
    obtain ⟨cs, ks, q, l, sw, rfl⟩ := hs.frame
    obtain ⟨cs', ks', q', l', sw', rfl⟩ := ht.frame
    exact ⟨cs', ks', q', l', sw', rfl⟩

theorem State.accounted_modifyCarrier (s : State) (c h : Nat) {f : Carrier → Carrier}
    (hf : ∀ k, (f k).standing = k.standing) : s.Accounted (s.modifyCarrier c f) h :=
  ⟨fun _ _ => rfl, s.sameStanding_modifyCarrier c hf, ⟨_, _, _, _, rfl⟩, id, .of_link rfl, _, _, _, _, _, rfl⟩

theorem State.accounted_modifyAccountOf (s : State) (r : Record) (f : Account → Account) (h : Nat) :
    s.Accounted (s.modifyAccountOf r f) h :=
  s.accounted_modifyCarrier r.carrier h fun k => by split <;> rfl

theorem State.accounted_setRating (s : State) (h : Nat) (r : Rating) : s.Accounted (s.setRating h r) h :=
  ⟨fun m hm => by rw [State.call_setRating, if_neg hm], fun _ => rfl, ⟨_, _, _, _, rfl⟩, id, .of_link rfl, _, _, _, _, _, rfl⟩

theorem State.accounted_writeRecord (s : State) (r : Record) (h : Nat) : s.Accounted (s.writeRecord r) h := by
  have htells := s.tells_writeRecord r
  rcases s.writeRecord_spec r with ⟨-, l, hw⟩ | ⟨-, hw⟩
  · rw [hw] at htells ⊢
    exact ⟨fun _ _ => rfl, (s.accounted_modifyAccountOf r (·.addRecorded r.charge) h).standing, ⟨_, _, _, _, rfl⟩, id, htells,
      _, _, _, _, _, rfl⟩
  · rw [hw] at htells ⊢
    exact ⟨fun _ _ => rfl, (s.accounted_modifyAccountOf r (·.addOverflow r.charge) h).standing, ⟨_, _, _, _, rfl⟩, id, htells,
      _, _, _, _, _, rfl⟩

theorem State.accounted_evaluateCap (s : State) (c : Nat) (cause : CapCause) (h : Nat) :
    s.Accounted (s.evaluateCap c cause) h := by
  cases hc : Table.find s.carriers c with
  | none =>
    rw [s.evaluateCap_of_none hc]
    exact .refl s h
  | some k =>
    have htells := s.tells_evaluateCap c cause
    obtain ⟨l, he⟩ := s.evaluateCap_spec hc cause
    rw [he] at htells ⊢
    exact ⟨fun _ _ => rfl, s.sameStanding_modifyCarrier c (f := fun k => { k with capReached := k.capHolds }) fun _ => rfl,
      ⟨_, _, _, _, rfl⟩, id, htells, _, _, _, _, _, rfl⟩

theorem State.accounted_chargeCall (s : State) (h c : Nat) (r : Rating) (w : Nat) : s.Accounted (s.chargeCall h c r w) h := by
  refine (s.accounted_setRating h (r.addCharge w)).trans ?_
  unfold State.chargeCall State.addToCarrier
  split
  · exact .refl _ h
  · exact (State.accounted_modifyCarrier _ c h (f := fun k => { k with account := k.account.addCharge (r.suAdded w) })
      fun _ => rfl).trans (State.accounted_evaluateCap _ c .addition h)

theorem State.accounted_catchUp (s : State) (h : Nat) (c : Call) (r : Rating) (byTouch : Bool) :
    s.Accounted (s.catchUp h c r byTouch) h := by
  rw [State.catchUp_eq]
  refine State.Accounted.trans (t := if r.owesPartial then s.writeRecord (c.record h r none) else s) ?_ ?_
  · split
    · exact s.accounted_writeRecord _ h
    · exact .refl s h
  · generalize (if r.owesPartial then s.writeRecord (c.record h r none) else s) = t
    refine ((t.accounted_setRating h (r.caughtUp s.periods.number)).trans
      (State.accounted_modifyCarrier _ c.carrier h (f := fun k =>
        { k with snapshot := { k.snapshot with pendingCalls := k.snapshot.pendingCalls - 1 } }) fun _ => rfl)).trans ?_
    generalize State.modifyCarrier _ _ _ = v
    exact ⟨fun _ _ => rfl, fun _ => rfl, ⟨_, _, _, _, rfl⟩, fun hs => by unfold State.countCatchUp; rw [hs]; rfl, .of_link rfl,
      _, _, _, _, _, rfl⟩

theorem State.accounted_ratingClose (s : State) (h : Nat) (c : Call) (cause : CloseCause) :
    s.Accounted (s.ratingClose h c cause).1 h := by
  unfold State.ratingClose
  split
  · rename_i r _ _
    have hfresh : s.Accounted (s.freshen h c r).1 h := by
      unfold State.freshen
      split
      · exact s.accounted_catchUp h c r true
      · exact .refl s h
    exact (hfresh.trans (State.accounted_chargeCall _ h c.carrier _ _)).trans (State.accounted_writeRecord _ _ h)
  · exact .refl s h

/-- A rating close gives a charge for an answered call with a rating context (R66, R68). -/
theorem State.ratingClose_charges (s : State) (h : Nat) (c : Call) (cause : CloseCause) :
    (s.ratingClose h c cause).2.finalCharge.isSome = (c.answered && c.rating.isSome) := by
  unfold State.ratingClose Call.answered
  cases c.answeredAt <;> cases c.rating <;> rfl

/-! ### What a close leaves -/

/-- A restart under way: the calls of some entries closed, circuits idled (R3, R67, R72). -/
structure State.Winds (s t : State) (closed : List (Nat × Call)) : Prop where
  circuits : ∀ n, t.circuit n = { s.circuit n with usage := (t.circuit n).usage }
  spans : ∀ m, ∃ w, t.span m = { s.span m with watch := w } ∧ w.isSome = (s.span m).watch.isSome
  groups : ∀ g, (Table.find t.groups g).map Group.restarted = (Table.find s.groups g).map Group.restarted
  carriers : ∀ k, (Table.find t.carriers k).map Carrier.standing =
    ((Table.find s.carriers k).map Carrier.standing).map fun p => (p.1 - closed.countP fun e => e.2.carrier == k, p.2)
  records : ∃ q e f d, t.records = { s.records with queue := q, almostEmpty := e, almostFull := f, dropped := d }
  sweep : s.periods.sweep = none → t.periods.sweep = none
  tells : s.Tells t
  frame : ∃ ci sp gs cs ks q l sw, t =
    { s with circuits := ci, spans := sp, groups := gs, calls := cs, carriers := ks, records := q, link := l
             periods := { s.periods with sweep := sw } }

theorem State.Accounted.winds {h : Nat} (ha : s.Accounted t h) : s.Winds t [] where
  circuits n := by
    obtain ⟨cs, ks, q, l, sw, rfl⟩ := ha.frame
    rfl
  spans m := by
    obtain ⟨cs, ks, q, l, sw, rfl⟩ := ha.frame
    exact ⟨_, rfl, rfl⟩
  groups g := by
    obtain ⟨cs, ks, q, l, sw, rfl⟩ := ha.frame
    rfl
  carriers k := (ha.standing k).trans Option.map_id'.symm
  records := ha.records
  sweep := ha.sweep
  tells := ha.tells
  frame := by
    obtain ⟨cs, ks, q, l, sw, rfl⟩ := ha.frame
    exact ⟨_, _, _, _, _, _, _, _, rfl⟩

theorem State.Winds.trans {es fs : List (Nat × Call)} (hs : s.Winds t es) (ht : t.Winds u fs) : s.Winds u (es ++ fs) where
  circuits n := by rw [ht.circuits n, hs.circuits n]
  spans m := by
    obtain ⟨w, hw, hopen⟩ := hs.spans m
    obtain ⟨w', hw', hopen'⟩ := ht.spans m
    exact ⟨w', by rw [hw', hw], by rw [hopen', hw, hopen]⟩
  groups g := (ht.groups g).trans (hs.groups g)
  carriers k := by
    rw [ht.carriers k, hs.carriers k, Option.map_map, List.countP_append]
    exact congrArg (Option.map · _) (funext fun p => by simp [Nat.sub_sub])
  records := by
    obtain ⟨q, e, f, d, hq⟩ := hs.records
    obtain ⟨q', e', f', d', hq'⟩ := ht.records
    exact ⟨q', e', f', d', by rw [hq', hq]⟩
  sweep := ht.sweep ∘ hs.sweep
  tells := hs.tells.trans ht.tells
  frame := by
    obtain ⟨ci, sp, gs, cs, ks, q, l, sw, rfl⟩ := hs.frame
    obtain ⟨ci', sp', gs', cs', ks', q', l', sw', rfl⟩ := ht.frame
    exact ⟨ci', sp', gs', cs', ks', q', l', sw', rfl⟩

theorem State.Winds.refl (s : State) : s.Winds s [] := (State.Accounted.refl s 0).winds

theorem State.setUsage_restarted (s : State) (n : Nat) (v : Usage) (g : Nat) :
    (Table.find (s.setUsage n v).groups g).map Group.restarted = (Table.find s.groups g).map Group.restarted := by
  cases hg : (s.circuit n).group with
  | none =>
    rw [s.setUsage_of_none hg]
    rfl
  | some k =>
    rw [s.setUsage_of_some hg, State.find_modifyGroup]
    by_cases hk : g = k
    · rw [if_pos hk, Option.map_map, hk]
      rfl
    · rw [if_neg hk]
      rfl

theorem State.winds_makeIdle (s : State) (n : Nat) : s.Winds (s.makeIdle n) [] := by
  obtain ⟨hcircuit, hspan, hgroups, cs, gs, ss, hframe⟩ := s.makeIdle_spec n
  have hlink := s.makeIdle_link n
  have hrestarted := s.setUsage_restarted n .idle
  rw [← hgroups] at hrestarted
  generalize s.makeIdle n = t at *
  refine ⟨fun m => ?circuits, fun m => ?spans, hrestarted, fun k => ?carriers, ?records, ?sweep, .of_link hlink, ?frame⟩
  case circuits =>
    rw [hcircuit]
    split
    · rename_i hm
      rw [hm]
    · rfl
  case spans =>
    rw [hspan]
    split
    · exact ⟨_, rfl, Option.isSome_map⟩
    · exact ⟨_, rfl, rfl⟩
  case carriers =>
    rw [hframe]
    exact Option.map_id'.symm
  case records => exact ⟨_, _, _, _, by rw [hframe]⟩
  case sweep =>
    rw [hframe]
    exact id
  case frame => exact ⟨_, _, _, _, _, _, _, _, hframe⟩

theorem State.winds_freeCall (s : State) (h : Nat) (c : Call) : s.Winds (s.freeCall h c) [(h, c)] where
  circuits _ := rfl
  spans _ := ⟨_, rfl, rfl⟩
  groups _ := rfl
  carriers k := by
    show (Table.find (s.closeCallOn c.carrier).carriers k).map Carrier.standing = _
    unfold State.closeCallOn
    rw [State.find_modifyCarrier, List.countP_singleton]
    by_cases hk : k = c.carrier
    · rw [if_pos hk, hk, if_pos (beq_self_eq_true _), Option.map_map, Option.map_map]
      rfl
    · rw [if_neg hk, if_neg (by simpa using Ne.symm hk)]
      exact Option.map_id'.symm
  records := ⟨_, _, _, _, rfl⟩
  sweep := id
  tells := .of_link rfl
  frame := ⟨_, _, _, _, _, _, _, _, rfl⟩

/-- A call closed at a restart (R67, R72). -/
theorem State.winds_closeCall (s : State) (h : Nat) (c : Call) (cause : CloseCause) :
    s.Winds (s.closeCall h c cause true).1 [(h, c)] := by
  rw [State.closeCall_eq, if_pos rfl]
  exact ((s.accounted_ratingClose h c cause).winds.trans (State.winds_makeIdle _ c.circuit)).trans
    (State.winds_freeCall _ h c)

theorem State.call_closeCall (s : State) (h : Nat) (c : Call) (cause : CloseCause) (k : Nat) :
    (s.closeCall h c cause true).1.call k = if k = h then none else s.call k := by
  rw [State.closeCall_eq, if_pos rfl]
  have hcalls := State.makeIdle_calls (s.ratingClose h c cause).1 c.circuit
  show Table.find (Table.erase ((s.ratingClose h c cause).1.makeIdle c.circuit).calls h) k = _
  rw [hcalls, Table.find_erase]
  split
  · rfl
  · exact (s.accounted_ratingClose h c cause).calls k ‹_›

/-! ### The calls closed one after another -/

/-- A restart frees the handles it goes through, and no other (R72). -/
theorem call_restartCloses : ∀ (hs : List Nat) (s : State) (tally : RestartTally) (k : Nat),
    (restartCloses hs s tally).1.call k = if k ∈ hs then none else s.call k
  | [], s, tally, k => (if_neg List.not_mem_nil).symm
  | h :: hs, s, tally, k => by
    unfold restartCloses
    cases hc : s.call h with
    | none =>
      dsimp only
      rw [call_restartCloses hs s tally k]
      by_cases hk : k = h
      · rw [hk, hc]; simp
      · simp [hk]
    | some c =>
      dsimp only
      rw [call_restartCloses hs _ _ k, State.call_closeCall]
      by_cases hk : k = h <;> simp [hk]

theorem restartCloses_winds : ∀ (hs : List Nat) (s : State) (tally : RestartTally),
    ∃ es, s.Winds (restartCloses hs s tally).1 es
  | [], s, _ => ⟨[], .refl s⟩
  | h :: hs, s, tally => by
    unfold restartCloses
    split
    · exact restartCloses_winds hs s tally
    · obtain ⟨es, hes⟩ := restartCloses_winds hs (s.closeCall h ‹_› .restart true).1 _
      exact ⟨_, (s.winds_closeCall h _ .restart).trans hes⟩

/-- A call that a rating close gives a FINAL record (R68). -/
def Call.rated (c : Call) : Bool := c.answered && c.rating.isSome

/-- Every call of a table is closed and counted (R72, R190). -/
theorem restartCloses_counted : ∀ (es : List (Nat × Call)) (s : State) (tally : RestartTally), (es.map Prod.fst).Nodup →
    (∀ e ∈ es, s.call e.1 = some e.2) →
    s.Winds (restartCloses (es.map Prod.fst) s tally).1 es ∧ (restartCloses (es.map Prod.fst) s tally).2 =
      { calls := tally.calls + es.length, records := tally.records + es.countP fun e => e.2.rated }
  | [], s, _, _, _ => ⟨.refl s, rfl⟩
  | e :: es, s, tally, hnodup, hall => by
    obtain ⟨hnew, hnodup'⟩ := List.nodup_cons.mp hnodup
    have hrest : ∀ e' ∈ es, (s.closeCall e.1 e.2 .restart true).1.call e'.1 = some e'.2 := fun e' he' => by
      have hne : e'.1 ≠ e.1 := fun heq => hnew (heq ▸ List.mem_map_of_mem he')
      rw [State.call_closeCall, if_neg hne]
      exact hall e' (List.mem_cons_of_mem _ he')
    rw [List.map_cons, restartCloses, hall e List.mem_cons_self]
    dsimp only
    obtain ⟨hwinds, htally⟩ := restartCloses_counted es (s.closeCall e.1 e.2 .restart true).1
      { calls := tally.calls + 1
        records := tally.records + if (s.closeCall e.1 e.2 .restart true).2.finalCharge.isSome then 1 else 0 } hnodup' hrest
    refine ⟨(s.winds_closeCall e.1 e.2 .restart).trans hwinds, ?_⟩
    have hcharged : (s.closeCall e.1 e.2 .restart true).2.finalCharge.isSome = e.2.rated :=
      s.ratingClose_charges e.1 e.2 .restart
    rw [htally, hcharged, List.length_cons, List.countP_cons]
    simp only [RestartTally.mk.injEq]
    omega

/-! ### The FINAL records -/

theorem State.closeCall_records (s : State) (h : Nat) (c : Call) (cause : CloseCause) :
    (s.closeCall h c cause true).1.records = (s.ratingClose h c cause).1.records := by
  rw [State.closeCall_eq, if_pos rfl]
  obtain ⟨-, -, -, cs, gs, ss, hframe⟩ := (s.ratingClose h c cause).1.makeIdle_spec c.circuit
  show ((s.ratingClose h c cause).1.makeIdle c.circuit).records = _
  rw [hframe]

/-- A rated call of the current period writes its FINAL record where the queue has room (R144, R173). -/
theorem State.queue_closeCall_rated {h : Nat} {c : Call} {r : Rating} {at_ : Nat} (hat : c.answeredAt = some at_)
    (hr : c.rating = some r) (hmark : r.mark = s.periods.number) (hroom : s.records.queue.length < 2048)
    (cause : CloseCause) :
    (s.closeCall h c cause true).1.records.queue = s.records.queue ++ [s.finalRecord h c r at_ cause] := by
  rw [State.closeCall_records, State.ratingClose_of_current hat hr hmark]
  obtain ⟨-, -, cs, ks, l, hframe⟩ := s.chargeCall_spec h c.carrier { r with residue := 0 } (roundingSU r.residue)
  unfold State.writeFinal
  generalize s.chargeCall h c.carrier { r with residue := 0 } (roundingSU r.residue) = u at hframe
  have hqueue : u.records.queue = s.records.queue := by rw [hframe]
  rcases u.writeRecord_spec (s.finalRecord h c r at_ cause) with ⟨-, l', hw⟩ | ⟨hfull, -⟩
  · rw [hw, ← hqueue]
  · rw [hqueue] at hfull
    omega

theorem State.queue_closeCall_unrated {h : Nat} {c : Call} (hc : c.rated = false) (cause : CloseCause) :
    (s.closeCall h c cause true).1.records.queue = s.records.queue := by
  have hun : c.answeredAt = none ∨ c.rating = none := by
    unfold Call.rated Call.answered at hc
    cases ha : c.answeredAt with
    | none => exact .inl rfl
    | some a =>
      rw [ha] at hc
      exact .inr (by simpa using hc)
  rw [State.closeCall_records, s.ratingClose_unrated hun]

/-- The FINAL records of a restart stand in the order of the handles (R72, R190). -/
theorem restartCloses_finals : ∀ (es : List (Nat × Call)) (s : State) (tally : RestartTally), (es.map Prod.fst).Nodup →
    (∀ e ∈ es, s.call e.1 = some e.2) → (∀ e ∈ es, ∀ r, e.2.rating = some r → r.mark = s.periods.number) →
    s.records.queue.length + (es.filter fun e => e.2.rated).length ≤ 2048 →
    ∃ finals, (restartCloses (es.map Prod.fst) s tally).1.records.queue = s.records.queue ++ finals ∧
      (finals.map fun r => (r.handle, r.serial)) = ((es.filter fun e => e.2.rated).map fun e => (e.1, e.2.serial)) ∧
      ∀ r ∈ finals, ∃ part, r.final = some part ∧ part.cause = .restart
  | [], s, _, _, _, _, _ => ⟨[], (List.append_nil _).symm, rfl, fun _ hr => absurd hr List.not_mem_nil⟩
  | e :: es, s, tally, hnodup, hall, hmarks, hroom => by
    obtain ⟨hnew, hnodup'⟩ := List.nodup_cons.mp hnodup
    have hnumber : (s.closeCall e.1 e.2 .restart true).1.periods.number = s.periods.number := by
      obtain ⟨ci, sp, gs, cs, ks, q, l, sw, hframe⟩ := (s.winds_closeCall e.1 e.2 .restart).frame
      rw [hframe]
    have hrest : ∀ e' ∈ es, (s.closeCall e.1 e.2 .restart true).1.call e'.1 = some e'.2 := fun e' he' => by
      have hne : e'.1 ≠ e.1 := fun heq => hnew (heq ▸ List.mem_map_of_mem he')
      rw [State.call_closeCall, if_neg hne]
      exact hall e' (List.mem_cons_of_mem _ he')
    have hmarks' : ∀ e' ∈ es, ∀ r, e'.2.rating = some r →
        r.mark = (s.closeCall e.1 e.2 .restart true).1.periods.number := fun e' he' r hr =>
      (hmarks e' (List.mem_cons_of_mem _ he') r hr).trans hnumber.symm
    rw [List.map_cons, restartCloses, hall e List.mem_cons_self]
    dsimp only
    cases hrated : e.2.rated with
    | false =>
      have hqueue := State.queue_closeCall_unrated (s := s) (h := e.1) hrated .restart
      rw [List.filter_cons_of_neg (by rw [hrated]; decide)] at hroom ⊢
      rw [← hqueue] at hroom ⊢
      exact restartCloses_finals es _ _ hnodup' hrest hmarks' hroom
    | true =>
      obtain ⟨hanswered, hrating⟩ := Bool.and_eq_true_iff.mp hrated
      obtain ⟨at_, hat⟩ := Option.isSome_iff_exists.mp hanswered
      obtain ⟨r, hr⟩ := Option.isSome_iff_exists.mp hrating
      rw [List.filter_cons_of_pos (by rw [hrated])] at hroom ⊢
      rw [List.length_cons] at hroom
      have hqueue := State.queue_closeCall_rated (s := s) (h := e.1) hat hr (hmarks e List.mem_cons_self r hr) (by omega)
        .restart
      obtain ⟨finals, hfinals, hhandles, hcauses⟩ := restartCloses_finals es _
        { calls := tally.calls + 1
          records := tally.records + if (s.closeCall e.1 e.2 .restart true).2.finalCharge.isSome then 1 else 0 }
        hnodup' hrest hmarks' (by rw [hqueue, List.length_append, List.length_singleton]; omega)
      refine ⟨s.finalRecord e.1 e.2 r at_ .restart :: finals, ?_, ?_, fun x hx => ?_⟩
      · rw [hfinals, hqueue, List.append_assoc]
        rfl
      · rw [List.map_cons, hhandles]
        rfl
      · rcases List.mem_cons.mp hx with rfl | hx
        · exact ⟨_, rfl, rfl⟩
        · exact hcauses x hx

/-! ### The circuits idled -/

theorem foldl_makeIdle_winds : ∀ (ns : List Nat) (s : State), s.Winds (ns.foldl State.makeIdle s) [] ∧
    (∃ cs gs ss, ns.foldl State.makeIdle s = { s with circuits := cs, groups := gs, spans := ss }) ∧
    ∀ n, ((ns.foldl State.makeIdle s).circuit n).usage = if n ∈ ns then .idle else (s.circuit n).usage
  | [], s => ⟨.refl s, ⟨_, _, _, rfl⟩, fun _ => (if_neg List.not_mem_nil).symm⟩
  | n :: ns, s => by
    obtain ⟨hwinds, ⟨cs', gs', ss', hframe'⟩, husage⟩ := foldl_makeIdle_winds ns (s.makeIdle n)
    obtain ⟨hcircuit, -, -, cs, gs, ss, hframe⟩ := s.makeIdle_spec n
    refine ⟨(s.winds_makeIdle n).trans hwinds, ⟨cs', gs', ss', hframe'.trans (by rw [hframe])⟩,
      fun m => (husage m).trans ?_⟩
    rw [hcircuit]
    by_cases hm : m = n <;> simp [hm]

/-- Every circuit is idle (R3). -/
theorem State.idleAll_winds (s : State) : s.Winds s.idleAll [] ∧
    (∃ cs gs ss, s.idleAll = { s with circuits := cs, groups := gs, spans := ss }) ∧
    ∀ n, s.idleAll.circuit n = { s.circuit n with usage := .idle } := by
  obtain ⟨hwinds, hframe, husage⟩ := foldl_makeIdle_winds s.busyCircuits s
  refine ⟨hwinds, hframe, fun n => (hwinds.circuits n).trans (congrArg (fun v => { s.circuit n with usage := v })
    ((husage n).trans ?_))⟩
  split
  · rfl
  · by_contra hu
    exact ‹n ∉ _› (State.mem_busyCircuits hu)

/-! ### The watches closed -/

/-- A restart closes the watch of a span, and keeps the rest of its record (R12). -/
theorem State.span_closeWatch (s : State) (sp m : Nat) :
    (s.closeWatch sp).span m = if m = sp then { s.span m with watch := none } else s.span m := by
  unfold State.closeWatch
  dsimp only
  cases hw : (s.span sp).watch with
  | none =>
    rw [State.completeWatch_of_closed _ (by rw [State.span_setSpan, if_pos rfl]; rfl), State.span_setSpan]
    by_cases hm : m = sp
    · rw [if_pos hm, if_pos hm, hm]
      rfl
    · rw [if_neg hm, if_neg hm]
  | some w =>
    rw [State.completeWatch_emptied (w := { w with positions := [] }) (by rw [State.span_setSpan, if_pos rfl]; rfl) rfl,
      State.span_setSpan, State.span_setSpan, if_pos rfl]
    by_cases hm : m = sp
    · rw [if_pos hm, if_pos hm, hm]
    · rw [if_neg hm, if_neg hm]
      refine (State.span_congr (State.raiseIf_spans ..) m).trans ((State.span_congr (State.setFlag_spans ..) m).trans ?_)
      exact (State.span_setSpan ..).trans (if_neg hm)

theorem State.tells_closeWatch (s : State) (sp : Nat) : s.Tells (s.closeWatch sp) :=
  State.Tells.trans (t := s.setSpan sp { s.span sp with
    watch := (s.span sp).watch.map fun w => { w with positions := [] } }) (.of_link rfl) (State.tells_completeWatch ..)

theorem span_foldl_closeWatch : ∀ (sps : List Nat) (s : State) (m : Nat), (sps.foldl State.closeWatch s).span m =
    if m ∈ sps then { s.span m with watch := none } else s.span m
  | [], _, _ => (if_neg List.not_mem_nil).symm
  | sp :: sps, s, m => by
    rw [List.foldl_cons, span_foldl_closeWatch sps (s.closeWatch sp) m, State.span_closeWatch]
    by_cases hm : m = sp <;> by_cases hmem : m ∈ sps <;> simp [hm, hmem]

/-- Every watch is closed (R12). -/
theorem State.closeWatches_spec (s : State) : let t := s.openWatches.foldl State.closeWatch s
    (∀ m, t.span m = { s.span m with watch := none }) ∧ s.Tells t ∧ ∃ ss l, t = { s with spans := ss, link := l } := by
  refine ⟨fun m => (span_foldl_closeWatch _ s m).trans ?_, State.tells_foldl State.tells_closeWatch _ s,
    (foldl_closeWatch_spec s.openWatches s).1⟩
  split
  · rfl
  · cases hw : (s.span m).watch with
    | none => rw [← hw]
    | some w => exact absurd (State.mem_openWatches hw) ‹_›

/-- The spans with an open watch, once each (log 16). -/
theorem State.openWatches_spec (hr : Table.rising s.spans = true) :
    s.openWatches.Nodup ∧ ∀ m, m ∈ s.openWatches ↔ (s.span m).watch.isSome = true := by
  refine ⟨List.pairwise_map.mpr ((((Table.rising_iff _).mp hr).filter _).imp Nat.ne_of_lt), fun m => ⟨fun hm => ?_, fun hm => ?_⟩⟩
  · obtain ⟨⟨k, r⟩, he, rfl⟩ := List.mem_map.mp hm
    obtain ⟨hmem, hopen⟩ := List.mem_filter.mp he
    unfold State.span
    rw [Table.find_of_mem hr hmem]
    exact hopen
  · obtain ⟨w, hw⟩ := Option.isSome_iff_exists.mp hm
    exact State.mem_openWatches hw

/-- As many watches are closed as were open (R190). -/
theorem State.openWatches_length (hs : Table.rising s.spans = true) (ht : Table.rising t.spans = true)
    (hsame : ∀ m, (t.span m).watch.isSome = (s.span m).watch.isSome) :
    t.openWatches.length = s.spans.countP fun e => e.2.watch.isSome := by
  obtain ⟨hnodup, hmem⟩ := State.openWatches_spec hs
  obtain ⟨hnodup', hmem'⟩ := State.openWatches_spec ht
  have hperm : t.openWatches.Perm s.openWatches :=
    (List.perm_ext_iff_of_nodup hnodup' hnodup).mpr fun m => by rw [hmem, hmem', hsame]
  rw [hperm.length_eq, List.countP_eq_length_filter]
  exact List.length_map ..

/-! ### The end of the restart -/

/-- What a restart does after the calls are closed (R3, R12, R26, R112, R122). -/
def State.restarted (s : State) : State := (s.idleAll.openWatches.foldl State.closeWatch s.idleAll).restartBlocks

theorem State.restarted_spec (s : State) :
    (∀ n, s.restarted.circuit n = { s.circuit n with usage := .idle }) ∧
    (∀ m, s.restarted.span m = { s.span m with watch := none }) ∧
    (∀ g, Table.find s.restarted.groups g = (Table.find s.groups g).map Group.restarted) ∧ s.Tells s.restarted ∧
    ∃ ci sp gs l, s.restarted = { s with
      circuits := ci, spans := sp, groups := gs, link := l
      monitor := s.monitor.restarted s.time.seconds, guard := s.guard.restarted } := by
  obtain ⟨hwinds, ⟨cs, gs, ss, hframe⟩, hcircuits⟩ := s.idleAll_winds
  have hgroups := hwinds.groups
  have hspans : ∀ m, { s.idleAll.span m with watch := none } = { s.span m with watch := none } := fun m => by
    obtain ⟨w, hw, -⟩ := hwinds.spans m
    rw [hw]
  have htells := hwinds.tells
  unfold State.restarted
  generalize s.idleAll = v at *
  obtain ⟨hclosed, htells', ss', l, hframe'⟩ := v.closeWatches_spec
  generalize v.openWatches.foldl State.closeWatch v = w at *
  obtain ⟨l', hreport⟩ := State.reportGuard_frame { w with
    groups := Table.mapAll w.groups Group.restarted
    monitor := w.monitor.restarted w.time.seconds
    guard := w.guard.restarted } w.guard.state .restart none
  have hdone : w.restartBlocks = { w with
      groups := Table.mapAll w.groups Group.restarted
      monitor := w.monitor.restarted w.time.seconds
      guard := w.guard.restarted
      link := l' } := hreport
  have htold : w.Tells w.restartBlocks := State.Tells.trans (t := { w with
    groups := Table.mapAll w.groups Group.restarted
    monitor := w.monitor.restarted w.time.seconds
    guard := w.guard.restarted }) (.of_link rfl) (State.tells_reportGuard ..)
  refine ⟨fun n => ?_, fun m => ?_, fun g => ?_, (htells.trans htells').trans htold, ?_⟩
  · rw [hdone, ← hcircuits, hframe']
    rfl
  · rw [hdone, ← hspans, ← hclosed]
    rfl
  · rw [hdone, ← hgroups]
    refine (Table.find_mapAll ..).trans ?_
    rw [hframe']
  · rw [hdone, hframe', hframe]
    exact ⟨_, _, _, _, rfl⟩

theorem State.finishSweep_of_none (h : s.periods.sweep = none) (fuel : Nat) : State.finishSweep fuel s = s := by
  cases fuel with
  | zero => rfl
  | succ fuel => exact if_neg (by rw [h]; decide)

/-- A restart, from the state that the sweeps leave (R190). -/
theorem deviceRestart_of_swept {tally : RestartTally} (hswept : State.finishSweep 16384 s = t)
    (hclosed : restartCloses (t.calls.map Prod.fst) t { calls := 0, records := 0 } = (u, tally)) :
    deviceRestart s = (.restarted tally.calls tally.records u.idleAll.openWatches.length, u.restarted) := by
  have hkeys : restartCloses (t.calls.map fun e => e.1) t { calls := 0, records := 0 } = (u, tally) := hclosed
  unfold deviceRestart
  rw [hswept]
  dsimp only
  rw [hkeys]
  rfl

end Sys2Proof.Machine
end

section
/-! PROOFS. The device restart: a sweep in flight carried to its end, and the statement of the restart (R169, R190). -/

namespace Sys2Proof.Machine

open Sys2Proof

variable {s t u : State} {type : Byte} {tag : Tag} {p : List Byte}

/-! ### Sweeps carried to their end -/

theorem State.visitCall_periods (s : State) (h : Nat) : ∃ sw, (s.visitCall h).periods = { s.periods with sweep := sw } := by
  unfold State.visitCall
  split
  · exact ⟨_, rfl⟩
  · split
    · exact ⟨_, rfl⟩
    · split
      · obtain ⟨cs, ks, q, l, sw, hframe⟩ := s.catchUp_frame h ‹_› ‹_› false
        exact ⟨sw, by rw [hframe]⟩
      · exact ⟨_, rfl⟩

/-- A visit before the last handle goes on to the next (R162). -/
theorem State.sweepVisit_goes_on {sw : Sweep} (hs : s.periods.sweep = some sw) (hlt : sw.nextHandle < 8191) :
    ∃ sw', s.sweepVisit.periods = { s.periods with sweep := some sw' } ∧ sw'.nextHandle = sw.nextHandle + 1 := by
  obtain ⟨sw', hperiods⟩ := s.visitCall_periods sw.nextHandle
  unfold State.sweepVisit
  rw [hs]
  dsimp only
  rw [if_neg (by omega)]
  dsimp only
  rw [hperiods]
  exact ⟨_, rfl, rfl⟩

/-- The visit of the last handle ends the sweep, and a deferred boundary starts the next close (R164). -/
theorem State.sweepVisit_ends {sw : Sweep} (hs : s.periods.sweep = some sw) (hlast : sw.nextHandle = 8191) :
    s.sweepVisit.flag .period = true ∧
    (s.periods.deferred = false → s.sweepVisit.periods = { s.periods with sweep := none }) ∧
    (s.periods.deferred = true → s.sweepVisit.periods.deferred = false ∧
      s.sweepVisit.periods.number = (s.periods.number + 1) % 4294967296 ∧
      ∃ sw', s.sweepVisit.periods.sweep = some sw' ∧ sw'.nextHandle = 0) := by
  obtain ⟨sw', hperiods⟩ := s.visitCall_periods sw.nextHandle
  have hdone : ∃ moved, s.sweepVisit = (s.visitCall sw.nextHandle).endSweep moved := by
    unfold State.sweepVisit
    rw [hs]
    dsimp only
    rw [if_pos (by omega)]
    exact ⟨_, rfl⟩
  obtain ⟨moved, hdone⟩ := hdone
  rw [hdone]
  generalize s.visitCall sw.nextHandle = v at hperiods ⊢
  have hdeferred : v.periods.deferred = s.periods.deferred := by rw [hperiods]
  have hnumber : v.periods.number = s.periods.number := by rw [hperiods]
  obtain ⟨ks, l, htold⟩ := v.sweepTold_frame moved
  cases hd : s.periods.deferred with
  | false =>
    rw [State.endSweep_of_not_deferred (hdeferred.trans hd)]
    refine ⟨v.sweepTold_flag moved, fun _ => ?_, nofun⟩
    dsimp only
    rw [hperiods]
  | true =>
    have hstart (w : State) : (w.closeStart .boundary).periods = w.closedPeriods .boundary := by rw [State.closeStart_eq]
    have hnumber' : (v.sweepTold moved).periods.number = s.periods.number := by rw [htold]; exact hnumber
    rw [State.endSweep_of_deferred (hdeferred.trans hd)]
    refine ⟨(State.tells_closeStart _ .boundary).flag (v.sweepTold_flag moved), nofun, fun _ => ?_⟩
    rw [hstart]
    refine ⟨rfl, ?_, _, rfl, rfl⟩
    rw [← hnumber']
    rfl

/-- A sweep is carried to the visit of its last handle (R169). -/
theorem State.finishSweep_to_last : ∀ (k fuel : Nat) (s : State) (sw : Sweep), s.periods.sweep = some sw →
    sw.nextHandle + k = 8191 → ∃ (v : State) (sw' : Sweep), State.finishSweep (fuel + k + 1) s = State.finishSweep fuel v.sweepVisit ∧
      v.periods = { s.periods with sweep := some sw' } ∧ sw'.nextHandle = 8191
  | 0, fuel, s, sw, hs, hk => ⟨s, sw, if_pos (by rw [hs]; rfl), by rw [← hs], hk⟩
  | k + 1, fuel, s, sw, hs, hk => by
    obtain ⟨sw', hperiods, hnext⟩ := State.sweepVisit_goes_on hs (by omega)
    obtain ⟨v, sw'', hdone, hv, hlast⟩ := State.finishSweep_to_last k fuel s.sweepVisit sw' (by rw [hperiods]) (by omega)
    exact ⟨v, sw'', (if_pos (by rw [hs]; rfl)).trans hdone, by rw [hv, hperiods], hlast⟩

/-- Every sweep in flight, and the close of a deferred boundary with it, is carried to its end (R169). -/
theorem State.finishSweep_spec (hs : s.periods.Sound) {fuel : Nat} (hfuel : 16384 ≤ fuel) :
    (State.finishSweep fuel s).periods.sweep = none ∧ (State.finishSweep fuel s).periods.deferred = false ∧
    (s.periods.sweep.isSome = true → (State.finishSweep fuel s).flag .period = true) ∧
    (State.finishSweep fuel s).periods.number =
      if s.periods.deferred = true then (s.periods.number + 1) % 4294967296 else s.periods.number := by
  obtain ⟨-, -, hdeferred, hnext⟩ := hs
  cases hsweep : s.periods.sweep with
  | none =>
    have hd : s.periods.deferred = false := Bool.eq_false_iff.mpr fun hd => by
      have hsome := hdeferred hd
      rw [hsweep] at hsome
      cases hsome
    rw [State.finishSweep_of_none hsweep, hd]
    exact ⟨hsweep, rfl, nofun, rfl⟩
  | some sw =>
    have hlt := hnext sw hsweep
    obtain ⟨f, rfl⟩ := Nat.exists_eq_add_of_le' (show 8191 - sw.nextHandle + 1 ≤ fuel by omega)
    obtain ⟨v, sw', hdone, hv, hlast⟩ := State.finishSweep_to_last (8191 - sw.nextHandle) f s sw hsweep (by omega)
    obtain ⟨hflag, hends, hstarts⟩ := State.sweepVisit_ends (s := v) (by rw [hv]) hlast
    have hdv : v.periods.deferred = s.periods.deferred := by rw [hv]
    have hnv : v.periods.number = s.periods.number := by rw [hv]
    rw [← Nat.add_assoc, hdone]
    cases hd : s.periods.deferred with
    | false =>
      have hperiods := hends (hdv.trans hd)
      rw [State.finishSweep_of_none (by rw [hperiods]), hperiods]
      exact ⟨rfl, hdv.trans hd, fun _ => hflag, hnv⟩
    | true =>
      obtain ⟨hdeferred', hnumber, sw'', hsweep', hzero⟩ := hstarts (hdv.trans hd)
      obtain ⟨f', rfl⟩ := Nat.exists_eq_add_of_le' (show 8191 + 1 ≤ f by omega)
      obtain ⟨w, sw₃, hdone', hw, hlast'⟩ := State.finishSweep_to_last 8191 f' v.sweepVisit sw'' hsweep' (by omega)
      obtain ⟨hflag', hends', -⟩ := State.sweepVisit_ends (s := w) (by rw [hw]) hlast'
      have hperiods := hends' (by rw [hw]; exact hdeferred')
      rw [← Nat.add_assoc, hdone', State.finishSweep_of_none (by rw [hperiods]), hperiods, hw]
      exact ⟨rfl, hdeferred', fun _ => hflag', by rw [hnumber, hnv]; rfl⟩

/-! ### The request -/

/-- The restart replies before all that it raises (R185, R190). -/
theorem exec_deviceRestart (h : s.takesNow 0x03 tag []) {body : Body}
    (hrun : deviceRestart s.dropHeadRequest.withoutMessages = (body, t)) :
    exec (.deviceRestart tag []) s =
      .next (t.replied (s.link.sendList ++ [{ code := 0x03, tag := tag, body := body }])) := by
  refine congrArg Host.Outcome.next ((State.serve_operands h (parse := parseEmpty) (a := ()) rfl
    fun s _ => deviceRestart s).trans ((State.serve_of_takesNow h _).trans ?_))
  rw [hrun]
  rfl

/-- A restart leaves no call (R72). -/
theorem call_of_restartCloses {tally tally' : RestartTally}
    (hclosed : restartCloses (s.calls.map Prod.fst) s tally = (u, tally')) (h : Nat) : u.call h = none := by
  have hcall := call_restartCloses (s.calls.map Prod.fst) s tally h
  rw [hclosed] at hcall
  refine hcall.trans ?_
  split
  · rfl
  · cases hc : s.call h with
    | none => rfl
    | some c => exact absurd (List.mem_map_of_mem (Table.mem_of_find hc)) ‹_›

/-- A restart that finds a sweep in flight, or none (R169, R190). -/
theorem exec_deviceRestart_swept (h : s.takesNow 0x03 tag []) (hs : s.periods.Sound) :
    runsTo (exec (.deviceRestart tag []) s) fun t =>
      (∀ h, t.call h = none) ∧ t.periods.sweep = none ∧ t.periods.deferred = false ∧
      (s.periods.sweep.isSome = true → t.flag .period = true) ∧
      t.periods.number = if s.periods.deferred = true then (s.periods.number + 1) % 4294967296
        else s.periods.number := by
  obtain ⟨hsweep, hdeferred, hflag, hnumber⟩ :=
    State.finishSweep_spec (s := s.dropHeadRequest.withoutMessages) hs (Nat.le_refl 16384)
  generalize hswept : State.finishSweep 16384 s.dropHeadRequest.withoutMessages = w at hsweep hdeferred hflag hnumber
  obtain ⟨es, hwinds⟩ := restartCloses_winds (w.calls.map Prod.fst) w { calls := 0, records := 0 }
  rcases hclosed : restartCloses (w.calls.map Prod.fst) w { calls := 0, records := 0 } with ⟨u, tally⟩
  rw [hclosed] at hwinds
  dsimp only at hwinds
  have hfree := call_of_restartCloses hclosed
  obtain ⟨-, -, -, htells, ci, sp, gs, l, hframe⟩ := u.restarted_spec
  refine ⟨_, exec_deviceRestart h (deviceRestart_of_swept hswept hclosed), ?_⟩
  have hflags := htells.flag (f := .period)
  have hclosedSweep := hwinds.sweep hsweep
  obtain ⟨ci', sp', gs', cs, ks, q, l', sw, hframe'⟩ := hwinds.frame
  have hnone : sw = none := by rw [hframe'] at hclosedSweep; exact hclosedSweep
  have hperiods : u.periods = { w.periods with sweep := none } := by rw [hframe', hnone]
  have hcalls : ∀ k, u.restarted.call k = none := fun k => by rw [hframe]; exact hfree k
  have hperiods' : u.restarted.periods = { w.periods with sweep := none } := by rw [hframe]; exact hperiods
  generalize u.restarted = v at *
  refine ⟨hcalls, ?_, ?_, fun hsome => hflags (hwinds.tells.flag (hflag hsome)), ?_⟩
  · show v.periods.sweep.map _ = none
    rw [hperiods']
    rfl
  · show v.periods.deferred = false
    rw [hperiods']
    exact hdeferred
  · show v.periods.number = _
    rw [hperiods']
    exact hnumber

/-- Settles O54: the calls are closed one after another, then the circuits, the watches and the blocks follow; a sweep in
flight is carried to its end before. -/
theorem deviceRestartClearsRunningState : Obligations.DeviceRestartClearsRunningState := by
  refine ⟨fun s tag h hsweep htables => ?_, fun s tag h hsound => exec_deviceRestart_swept h hsound⟩
  obtain ⟨hcircuits, hspans, hgroups, hplans, hcalls, htariffs, hcarriers, -⟩ := id htables
  have hnodup : (s.calls.map Prod.fst).Nodup := List.pairwise_map.mpr (((Table.rising_iff _).mp hcalls).imp Nat.ne_of_lt)
  have hfound : ∀ e ∈ s.calls, s.call e.1 = some e.2 := fun e he => Table.find_of_mem hcalls he
  obtain ⟨hwinds, htally⟩ := restartCloses_counted s.calls s.dropHeadRequest.withoutMessages
    { calls := 0, records := 0 } hnodup hfound
  have hfinals := restartCloses_finals s.calls s.dropHeadRequest.withoutMessages { calls := 0, records := 0 } hnodup hfound
  have hkeeps := (restartCloses_keeps (s.calls.map Prod.fst) s.dropHeadRequest.withoutMessages
    { calls := 0, records := 0 }).tables htables
  rcases hclosed : restartCloses (s.calls.map Prod.fst) s.dropHeadRequest.withoutMessages
    { calls := 0, records := 0 } with ⟨u, tally⟩
  rw [hclosed] at hwinds htally hfinals hkeeps
  dsimp only at hwinds htally hfinals hkeeps
  have hfree := call_of_restartCloses (s := s.dropHeadRequest.withoutMessages) hclosed
  have hrun := deviceRestart_of_swept (State.finishSweep_of_none (s := s.dropHeadRequest.withoutMessages) hsweep 16384) hclosed
  obtain ⟨hidled, -, -⟩ := u.idleAll_winds
  have hopen : u.idleAll.openWatches.length = s.spans.countP fun e => e.2.watch.isSome :=
    State.openWatches_length hspans ((State.keeps_foldl State.keeps_makeIdle u.busyCircuits u).tables hkeeps).2.1 fun m => by
      obtain ⟨w, hw, hsome⟩ := hwinds.spans m
      obtain ⟨w', hw', hsome'⟩ := hidled.spans m
      rw [hw', hsome', hw, hsome]
      rfl
  rw [hopen, htally, Nat.zero_add, Nat.zero_add] at hrun
  have hexec := exec_deviceRestart h hrun
  obtain ⟨hcircuit, hspan, hgroup, htells, ci, sp, gs, l, hframe⟩ := u.restarted_spec
  have htold := hwinds.tells.trans htells
  obtain ⟨ci', sp', gs', cs, ks, q, l', sw, hframe'⟩ := hwinds.frame
  have hnone : sw = none := by
    have hsw := hwinds.sweep hsweep
    rw [hframe'] at hsw
    exact hsw
  have hperiods : u.periods = s.periods := by
    rw [hframe', hnone, ← hsweep]
    rfl
  have hkept : ∃ ci sp gs l, u.restarted = { s with
      circuits := ci, spans := sp, groups := gs, calls := u.calls, carriers := u.carriers, records := u.records, link := l
      monitor := s.monitor.restarted s.time.seconds, guard := s.guard.restarted } := by
    refine ⟨ci, sp, gs, l, hframe.trans ?_⟩
    rw [hframe', hnone, ← hsweep]
    rfl
  refine ⟨_, hexec, ?_⟩
  generalize u.restarted = v at *
  obtain ⟨ci₁, sp₁, gs₁, l₁, rfl⟩ := hkept
  refine ⟨hfree, fun n => (hcircuit n).trans ?circuit, fun m => (hspan m).trans ?span, fun g => (hgroup g).trans ?group,
    rfl, rfl, ⟨_, List.append_assoc ..⟩, htold.requests, htold.enables, rfl, rfl, rfl, rfl, rfl, rfl, ?periods, rfl,
    fun k x hx => ?carriers, ?records⟩
  case circuit =>
    rw [hwinds.circuits n]
    rfl
  case span =>
    obtain ⟨w, hw, -⟩ := hwinds.spans m
    rw [hw]
    rfl
  case group => exact hwinds.groups g
  case periods =>
    have hsame : ({ s.periods with sweep := none } : Periods) = s.periods := by rw [← hsweep]
    show ({ s.periods with sweep := s.periods.sweep.map _ } : Periods) = s.periods
    rw [hsweep]
    exact hsame
  case carriers =>
    have hk := hwinds.carriers k
    rw [show Table.find s.dropHeadRequest.withoutMessages.carriers k = some x from hx] at hk
    obtain ⟨x', hx', hstanding⟩ := Option.map_eq_some_iff.mp hk
    exact ⟨x', hx', congrArg Prod.fst hstanding, congrArg Prod.snd hstanding⟩
  case records =>
    obtain ⟨q, e, f, d, hq⟩ := hwinds.records
    have hmode : u.records.mode = s.records.mode := by rw [hq]; rfl
    have hempty : u.records.ae = s.records.ae := by rw [hq]; rfl
    have hfull : u.records.af = s.records.af := by rw [hq]; rfl
    have hlost : u.records.lost = s.records.lost := by rw [hq]; rfl
    exact ⟨hmode, hempty, hfull, hlost, hfinals⟩

end Sys2Proof.Machine
end
